-- ==== Sys2Proof/Word.lean ====
section
/-! DEFINITION. Word.lean: the machine word and byte, and the plainest reading of little-endian bytes (R11). -/

namespace Sys2Proof

/-- A value on a move bus, in a general register or in a latch (R42, R51). -/
abbrev Word := BitVec 32

/-- One byte of memory, of a frame or of an image. -/
abbrev Byte := BitVec 8

/-- One 56-bit bundle (R70). -/
abbrev Bundle := BitVec 56

/-- The value of bytes read little-endian (R11). -/
def leNat : List Byte → Nat
  | [] => 0
  | b :: bs => b.toNat + 256 * leNat bs

/-- `n` bytes of a value, little-endian (R11). -/
def leBytes : Nat → Nat → List Byte
  | 0, _ => []
  | n + 1, v => BitVec.ofNat 8 v :: leBytes n (v / 256)

end Sys2Proof
end

