-- ==== Sys2Proof/Syntax.lean ====
section
/-! DEFINITION. Syntax.lean: the commands the part takes: writes and reads of its registers, events on its pins and links, and the
steps of its engines, sequencers and controllers. Each constructor is one row of the specification's table of steps. -/

namespace Sys2Proof

/-- A power domain that commands name (Table 18-5): a tile, a shelf bank 8t + b, or a device domain numbered as R347 says. -/
inductive Dom where
  | tile (t : Fin 32)
  | bank (b : Fin 256)
  | dev (d : Fin 10)
  deriving DecidableEq, Repr

/-- The way a catalogue access comes (R334, R335): the control window of an engine, a ring, the host port or the debug port. -/
inductive Route where
  | window (n : Fin 256)
  | ringA
  | ringB
  | host
  | debug
  deriving DecidableEq, Repr

/-- The target of a locked sequence (R284): a shelf bank or a DRAM channel. -/
inductive LockTarget where
  | bank (b : Fin 256)
  | dram (c : Fin 8)
  deriving DecidableEq, Repr

/-- A submission (R302): an acyclic message of a peer of a ring, a host frame, or the write of ledger.submit by pair m. -/
inductive Submission where
  | ring (r : Fin 2) (peer : Fin 256) (bytes : List Byte)
  | host (seq : Byte) (bytes : List Byte)
  | pair (m : Fin 128) (w : Word)
  deriving DecidableEq, Repr

/-- Where a report is acknowledged from (R311): a peer of a ring, or the host. -/
inductive Origin where
  | ring (r : Fin 2) (peer : Fin 256)
  | host
  deriving DecidableEq, Repr

/-- The fields of lc.cmd but for its command (Table 19-7A). `resv` are the reserved bytes 1 to 3 and 40 to 63. -/
structure LcFields where
  value : Word
  nonce : List Byte
  serial : List Byte
  sig : List Byte
  resv : List Byte
  deriving DecidableEq, Repr

/-- The fields of svc.cmd but for its command (Table 20-1). `resv` are its reserved bits. -/
structure SvcFields where
  job : Fin 16
  source : Byte
  subject : Fin 128
  half : Bool
  folio : Word
  base : Fin 8192
  bias : BitVec 16
  at_ : BitVec 64
  resv : BitVec 103
  deriving DecidableEq, Repr

/-- A step in which a bundle issues: its length in quarter-nanoseconds, and the parcels of the bundle at the program counter that a
disturbance has left with bad parity (R72). -/
structure IssueStep where
  q : Nat
  upset : Fin 16
  deriving DecidableEq, Repr

/-- The commands of the part: one constructor per row of the specification's table of steps, in its order.
[DESIGN CHOICE, log row 1] -/
inductive Instr where
  /-- Engine n issues one bundle in a step (R44); in replay a debugger's logged writes come first (R240). -/
  | bundleIssue (n : Fin 256) (a : IssueStep)
  /-- The oldest outstanding load of engine n returns (R116, R191). `upset` disturbs the word it reads: 0 none, 1 to 72 one bit, above that more. -/
  | loadReturn (n : Fin 256) (upset : Fin 128)
  /-- The oldest buffered store of engine n is performed (R117, R191). -/
  | storePerformed (n : Fin 256)
  /-- Engine n spends a stall step on a bundle held for lsu.q (R54, R56). -/
  | engineStallStep (n : Fin 256)
  /-- A meter step of tile t ends (R154, R155); `release` says whether a release falls due in the one that begins. -/
  | heavyMeterStep (t : Fin 32) (release : Bool)
  /-- The exception due at engine n's boundary is entered (R190, R197, R201, R202). -/
  | exceptionEntry (n : Fin 256)
  /-- An event of source k (R204), at engine n where the source is an engine's own. -/
  | interruptSourceEvent (k : Fin 32) (n : Fin 256)
  /-- An eligible interrupt is taken at engine n (R206); `takeover` is a source whose event comes in the first 6 entry steps (R207). -/
  | interruptEntry (n : Fin 256) (takeover : Option (Fin 32))
  /-- An atomic window still open after its n steps raises 0x06 (R209). -/
  | atomicWindowOverrun (n : Fin 256)
  /-- Engine n's hold ends and the released bundle issues (R174, R176, R188). -/
  | timedWaitRelease (n : Fin 256) (q : Nat)
  /-- ARMED engine n issues its first bundle at engine.start.at (R64, R178). -/
  | armedStartRelease (n : Fin 256) (q : Nat)
  /-- The oldest words of the senders, 256 a transfer channel or the host, reach engine dst in this order (R58, R60). -/
  | xuWordArrival (dst : Fin 256) (senders : List (Fin 257))
  /-- The stamped words for engine dst whose T has come enter its queue (R182). -/
  | xuStampedEntry (dst : Fin 256)
  /-- engine.cmd START of engine n (R63, R64, R416). -/
  | engineStart (r : Route) (n : Fin 256)
  /-- engine.cmd STOP of engine n (R64, R65). -/
  | engineStop (r : Route) (n : Fin 256)
  /-- engine.cmd HALT of engine n (R65). -/
  | engineHalt (r : Route) (n : Fin 256)
  /-- engine.cmd RESUME of engine n (R63, R65). -/
  | engineResume (r : Route) (n : Fin 256)
  /-- engine.cmd STEP of engine n (R63). -/
  | engineStep (r : Route) (n : Fin 256)
  /-- engine.cmd RESET of engine n (R63). -/
  | engineReset (r : Route) (n : Fin 256)
  /-- pair.ckpt.interval steps have passed since the last capture (R221). -/
  | captureIntervalExpiry (m : Fin 128)
  /-- The input log has reached its capture level (R221), or after a checker fault its end (R233). -/
  | inputLogFull (m : Fin 128)
  /-- A due capture is taken at a boundary that permits it, and what waits for it follows (R222, R231, R238). -/
  | checkpointCapture (m : Fin 128)
  /-- A compared item of pair m differs (R224, R227, R229, R230). -/
  | mismatch (m : Fin 128)
  /-- The engines of pair m have been reset and the restore begins (Table 11-5). -/
  | pairResetDone (m : Fin 128)
  /-- The restore steps have ended and the CRC is checked (R224); `bad`: it fails, or the slot is uncorrectable (R229). -/
  | restoreComplete (m : Fin 128) (bad : Bool)
  /-- Replay reaches Br (R225); `bad`: the log was uncorrectable (Table 11-7). -/
  | replayComplete (m : Fin 128) (bad : Bool)
  /-- The segment's DEADLINE finds pair m still restarting (R228). -/
  | recoveryOverrun (m : Fin 128)
  /-- A checker fault of pair m in a compare lane or a delay-chain stage (R233, R234). -/
  | checkerFault (m : Fin 128) (lane : Fin 256)
  /-- The loader's copy to the spare of pair m is complete (R231). -/
  | programCopyComplete (m : Fin 128)
  /-- The spare of pair m has caught up at a timed wait and takes over (R233). -/
  | spareCatchUp (m : Fin 128)
  /-- A period mark occurs, and the actions that wait for it are applied (R20, R237, R315, R449, R454). -/
  | periodMark
  /-- pair.cmd SPLIT of pair m (R238, Table 11-11). -/
  | split (r : Route) (m : Fin 128)
  /-- pair.cmd SPLIT_KEEP of pair m (R238, Table 11-11). -/
  | splitKeep (r : Route) (m : Fin 128)
  /-- pair.cmd MERGE of pair m (R238, Table 11-11). -/
  | merge (r : Route) (m : Fin 128)
  /-- pair.cmd MERGE_KEEP of pair m (R238, Table 11-11). -/
  | mergeKeep (r : Route) (m : Fin 128)
  /-- pair.cmd MIGRATE of pair m (R231, Table 11-11). -/
  | migrate (r : Route) (m : Fin 128)
  /-- pair.cmd START of pair m (R241, Table 11-11). -/
  | pairStart (r : Route) (m : Fin 128)
  /-- pair.cmd STOP of pair m (R241, Table 11-11). -/
  | pairStop (r : Route) (m : Fin 128)
  /-- pair.cmd HALT of pair m (R239, Table 11-11). -/
  | pairHalt (r : Route) (m : Fin 128)
  /-- pair.cmd RESUME of pair m (R239, Table 11-11). -/
  | pairResume (r : Route) (m : Fin 128)
  /-- pair.cmd STEP of pair m (R239, Table 11-11). -/
  | pairStep (r : Route) (m : Fin 128)
  /-- pair.cmd INJECT of pair m (R235); `fault` is the lane or stage that fails a step of Table 11-6. -/
  | inject (r : Route) (m : Fin 128) (fault : Option (Fin 256))
  /-- A write of time.period.run (R21). -/
  | timePeriodRun (r : Route) (v : Byte)
  /-- A valid measurement of the selected source: its offset and the rate that the discipline chooses (R172, R173). -/
  | disciplineMeasurement (off : Int) (rate : Int)
  /-- Eight expected intervals have passed without a valid measurement (R172). -/
  | sourceLost
  /-- Holdover has outlasted time.holdover.limit (R172). -/
  | holdoverLimitExpiry
  /-- A write of time.set (R173). -/
  | timeSet (r : Route) (v : BitVec 64)
  /-- A write of time.source (R175). -/
  | timeSource (r : Route) (v : Byte)
  /-- The follower of tile t loses lock (R174). -/
  | followerLockLoss (t : Fin 32)
  /-- The follower of tile t locks (R174). -/
  | followerRelock (t : Fin 32)
  /-- The follower of tile t has not relocked in time (R174). -/
  | followerRelockTimeout (t : Fin 32)
  /-- The stamped outputs whose T has come take effect (R182, R184). -/
  | stampedOutputApply
  /-- The oldest write of a sender reaches its image or pin (R23, R182, R183). -/
  | outputWriteArrival (src : Fin 257)
  /-- An edge at TIO pin q, or at SYNC_IN for q = 16 (R185, R204). -/
  | inputCapture (q : Fin 17) (rising : Bool)
  /-- A write of tile.time.late clears the bits written 1 (R181). -/
  | tileTimeLateClear (r : Route) (t : Fin 32) (v : Byte)
  /-- A DRAM refresh window begins (R187, R270, R271). -/
  | refreshWindow
  /-- A refresh command of all channels issues (R270, R271). -/
  | refreshCommand
  /-- 600 ns before a quiet window opens (R293). -/
  | quietWindowLead
  /-- A quiet window closes (R293). -/
  | quietWindowClose
  /-- Ring r's output image is frozen for its next frame (R23). -/
  | outputImageFreeze (r : Fin 2)
  /-- Bank b of tile t serves one of the masters that reach it, 0 to 7 the engines and 8 the tile port (R149, R249, R250). -/
  | shelfAccess (t : Fin 32) (b : Fin 8) (reqs : List (Fin 9)) (upset : Fin 128)
  /-- A corrected word of bank b is written back in an idle step (R250). -/
  | eccWriteback (b : Fin 256)
  /-- The due region of bank b is tested; `cols` are the columns found faulty (R259 to R262, R264). -/
  | shelfReadRegion (b : Fin 256) (cols : List Nat)
  /-- The filled spare column replaces column c of bank b (R264). -/
  | columnRepairSwap (b : Fin 256) (c : Nat)
  /-- Every bank 7 is wiped (R256): the wipe is triggered with its cause, 1 to 4, or writes its zeros while one runs. -/
  | bank7Wipe (cause : Fin 4)
  /-- The wipe ends (R256, R257). -/
  | wipeComplete
  /-- A write of tile.stacks.enable (R255). -/
  | tileStacksEnable (r : Route) (t : Fin 32) (v : Byte)
  /-- A write of tile.remap (R243). -/
  | tileRemap (r : Route) (t : Fin 32) (v : Byte)
  /-- DRAM initialisation ends (R268). -/
  | dramInitComplete
  /-- DRAM channel c has an unrecoverable link error, or 16 uncorrectable errors within 1 s (R269). -/
  | dramChannelOut (c : Fin 8) (linkError : Bool)
  /-- An open locked sequence has reached matrix.lock.limit (R284). -/
  | lockLimitExpiry (x : LockTarget)
  /-- A write of xf.ctl with EN = 1 (R289). -/
  | xfStart (r : Route) (c : Fin 64) (ctl : BitVec 32)
  /-- A write of xf.ctl with EN = 0 (R296). -/
  | xfStop (r : Route) (c : Fin 64) (ctl : BitVec 32)
  /-- Transfer unit u issues its next transaction (R292). -/
  | xfTransactionIssue (u : Fin 4)
  /-- The oldest read or write in flight of channel c is performed (R290, R294 to R296). -/
  | xfTransactionDone (c : Fin 64) (write : Bool) (upset : Fin 128)
  /-- A write of 1 to xfu.disable (R297). -/
  | xfuDisable (r : Route) (u : Fin 4)
  /-- A write of 0 to xfu.disable (R297). -/
  | xfuReenable (r : Route) (u : Fin 4)
  /-- A submission is judged against its stream's expected tag (R302, R303, R482). -/
  | ledgerSubmit (x : Submission)
  /-- The oldest held submission of stream k is acknowledged and accepted (R304). -/
  | acknowledge (k : Fin 256)
  /-- The next item of stream k is written to its dispatch slot (R309). -/
  | dispatch (k : Fin 256)
  /-- A write of ledger.done (R310). -/
  | ledgerDone (r : Route) (v : Word)
  /-- A done item of stream k is reported in accession order (R311). -/
  | report (k : Fin 256)
  /-- The source acknowledges a report (R311). -/
  | reportAck (x : Origin) (k : Fin 256) (acc : BitVec 48)
  /-- An unacknowledged report of stream k falls due again (R377, R393). -/
  | reportRetryExpiry (k : Fin 256)
  /-- Both copies of an item have become unreadable (R308, R312). -/
  | itemLost (k : Fin 256) (acc : BitVec 48)
  /-- ledger.cmd HANDOVER of stream k to pair m (R315). -/
  | handover (r : Route) (k : Fin 256) (m : Fin 128)
  /-- ledger.cmd RELEASE of stream k (R312). -/
  | release (r : Route) (k : Fin 256)
  /-- ledger.cmd RESETSTREAM of stream k (R306). -/
  | resetstream (r : Route) (k : Fin 256)
  /-- A write of ledger.streams (R301). -/
  | ledgerStreams (r : Route) (table : List Byte)
  /-- The waiting records go into a page program (R319); a sleeping archive interface wakes for it (Table 18-5). -/
  | pageProgramStart
  /-- A page program completes and its records become durable (R319). -/
  | pageProgramComplete
  /-- A block erase completes (R323). -/
  | blockEraseComplete (b : Fin 4096)
  /-- Block b fails a program or an erase (R321). -/
  | archiveBlockFailure (b : Fin 4096)
  /-- The journal is replayed; `bad` are the SEQs of the records whose check fails (R322). -/
  | archiveReplay (bad : List Nat)
  /-- archive.cmd WEED, or the free share below its threshold, starts a weeding run (R323, R324). -/
  | weed (by_ : Option Route)
  /-- A READ of n bytes from an offset (R334, R426). -/
  | catalogueRead (r : Route) (call : BitVec 24) (off : Nat) (n : Nat)
  /-- A WRITE of a value or a segment of one (R334 to R337). -/
  | catalogueWrite (r : Route) (call : BitVec 24) (off : Nat) (data : List Byte) (last : Bool)
  /-- An INFO of n bytes from an offset (R334). -/
  | catalogueInfo (r : Route) (call : BitVec 24) (off : Nat) (n : Nat)
  /-- A segmented write has been idle for more than 100 ms (R335, R337). -/
  | segmentTimeout (call : BitVec 24)
  /-- A master's cycle starts and its cyclic frame is launched (R355). -/
  | ringCycleStart (r : Fin 2)
  /-- A frame reaches a node's in-port at timestamp point ts and stays resid quarter-nanoseconds (R356 to R362, R373). -/
  | nodeFramePass (r : Fin 2) (ts : Nat) (resid : Nat) (f : List Byte)
  /-- A node's cyclic frame has not arrived 2 µs after its expected arrival (R356). -/
  | nodeMissingLimit (r : Fin 2)
  /-- The master decides the returned cyclic frame (R369 to R371, R380). -/
  | masterDecision (r : Fin 2) (ts : Nat) (f : List Byte)
  /-- The returned frame has not arrived by E + 2 µs (R380). -/
  | missingLimit (r : Fin 2)
  /-- The master sends an acyclic frame in the frame window (R373, R381), or a waiting PROBE (R382). -/
  | acyclicFrameSend (r : Fin 2)
  /-- A received ACYC segment is taken and routed (R374 to R378). -/
  | acycSegmentReceive (r : Fin 2) (peer : Fin 256) (taken : Fin 4) (xid : Fin 256) (data : List Byte)
  /-- An unacknowledged segment falls due again (R374). -/
  | acycRetryExpiry (r : Fin 2) (peer : Fin 256)
  /-- A store to the transmit word by engine `who`, or 256 for another master, queues the staged segment (R378). -/
  | acycTransmit (r : Fin 2) (who : Fin 257) (dest : Fin 256)
  /-- A load of byte 0x2FF removes the head entry of the acyclic receive queue (R378). -/
  | acycQueuePop (r : Fin 2)
  /-- A load of byte 0x2F removes the head capture record of source q (R248). -/
  | captureQueuePop (q : Fin 17)
  /-- A load from the own-queue view of engine n removes the head word, or with `level` clears the sticky bits (R248). -/
  | receiveQueueViewPop (n : Fin 256) (level : Bool)
  /-- ring.cmd SCAN (R382). -/
  | scan (rt : Route) (r : Fin 2)
  /-- The link of port q goes down (R383). -/
  | linkDown (q : Fin 4)
  /-- The link of port q comes up: 1 = 100BASE-TX, 2 = 1000BASE-T (R352). -/
  | linkUp (q : Fin 4) (speed : Fin 3)
  /-- The master receives its own frame at its out-port, or launches with a link down (R384). -/
  | masterLoopEntry (r : Fin 2) (f : List Byte)
  /-- The loop closes after CLOSE (R385). -/
  | ringClose (r : Fin 2)
  /-- The path delays of ring r are measured, from the out-port's link on (R37). -/
  | pathDelayMeasured (r : Fin 2) (ds : List Nat)
  /-- A Sync message is sent in the PTP window (R363, R364). -/
  | ptpSyncSend (q : Fin 4)
  /-- A Pdelay exchange starts in the PTP window (R363, R364). -/
  | pdelaySend (q : Fin 4)
  /-- An 802.1AS message of type k and sequence number n reaches port q at ts; v is the time it carries (R363). -/
  | ptpMessageReceive (q : Fin 4) (k : Nat) (n : Nat) (ts : Nat) (v : Nat)
  /-- A write of ring.role (R354). -/
  | ringRole (rt : Route) (r : Fin 2) (v : Byte)
  /-- STOP_N is low past its filter (R387, R397, R400). -/
  | safeStop
  /-- ring.cmd RELEASE (R387). -/
  | stopRelease (rt : Route) (r : Fin 2)
  /-- CCC ENEC (Table 17-1). -/
  | enec (direct : Bool) (events : Byte)
  /-- CCC DISEC (Table 17-1, R403). -/
  | disec (direct : Bool) (events : Byte)
  /-- CCC RSTDAA clears host.addr (Table 17-1). -/
  | rstdaa
  /-- CCC ENTDAA: the port takes part while it has no address, and takes `a` if it wins (Table 17-1). -/
  | entdaa (won : Bool) (a : Fin 128)
  /-- CCC SETDASA at static address 0x5C while host.addr is 0 (Table 17-1). -/
  | setdasa (static : Fin 128) (a : Fin 128)
  /-- CCC SETNEWDA replaces the dynamic address (Table 17-1). -/
  | setnewda (a : Fin 128)
  /-- CCC SETMWL (Table 17-1). -/
  | setmwl (direct : Bool) (n : BitVec 16)
  /-- CCC SETMRL (Table 17-1). -/
  | setmrl (direct : Bool) (n : BitVec 16)
  /-- CCC GETMWL (Table 17-1). -/
  | getmwl
  /-- CCC GETMRL, with the IBI payload size (Table 17-1). -/
  | getmrl
  /-- CCC GETPID returns host.pid (Table 17-1). -/
  | getpid
  /-- CCC GETBCR returns 0x26 (Table 17-1). -/
  | getbcr
  /-- CCC GETDCR returns 0x00 (Table 17-1). -/
  | getdcr
  /-- CCC GETSTATUS (Table 17-1). -/
  | getstatus
  /-- CCC ENTHDR0 enters HDR-DDR (Table 17-1). -/
  | enthdr0
  /-- CCC RSTACT (Table 17-1, R403). -/
  | rstact (direct : Bool) (action : Byte)
  /-- A FOLIO_DATA frame writes image bytes into a stage (R393, R429, R448). -/
  | folioData (seq : Byte) (last : Bool) (stage : Word) (off : Word) (data : List Byte)
  /-- A DOORBELL frame delivers a word to engine n (R393). -/
  | doorbell (seq : Byte) (n : Word) (w : Word)
  /-- A private write carries one request frame (R392 to R394). -/
  | hostRequestFrame (b : List Byte)
  /-- A private read returns the oldest frame, or EMPTY (R395). -/
  | privateRead
  /-- The device requests an IBI for a newly announced frame (R395). -/
  | ibiRequest (accepted : Bool)
  /-- A refused or lost IBI is requested again (R395). -/
  | ibiRetry (accepted : Bool)
  /-- SYNC_OUT pulses at the selected instant plus its offset (R398). -/
  | syncOutPulse
  /-- A write of tio.mode of pin p (R399). -/
  | tioMode (r : Route) (p : Fin 16) (v : Byte)
  /-- EXTEST: `levels` are captured from the pins, `shift` drives them; the device is held (R401). -/
  | extest (levels : List Bool) (shift : List Bool)
  /-- IDCODE (Table 17-6). -/
  | idcode
  /-- SAMPLE/PRELOAD: `levels` are captured from the pins, `shift` is preloaded (Table 17-6). -/
  | samplePreload (levels : List Bool) (shift : List Bool)
  /-- CLAMP selects bypass and holds the device (R401). -/
  | clamp
  /-- HIGHZ selects bypass and holds the device (R401). -/
  | highz
  /-- BYPASS (Table 17-6). -/
  | bypass
  /-- An unlock is shifted through DBG_OPEN (R402, R437, R439). -/
  | dbgOpen (sig : List Byte)
  /-- A poll returns the outcome of the last access (R402); `reserved`: OP is 0b11. -/
  | dbgAccPoll (reserved : Bool)
  /-- A DBG_ACC read (R402). -/
  | dbgAccRead (space : Fin 4) (a : BitVec 40)
  /-- A DBG_ACC write (R240, R402). -/
  | dbgAccWrite (space : Fin 4) (a : BitVec 40) (v : Word)
  /-- TRST_N low closes debug access and selects IDCODE (R401, R402). -/
  | trstNLow
  /-- dbg.timeout has passed without an access (R402). -/
  | dbgTimeout
  /-- The controller of rail k evaluates the measured rates of its four tiles (R412 to R415). -/
  | paceEvaluation (k : Fin 8) (rates : List (BitVec 16))
  /-- A link READ of rail k, OP 2 of Table 18-2 (R409). -/
  | readVoltage (k : Fin 8)
  /-- A link READ of rail k, OP 3 of Table 18-2 (R409). -/
  | readCurrent (k : Fin 8)
  /-- A link READ of rail k, OP 4 of Table 18-2 (R409). -/
  | readPhaseState (k : Fin 8)
  /-- An acknowledgement with good CRC arrives (R409, R410). -/
  | linkAcknowledgement (k : Fin 8) (seq : Fin 256) (result : Fin 4) (data : BitVec 14)
  /-- A bad or missing acknowledgement (R411). -/
  | linkError (k : Fin 8)
  /-- Buck phase p fails (R407); mv is the voltage a second failure leaves. -/
  | phaseFailure (p : Fin 13) (mv : Nat)
  /-- No confirmation of tile t within 400 µs (R415, R416). -/
  | paceConfirmTimeout (t : Fin 32)
  /-- The idle timer of a domain has run out (R418). -/
  | idleTimerExpiry (d : Dom)
  /-- A domain command with request on (R417, R418, R421). -/
  | domainOn (r : Route) (d : Dom)
  /-- A domain command with request retention (R417, R418, R421). -/
  | domainRetention (r : Route) (d : Dom)
  /-- A domain command with request off (R417, R418, R421). -/
  | domainOff (r : Route) (d : Dom)
  /-- The quiesce phase of a domain ends (R419). -/
  | retentionCommitPoint (d : Dom)
  /-- The save phase of a domain ends (R419, R421). -/
  | retentionSaveComplete (d : Dom)
  /-- A wake event of a domain (R419, R421). -/
  | wakeEvent (d : Dom)
  /-- A woken domain is on, and what waited for it goes on (R416, R420). -/
  | wakeComplete (d : Dom)
  /-- A tile or bank that leaves off has been filled (R253, R417). -/
  | domainFillComplete (d : Dom)
  /-- A rating is left: 0 VIN, 1 input power, 2 + t the junction of tile t (R422, R423). -/
  | ratingBreach (what : Fin 34) (value : Nat)
  /-- VIN has been valid for 100 µs, and BOOT_MODE is sampled (R397, R424). -/
  | vinValid (mode : Fin 4)
  /-- VIN below 2.55 V for 2 µs (R424). -/
  | undervoltageReset
  /-- Every rail is in its band (R425). -/
  | railsInBand
  /-- Fuses and the repair list are loaded and applied (R263, R428). -/
  | fuseLoadComplete
  /-- The comparator injection of all pairs completes; `fails` are the pairs that failed, with the lane or stage (R235). -/
  | injectionComplete (fails : List (Fin 128 × Fin 256))
  /-- Every shelf word has been written with zero (R252). -/
  | shelfInitComplete
  /-- The boot ROM has verified the slots (R431). -/
  | firmwareVerified
  /-- A host image is verified and run, or discarded (R429, R431). -/
  | hostBootImage
  /-- The catalogue is ready (R426). -/
  | catalogueReady
  /-- RESET_N has been low for 1 µs (R397, R433). -/
  | resetN
  /-- device.cmd 0x01 (R433). -/
  | warmReset (r : Route)
  /-- The firmware has not served its watchdog for 100 ms (R433, R442). -/
  | watchdogExpiry
  /-- Life-cycle command PROVISION (R437, R438). -/
  | provision (r : Route) (x : LcFields)
  /-- Life-cycle command FIELD (R437, R438). -/
  | field (r : Route) (x : LcFields)
  /-- Life-cycle command SERVICE (R437, R438). -/
  | service (r : Route) (x : LcFields)
  /-- Life-cycle command RETIRE (R437, R438). -/
  | retire (r : Route) (x : LcFields)
  /-- Life-cycle command ADVANCE (R437, R438). -/
  | advance (r : Route) (x : LcFields)
  /-- A transition commits (R438). -/
  | lifecycleCommit
  /-- Tamper source TAMPER_N, voltage monitor or temperature monitor fires (R440 to R442). -/
  | tamperEvent (src : Fin 3)
  /-- A write of tamper.state (R441). -/
  | tamperStateClear (r : Route) (v : Byte)
  /-- svc.cmd LOAD (R449, Table 20-1). -/
  | load (r : Route) (x : SvcFields)
  /-- svc.cmd UNLOAD (R450, Table 20-1). -/
  | unload (r : Route) (x : SvcFields)
  /-- svc.cmd STORE (R445, Table 20-1). -/
  | store (r : Route) (x : SvcFields)
  /-- svc.cmd DELETE (R445, Table 20-1). -/
  | delete (r : Route) (x : SvcFields)
  /-- svc.cmd CUTOVER (R453, Table 20-1). -/
  | cutover (r : Route) (x : SvcFields)
  /-- 20 µs before its mark the cut-over of job j is checked again (R454). -/
  | cutoverArmingDeadline (j : Fin 16)
  /-- svc.cmd CANCEL (R453, Table 20-1). -/
  | cancel (r : Route) (x : SvcFields)
  /-- svc.cmd SELFTEST (R457); `fault` is what the test finds. -/
  | selftest (r : Route) (x : SvcFields) (fault : Option (Fin 256))
  /-- svc.cmd CALIB (R459, Table 20-1). -/
  | calib (r : Route) (x : SvcFields)
  /-- tile.temp has moved 30 K since the last calibration of tile t (R459). -/
  | autoCalibration (t : Fin 32) (temp : Int)
  /-- svc.cmd REPAIR (R460, Table 20-1). -/
  | repair (r : Route) (x : SvcFields)
  /-- svc.cmd FWBEGIN (R461, Table 20-1). -/
  | fwbegin (r : Route) (x : SvcFields)
  /-- svc.cmd FWCOMMIT (R461, Table 20-1). -/
  | fwcommit (r : Route) (x : SvcFields)
  /-- svc.cmd SERVICERESET (R460, Table 20-1). -/
  | servicereset (r : Route) (x : SvcFields)
  /-- A write of svc.stage.chunk (R448). -/
  | svcStageChunk (r : Route) (data : List Byte)
  /-- A rating holds again (R422, R423). -/
  | ratingRestored (what : Fin 34) (value : Nat)
  /-- A junction sensor of tile t rises above 115 °C (R423). -/
  | junctionWarning (t : Fin 32)
  /-- STOP_N is high again after its filter (R387, R395). -/
  | stopNRise
  /-- RESET_N is high again and BOOT_MODE is sampled (R397, R433). -/
  | resetNRelease (mode : Fin 4)
  /-- A frame arrives in the reverse direction during loopback (R383). -/
  | reverseFramePass (r : Fin 2) (resid : Nat) (f : List Byte)
  /-- A looping node's broken link has been up for 100 ms (R385). -/
  | linkHealed (q : Fin 4)
  /-- The PROBE frame has returned (R382). -/
  | probeReturn (r : Fin 2) (ts : Nat) (f : List Byte)
  /-- A fault of a linear regulator: 0 VANA, 1 the always-on rail (R407). -/
  | linearRegulatorFault (which : Fin 2) (mv : Nat)
  /-- A fault of a part that is not single (R33). -/
  | nonSinglePartFault
  deriving DecidableEq, Repr

end Sys2Proof
end

