-- ==== Sys2Proof/Decode.lean ====
section
/-! DEFINITION. Decode.lean: the command that a word spells by the bits of the specification's table of steps. No row of the table gives
bits: the part's commands are named and carry operands, so no word spells one. -/

namespace Sys2Proof

/-- The command a word spells: none, since no row of the table has an encoding.
[DESIGN CHOICE, log row 11] -/
def decodeTableWord (_nbits _w : Nat) : Option Instr := none

end Sys2Proof
end

