-- ==== Sys2Proof/Machine/Codec.lean ====
section
/-! DEFINITION. Machine/Codec.lean: check codes, hashes and signatures the specification names by their standards: CRC-32 of IEEE 802.3
(R318, R357), CRC-16 of R392, SHA-256 of FIPS 180-4 and ECDSA P-256 of FIPS 186-5 (R430, R437). -/

namespace Sys2Proof.Machine

/-! ### CRC -/

/-- One byte of a reflected CRC-32, eight shifts. -/
def crc32Bits : Nat → Nat → Nat
  | 0, c => c
  | n + 1, c => crc32Bits n (if c % 2 = 1 then (c / 2) ^^^ 0xEDB88320 else c / 2)

/-- CRC-32, IEEE 802.3 polynomial: reflected, initial value and final XOR all ones. -/
def crc32 (l : List Byte) : Nat := (l.foldl (fun c b => crc32Bits 8 (c ^^^ b.toNat)) 0xFFFFFFFF) ^^^ 0xFFFFFFFF

/-- One byte of the CRC-16 of R392, eight shifts. -/
def crc16Bits : Nat → Nat → Nat
  | 0, c => c
  | n + 1, c => crc16Bits n (if 32768 ≤ c then (c * 2 % 65536) ^^^ 0x1021 else c * 2)

/-- CRC-16, polynomial 0x1021, initial value 0xFFFF, no reflection, no final XOR (R392). -/
def crc16 (l : List Byte) : Nat := l.foldl (fun c b => crc16Bits 8 (c ^^^ (256 * b.toNat))) 0xFFFF

/-! ### SHA-256 -/

/-- The round constants of FIPS 180-4, first half. -/
def shaK0 : List Word :=
  [0x428a2f98#32, 0x71374491#32, 0xb5c0fbcf#32, 0xe9b5dba5#32, 0x3956c25b#32, 0x59f111f1#32, 0x923f82a4#32, 0xab1c5ed5#32,
   0xd807aa98#32, 0x12835b01#32, 0x243185be#32, 0x550c7dc3#32, 0x72be5d74#32, 0x80deb1fe#32, 0x9bdc06a7#32, 0xc19bf174#32,
   0xe49b69c1#32, 0xefbe4786#32, 0x0fc19dc6#32, 0x240ca1cc#32, 0x2de92c6f#32, 0x4a7484aa#32, 0x5cb0a9dc#32, 0x76f988da#32,
   0x983e5152#32, 0xa831c66d#32, 0xb00327c8#32, 0xbf597fc7#32, 0xc6e00bf3#32, 0xd5a79147#32, 0x06ca6351#32, 0x14292967#32]

/-- The round constants of FIPS 180-4, second half. -/
def shaK1 : List Word :=
  [0x27b70a85#32, 0x2e1b2138#32, 0x4d2c6dfc#32, 0x53380d13#32, 0x650a7354#32, 0x766a0abb#32, 0x81c2c92e#32, 0x92722c85#32,
   0xa2bfe8a1#32, 0xa81a664b#32, 0xc24b8b70#32, 0xc76c51a3#32, 0xd192e819#32, 0xd6990624#32, 0xf40e3585#32, 0x106aa070#32,
   0x19a4c116#32, 0x1e376c08#32, 0x2748774c#32, 0x34b0bcb5#32, 0x391c0cb3#32, 0x4ed8aa4a#32, 0x5b9cca4f#32, 0x682e6ff3#32,
   0x748f82ee#32, 0x78a5636f#32, 0x84c87814#32, 0x8cc70208#32, 0x90befffa#32, 0xa4506ceb#32, 0xbef9a3f7#32, 0xc67178f2#32]

/-- The round constants. -/
def shaK : List Word := shaK0 ++ shaK1

/-- The eight chaining words. -/
structure Sha where
  a : Word
  b : Word
  c : Word
  d : Word
  e : Word
  f : Word
  g : Word
  h : Word
  deriving DecidableEq, Repr

/-- The initial hash value. -/
def shaInit : Sha :=
  ⟨0x6a09e667#32, 0xbb67ae85#32, 0x3c6ef372#32, 0xa54ff53a#32, 0x510e527f#32, 0x9b05688c#32, 0x1f83d9ab#32, 0x5be0cd19#32⟩

/-- The message schedule, newest word first: `n` more words. -/
def shaSchedule : Nat → List Word → List Word
  | 0, w => w
  | n + 1, w =>
    let x2 := w.getD 1 0
    let x7 := w.getD 6 0
    let x15 := w.getD 14 0
    let x16 := w.getD 15 0
    let s0 := x15.rotateRight 7 ^^^ x15.rotateRight 18 ^^^ (x15 >>> 3)
    let s1 := x2.rotateRight 17 ^^^ x2.rotateRight 19 ^^^ (x2 >>> 10)
    shaSchedule n ((s1 + x7 + s0 + x16) :: w)

/-- One round. -/
def shaRound (s : Sha) (kw : Word × Word) : Sha :=
  let s1 := s.e.rotateRight 6 ^^^ s.e.rotateRight 11 ^^^ s.e.rotateRight 25
  let ch := (s.e &&& s.f) ^^^ (~~~s.e &&& s.g)
  let t1 := s.h + s1 + ch + kw.1 + kw.2
  let s0 := s.a.rotateRight 2 ^^^ s.a.rotateRight 13 ^^^ s.a.rotateRight 22
  let mj := (s.a &&& s.b) ^^^ (s.a &&& s.c) ^^^ (s.b &&& s.c)
  ⟨t1 + s0 + mj, s.a, s.b, s.c, s.d + t1, s.e, s.f, s.g⟩

/-- A value of four bytes, most significant first. -/
def beNat (l : List Byte) : Nat := l.foldl (fun a b => 256 * a + b.toNat) 0

/-- `n` bytes of a value, most significant first. -/
def beBytes (n v : Nat) : List Byte := (leBytes n v).reverse

/-- The sixteen words of a block. -/
def shaBlock : Nat → List Byte → List Word
  | 0, _ => []
  | n + 1, l => BitVec.ofNat 32 (beNat (l.take 4)) :: shaBlock n (l.drop 4)

/-- One block of 64 bytes. -/
def shaStep (s : Sha) (blk : List Byte) : Sha :=
  let w := (shaSchedule 48 (shaBlock 16 blk).reverse).reverse
  let t := (shaK.zip w).foldl shaRound s
  ⟨s.a + t.a, s.b + t.b, s.c + t.c, s.d + t.d, s.e + t.e, s.f + t.f, s.g + t.g, s.h + t.h⟩

/-- Blocks of a padded message. -/
def shaBlocks : Nat → List Byte → Sha → Sha
  | 0, _, s => s
  | n + 1, l, s => shaBlocks n (l.drop 64) (shaStep s (l.take 64))

/-- SHA-256 (FIPS 180-4), 32 bytes. -/
def sha256 (m : List Byte) : List Byte :=
  let z := (119 - m.length % 64) % 64
  let p := m ++ [0x80#8] ++ List.replicate z 0#8 ++ beBytes 8 (8 * m.length)
  let h := shaBlocks (p.length / 64) p shaInit
  (([h.a, h.b, h.c, h.d, h.e, h.f, h.g, h.h] : List Word).map fun w => beBytes 4 w.toNat).flatten

/-! ### ECDSA over P-256 -/

/-- The field prime of P-256. -/
def ecP : Nat := 0xffffffff00000001000000000000000000000000ffffffffffffffffffffffff
/-- The order of its base point. -/
def ecN : Nat := 0xffffffff00000000ffffffffffffffffbce6faada7179e84f3b9cac2fc632551
/-- The constant b of the curve. -/
def ecB : Nat := 0x5ac635d8aa3a93e7b3ebbd55769886bc651d06b0cc53b0f63bce3c3e27d2604b
/-- The base point. -/
def ecGx : Nat := 0x6b17d1f2e12c4247f8bce6e563a440f277037d812deb33a0f4a13945d898c296
/-- The base point. -/
def ecGy : Nat := 0x4fe342e2fe1a7f9b8ee7eb4a7c0f9e162bce33576b315ececbb6406837bf51f5

/-- `b ^ e mod m`, by squaring, over the `n` low bits of the exponent. -/
def powMod (m : Nat) : Nat → Nat → Nat → Nat
  | 0, _, _ => 1 % m
  | n + 1, b, e =>
    let r := powMod m n (b * b % m) (e / 2)
    if e % 2 = 1 then b * r % m else r

/-- The inverse modulo a prime, by Fermat's theorem. -/
def invMod (m a : Nat) : Nat := powMod m 256 (a % m) (m - 2)

/-- A point: none is the point at infinity. -/
abbrev EcPoint := Option (Nat × Nat)

/-- Subtraction in the field. -/
def fSub (a b : Nat) : Nat := (a + ecP - b % ecP) % ecP

/-- A chord or tangent of slope `l` through two points. -/
def ecChord (l x1 y1 x2 : Nat) : EcPoint :=
  let x3 := fSub (l * l % ecP) ((x1 + x2) % ecP)
  some (x3, fSub (l * fSub x1 x3 % ecP) y1)

/-- Addition of points. -/
def ecAdd : EcPoint → EcPoint → EcPoint
  | none, q => q
  | p, none => p
  | some (x1, y1), some (x2, y2) =>
    if x1 = x2 then
      if (y1 + y2) % ecP = 0 then none
      else ecChord (fSub (3 * x1 * x1) 3 * invMod ecP (2 * y1) % ecP) x1 y1 x2
    else ecChord (fSub y2 y1 * invMod ecP (fSub x2 x1) % ecP) x1 y1 x2

/-- `k` times a point, over the `n` low bits of `k`. -/
def ecMul : Nat → Nat → EcPoint → EcPoint
  | 0, _, _ => none
  | n + 1, k, p =>
    let q := ecMul n (k / 2) (ecAdd p p)
    if k % 2 = 1 then ecAdd p q else q

/-- A public key is a point of the curve. -/
def ecOnCurve (x y : Nat) : Bool :=
  decide (x < ecP) && decide (y < ecP) && y * y % ecP == (x * x % ecP * x + fSub ecB (3 * x)) % ecP

/-- ECDSA P-256 verification (FIPS 186-5): key x then y, signature r then s, each 32 bytes big-endian, over the SHA-256 of the
message. -/
def ecdsaValid (key sig msg : List Byte) : Bool :=
  let x := beNat (key.take 32)
  let y := beNat ((key.drop 32).take 32)
  let r := beNat (sig.take 32)
  let t := beNat ((sig.drop 32).take 32)
  if r = 0 ∨ ecN ≤ r ∨ t = 0 ∨ ecN ≤ t ∨ ecOnCurve x y = false then false
  else
    let e := beNat (sha256 msg)
    let w := invMod ecN t
    match ecAdd (ecMul 256 (e * w % ecN) (some (ecGx, ecGy))) (ecMul 256 (r * w % ecN) (some (x, y))) with
    | none => false
    | some q => q.1 % ecN == r

end Sys2Proof.Machine
end

