-- ==== Sys2Proof/Config.lean ====
section
/-! DEFINITION. Config.lean: what a module of the part fixes, and the values the outside supplies. None has a body: a statement
holds for every value of them (assumption-log rows 3 and 4). -/

namespace Sys2Proof.Config

/-- The variant: true = EN256-M8I, false = EN256-M4I (R1, Table 00-1).
[DESIGN CHOICE, log row 3] -/
opaque m8i : Bool

/-- The serial number, device.serial (R346).
[DESIGN CHOICE, log row 3] -/
opaque serial : List Byte

/-- The address of ring port q, port.mac (R388).
[DESIGN CHOICE, log row 3] -/
opaque mac : Nat → List Byte

/-- The fixed bytes of the boot ROM (R432).
[DESIGN CHOICE, log row 3] -/
opaque rom : Nat → Byte

/-- What a sensor entry shows when it is read: call number, and how many values have been drawn before (R347, R348).
[DESIGN CHOICE, log row 4; DESIGN CHOICE, log row 49] -/
opaque sensor : Nat → Nat → Nat

/-- The random bytes of lc.nonce, by how many nonces have been drawn before (R437).
[DESIGN CHOICE, log row 4] -/
opaque nonce : Nat → List Byte

/-- The VERSION text of a firmware image as device.firmware shows it (R346), by its version number.
[DESIGN CHOICE, log row 3] -/
opaque firmwareText : Nat → List Byte

/-- The name the INFO service returns for a folio-defined entry (R334): the folio's record gives none.
[DESIGN CHOICE, log row 3] -/
opaque folioName : Nat → List Byte

/-- A value the specification leaves undefined or does not state (R15), by how many values of the outside have been drawn
before: nothing constrains it.
[DESIGN CHOICE, log row 4] -/
opaque free : Nat → Nat

end Sys2Proof.Config
end

