-- ==== Sys2Proof/Machine/Catalogue.lean ====
section
/-! DEFINITION. Machine/Catalogue.lean: the entries the device defines, as the entry tables of the specification give them
(R328, R329, R332, R333). -/

namespace Sys2Proof.Machine

/-- What the catalogue says of an entry: type (Table 15-1), access (Table 15-2), persistence, size in bytes (for a string the
largest length), default as its bytes read unsigned, lowest and highest value, name. -/
structure Desc where
  type : Nat
  acc : Nat
  jrn : Bool
  size : Nat
  dflt : Nat
  lo : Int
  hi : Int
  name : String
  deriving DecidableEq, Repr

/-- A row of an entry table: subindex and descriptor. -/
abbrev DescRow := Nat × Desc

/-- A call number (R12): index in bits [23:8], subindex in bits [7:0]. -/
def callNo (idx sub : Nat) : Nat := idx * 256 + sub

/-- The entries of device identity and commands (Tables 00-2, 15-8). The SIZE of device.part, device.variant and device.stepping, which no rule
gives, is taken as 16, that of the serial and firmware strings (R346).
[DESIGN CHOICE, log row 33] -/
def identityRows : List DescRow :=
  [(0x01, ⟨13, 4, false, 16, 0, 0, 0, "device.part"⟩),
   (0x02, ⟨13, 4, false, 16, 0, 0, 0, "device.variant"⟩),
   (0x03, ⟨13, 4, false, 16, 0, 0, 0, "device.stepping"⟩),
   (0x04, ⟨9, 4, false, 8, 0, 0, 18446744073709551615, "device.dram.size"⟩),
   (0x05, ⟨13, 4, false, 16, 0, 0, 0, "device.serial"⟩),
   (0x06, ⟨13, 0, false, 16, 0, 0, 0, "device.firmware"⟩),
   (0x07, ⟨6, 0, true, 1, 0, 0, 255, "device.lifecycle"⟩),
   (0x08, ⟨6, 0, false, 1, 1, 0, 255, "device.reset.cause"⟩),
   (0x09, ⟨6, 2, false, 1, 0, 1, 1, "device.cmd"⟩),
   (0x0A, ⟨9, 0, false, 8, 0, 0, 18446744073709551615, "device.uptime"⟩)]

/-- The entries of the period generator (Table 01-3). -/
def periodRows : List DescRow :=
  [(0x01, ⟨6, 3, true, 1, 0, 0, 1, "time.period.source"⟩),
   (0x02, ⟨6, 3, true, 1, 1, 1, 16, "time.period.cycles"⟩),
   (0x03, ⟨12, 3, true, 8, 0, 0, 18446744073709551615, "time.period.phase"⟩),
   (0x04, ⟨1, 1, true, 1, 1, 0, 1, "time.period.run"⟩),
   (0x05, ⟨8, 0, false, 4, 0, 0, 4294967295, "time.period.length"⟩)]

/-- The entries of promise state (Table 02-3). -/
def promiseRows : List DescRow :=
  [(0x01, ⟨8, 0, false, 4, 0, 0, 4294967295, "device.promise.state"⟩),
   (0x02, ⟨8, 0, false, 4, 0, 0, 4294967295, "device.promise.lapses"⟩),
   (0x03, ⟨8, 1, true, 4, 127, 0, 127, "device.promise.notify"⟩)]

/-- The entries of engine n (Table 03-10). -/
def engineRows : List DescRow :=
  [(0x01, ⟨6, 0, false, 1, 2, 0, 255, "engine.state"⟩),
   (0x02, ⟨6, 2, false, 1, 0, 1, 6, "engine.cmd"⟩),
   (0x03, ⟨6, 3, true, 1, 0, 0, 1, "engine.fetch"⟩),
   (0x04, ⟨7, 3, false, 2, 0, 0, 8191, "engine.entry"⟩),
   (0x05, ⟨12, 3, false, 8, 0, 0, 18446744073709551615, "engine.start.at"⟩),
   (0x06, ⟨7, 0, false, 2, 0, 0, 65535, "engine.pc"⟩),
   (0x07, ⟨9, 0, false, 8, 0, 0, 18446744073709551615, "engine.steps"⟩),
   (0x08, ⟨8, 0, false, 4, 0, 0, 4294967295, "engine.stall.lsu"⟩),
   (0x09, ⟨8, 0, false, 4, 0, 0, 4294967295, "engine.stall.heavy"⟩),
   (0x0A, ⟨8, 0, false, 4, 0, 0, 4294967295, "engine.cause"⟩),
   (0x0B, ⟨6, 3, false, 1, 0, 0, 128, "engine.heavy.share"⟩),
   (0x0C, ⟨8, 0, false, 4, 0, 0, 4294967295, "engine.conflicts"⟩)]

/-- The entries of tile t (Tables 08-3, 09-7, 10-7, 12-8, 13-12, 15-10). -/
def tileRows : List DescRow :=
  [(0x01, ⟨6, 0, false, 1, 0, 0, 255, "tile.domain.state"⟩),
   (0x02, ⟨6, 2, false, 1, 0, 1, 3, "tile.domain.cmd"⟩),
   (0x03, ⟨8, 1, true, 4, 1000, 0, 1000000, "tile.idle.timer"⟩),
   (0x04, ⟨8, 1, true, 4, 1000, 0, 1000000, "tile.bank.idle"⟩),
   (0x05, ⟨7, 2, false, 2, 0, 0, 65535, "tile.bank.cmd"⟩),
   (0x06, ⟨6, 0, false, 1, 0, 0, 255, "tile.pace.class"⟩),
   (0x07, ⟨7, 0, false, 2, 0, 0, 65535, "tile.pace.rate"⟩),
   (0x08, ⟨1, 0, false, 1, 0, 0, 1, "tile.pace.override"⟩),
   (0x09, ⟨3, 0, false, 2, 0, -32768, 32767, "tile.temp"⟩),
   (0x0A, ⟨6, 4, false, 1, 0, 0, 255, "tile.group"⟩),
   (0x0B, ⟨6, 0, false, 1, 0, 0, 255, "tile.engines.busy"⟩),
   (0x0C, ⟨6, 0, false, 1, 0, 0, 255, "tile.engines.fused"⟩),
   (0x0D, ⟨9, 0, false, 8, 0, 0, 18446744073709551615, "tile.cat.abort"⟩),
   (0x0E, ⟨8, 0, false, 4, 0, 0, 4294967295, "tile.cat.aborts"⟩),
   (0x0F, ⟨6, 0, false, 1, 0, 0, 128, "tile.heavy.now"⟩),
   (0x10, ⟨6, 3, true, 1, 64, 16, 128, "tile.heavy.budget"⟩)] ++
  [(0x11, ⟨1, 1, true, 1, 0, 0, 1, "tile.heavy.fault"⟩),
   (0x12, ⟨8, 0, false, 4, 0, 0, 4294967295, "tile.heavy.excess"⟩),
   (0x13, ⟨8, 0, false, 4, 0, 0, 4294967295, "tile.lsu.refused"⟩),
   (0x14, ⟨8, 0, false, 4, 0, 0, 4294967295, "tile.wakes"⟩),
   (0x20, ⟨7, 1, true, 2, 2, 0, 1000, "tile.time.late.tol"⟩),
   (0x21, ⟨1, 1, true, 1, 0, 0, 1, "tile.time.late.fault"⟩),
   (0x22, ⟨6, 1, false, 1, 0, 0, 255, "tile.time.late"⟩),
   (0x23, ⟨8, 0, false, 4, 0, 0, 4294967295, "tile.time.late.count"⟩),
   (0x24, ⟨6, 1, true, 1, 0, 0, 18, "tile.time.cap.src"⟩),
   (0x25, ⟨12, 0, false, 8, 0, 0, 18446744073709551615, "tile.time.mark"⟩),
   (0x26, ⟨6, 1, true, 1, 16, 0, 16, "tile.time.wait.irq"⟩),
   (0x27, ⟨1, 0, false, 1, 0, 0, 1, "tile.time.lock"⟩),
   (0x30, ⟨7, 1, true, 2, 256, 16, 256, "tile.atomic.limit"⟩),
   (0x40, ⟨1, 1, false, 1, 0, 0, 1, "tile.remap"⟩),
   (0x41, ⟨1, 3, true, 1, 0, 0, 1, "tile.stacks.enable"⟩),
   (0x42, ⟨7, 0, false, 2, 0, 0, 65535, "tile.bank.state"⟩)] ++
  [(0x43, ⟨8, 0, false, 4, 0, 0, 4294967295, "tile.port.conflicts"⟩),
   (0x44, ⟨8, 0, false, 4, 0, 0, 4294967295, "tile.ecc.corrected"⟩),
   (0x45, ⟨8, 0, false, 4, 0, 0, 4294967295, "tile.ecc.uncorrected"⟩),
   (0x46, ⟨8, 0, false, 4, 4294967295, 0, 4294967295, "tile.ecc.last"⟩),
   (0x47, ⟨8, 0, false, 4, 0, 0, 4294967295, "tile.repair.columns"⟩),
   (0x48, ⟨6, 0, false, 1, 0, 0, 255, "tile.repair.pending"⟩),
   (0x50, ⟨6, 1, true, 1, 0, 0, 2, "tile.slices"⟩),
   (0x51, ⟨6, 0, false, 1, 0, 0, 255, "tile.slices.active"⟩)]

/-- The entries of Sirkan time (Table 09-3). -/
def timeRows : List DescRow :=
  [(0x01, ⟨12, 0, false, 8, 0, 0, 18446744073709551615, "time.now"⟩),
   (0x02, ⟨8, 0, false, 4, 0, 0, 4294967295, "time.status"⟩),
   (0x03, ⟨6, 1, true, 1, 0, 0, 3, "time.source"⟩),
   (0x04, ⟨5, 0, false, 8, 0, -9223372036854775808, 9223372036854775807, "time.offset"⟩),
   (0x05, ⟨4, 0, false, 4, 0, -200000, 200000, "time.rate"⟩),
   (0x06, ⟨8, 1, true, 4, 1000, 100, 1000000, "time.step.limit"⟩),
   (0x07, ⟨8, 1, true, 4, 10000, 0, 3600000, "time.holdover.limit"⟩),
   (0x08, ⟨12, 2, false, 8, 0, 0, 18446744073709551615, "time.set"⟩),
   (0x09, ⟨3, 0, false, 2, 0, -32768, 32767, "time.utc.offset"⟩)]

/-- The entries of pair m (Table 11-9). -/
def pairRows : List DescRow :=
  [(0x01, ⟨6, 0, false, 1, 0, 0, 255, "pair.state"⟩),
   (0x02, ⟨6, 2, false, 1, 0, 1, 11, "pair.cmd"⟩),
   (0x03, ⟨12, 1, false, 8, 0, 0, 18446744073709551615, "pair.cmd.at"⟩),
   (0x04, ⟨8, 3, false, 4, 0, 0, 16000000, "pair.ckpt.interval"⟩),
   (0x05, ⟨8, 0, false, 4, 0, 0, 4294967295, "pair.mismatches"⟩),
   (0x06, ⟨8, 0, false, 4, 0, 0, 4294967295, "pair.events"⟩),
   (0x07, ⟨8, 0, false, 4, 0, 0, 4294967295, "pair.status"⟩),
   (0x08, ⟨1, 1, true, 1, 0, 0, 1, "pair.spare"⟩)]

/-- The entries of DRAM (Table 12-9). -/
def dramRows : List DescRow :=
  [(0x01, ⟨6, 0, false, 1, 255, 0, 255, "dram.channels"⟩),
   (0x02, ⟨8, 0, false, 4, 0, 0, 4294967295, "dram.ecc.corrected"⟩),
   (0x03, ⟨8, 0, false, 4, 0, 0, 4294967295, "dram.ecc.uncorrected"⟩),
   (0x04, ⟨9, 0, false, 8, 18446744073709551615, 0, 18446744073709551615, "dram.ecc.last"⟩),
   (0x05, ⟨8, 0, false, 4, 0, 0, 4294967295, "dram.refresh.window"⟩),
   (0x06, ⟨6, 0, false, 1, 0, 0, 16, "dram.refresh.debt"⟩),
   (0x07, ⟨8, 0, false, 4, 0, 0, 4294967295, "dram.refresh.count"⟩),
   (0x08, ⟨1, 0, false, 1, 0, 0, 1, "dram.init.done"⟩)]

/-- The entries of shelf-read (Table 12-9). -/
def shelfreadRows : List DescRow :=
  [(0x01, ⟨1, 1, true, 1, 1, 0, 1, "shelfread.enable"⟩),
   (0x02, ⟨8, 1, true, 4, 10000, 1000, 3600000, "shelfread.sweep.time"⟩),
   (0x03, ⟨7, 0, false, 2, 0, 0, 10000, "shelfread.progress"⟩),
   (0x04, ⟨9, 0, false, 8, 0, 0, 16777216, "shelfread.position"⟩),
   (0x05, ⟨8, 0, false, 4, 0, 0, 4294967295, "shelfread.sweeps"⟩),
   (0x06, ⟨8, 0, false, 4, 0, 0, 4294967295, "shelfread.faults"⟩),
   (0x07, ⟨8, 0, false, 4, 0, 0, 4294967295, "shelfread.late"⟩)]

/-- The entries of closed stacks (Table 12-9). -/
def stacksRows : List DescRow :=
  [(0x01, ⟨8, 0, true, 4, 0, 0, 4294967295, "stacks.wipes"⟩),
   (0x02, ⟨12, 0, true, 8, 0, 0, 18446744073709551615, "stacks.wipe.last"⟩),
   (0x03, ⟨6, 0, true, 1, 0, 0, 255, "stacks.wipe.cause"⟩)]

/-- The entries of transfer channel c (Table 13-5). -/
def xfRows : List DescRow :=
  [(0x01, ⟨9, 3, false, 8, 0, 0, 18446744073709551615, "xf.src"⟩),
   (0x02, ⟨9, 3, false, 8, 0, 0, 18446744073709551615, "xf.dst"⟩),
   (0x03, ⟨8, 3, false, 4, 0, 0, 4294967295, "xf.count"⟩),
   (0x04, ⟨8, 1, false, 4, 0, 0, 4294967295, "xf.ctl"⟩),
   (0x05, ⟨8, 0, false, 4, 0, 0, 4294967295, "xf.status"⟩),
   (0x06, ⟨8, 0, false, 4, 0, 0, 4294967295, "xf.remaining"⟩),
   (0x07, ⟨8, 3, false, 4, 0, 0, 4294967295, "xf.pace"⟩),
   (0x08, ⟨7, 3, false, 2, 65535, 0, 65535, "xf.irq"⟩)]

/-- The entries of the matrix (Table 13-11). -/
def matrixRows : List DescRow :=
  [(0x01, ⟨6, 1, true, 1, 0, 0, 255, "matrix.slices"⟩),
   (0x02, ⟨6, 0, false, 1, 0, 0, 255, "matrix.slices.active"⟩),
   (0x03, ⟨7, 0, false, 2, 0, 0, 65535, "matrix.outstanding"⟩),
   (0x04, ⟨7, 0, false, 2, 0, 0, 65535, "matrix.outstanding.peak"⟩),
   (0x05, ⟨8, 0, false, 4, 0, 0, 4294967295, "matrix.errors"⟩),
   (0x06, ⟨7, 1, true, 2, 1000, 200, 4000, "matrix.lock.limit"⟩),
   (0x07, ⟨8, 0, false, 4, 0, 0, 4294967295, "matrix.lock.forced"⟩)]

/-- The entries of transfer unit u (Table 13-11). -/
def xfuRows : List DescRow :=
  [(0x01, ⟨1, 1, false, 1, 0, 0, 1, "xfu.disable"⟩),
   (0x02, ⟨9, 0, false, 8, 0, 0, 18446744073709551615, "xfu.bytes"⟩),
   (0x03, ⟨8, 0, false, 4, 0, 0, 4294967295, "xfu.errors"⟩)]

/-- The entries of the archive (Table 14-11). -/
def archiveRows : List DescRow :=
  [(0x01, ⟨6, 0, false, 1, 0, 0, 255, "archive.state"⟩),
   (0x02, ⟨7, 0, false, 2, 0, 0, 3071, "archive.free"⟩),
   (0x03, ⟨7, 1, true, 2, 1000, 100, 5000, "archive.weed.threshold"⟩),
   (0x04, ⟨6, 2, false, 1, 0, 1, 1, "archive.cmd"⟩),
   (0x05, ⟨7, 0, false, 2, 0, 0, 10000, "archive.weed.progress"⟩),
   (0x06, ⟨9, 0, false, 8, 0, 0, 18446744073709551615, "archive.weed.position"⟩),
   (0x07, ⟨7, 0, false, 2, 0, 0, 10000, "archive.replay.progress"⟩),
   (0x08, ⟨9, 0, false, 8, 0, 0, 18446744073709551615, "archive.replay.position"⟩),
   (0x09, ⟨8, 0, false, 4, 0, 0, 4294967295, "archive.wear.max"⟩),
   (0x0A, ⟨7, 0, true, 2, 0, 0, 512, "archive.replaced"⟩)]

/-- The entries of the ledger (Table 14-11). -/
def ledgerRows : List DescRow :=
  [(0x01, ⟨15, 1, true, 4096, 0, 0, 0, "ledger.streams"⟩),
   (0x02, ⟨8, 0, false, 4, 0, 0, 65536, "ledger.inflight"⟩),
   (0x03, ⟨8, 2, false, 4, 0, 0, 4294967295, "ledger.submit"⟩),
   (0x04, ⟨8, 2, false, 4, 0, 0, 4294967295, "ledger.done"⟩),
   (0x05, ⟨8, 0, false, 4, 0, 0, 4294967295, "ledger.done.bad"⟩),
   (0x06, ⟨8, 2, false, 4, 0, 0, 4294967295, "ledger.cmd"⟩),
   (0x07, ⟨12, 1, false, 8, 0, 0, 18446744073709551615, "ledger.cmd.at"⟩),
   (0x08, ⟨14, 0, false, 32, 0, 0, 0, "ledger.stopped"⟩),
   (0x09, ⟨8, 0, false, 4, 0, 0, 4294967295, "ledger.duplicates"⟩)]

/-- The entries of the catalogue service (Table 15-8). -/
def serviceRows : List DescRow :=
  [(0x01, ⟨7, 0, false, 2, 0, 0, 12288, "catalogue.folio.entries"⟩),
   (0x02, ⟨8, 0, false, 4, 0, 0, 4294967295, "catalogue.generation"⟩),
   (0x03, ⟨8, 0, false, 4, 0, 0, 4294967295, "catalogue.aborts"⟩),
   (0x04, ⟨9, 0, false, 8, 0, 0, 18446744073709551615, "catalogue.abort.last"⟩)]

/-- The entries of the supply (Table 15-9). -/
def supplyRows : List DescRow :=
  [(0x01, ⟨7, 0, false, 2, 0, 0, 65535, "power.vin.mv"⟩),
   (0x02, ⟨8, 0, false, 4, 0, 0, 4294967295, "power.input.mw"⟩),
   (0x03, ⟨8, 0, false, 4, 0, 0, 4294967295, "power.input.peak.mw"⟩),
   (0x04, ⟨3, 0, false, 2, 0, -32768, 32767, "power.tj.max"⟩),
   (0x05, ⟨6, 0, false, 1, 0, 0, 12, "power.phase.spare"⟩),
   (0x06, ⟨7, 0, false, 2, 0, 0, 65535, "power.vmem.mv"⟩),
   (0x07, ⟨7, 0, false, 2, 0, 0, 65535, "power.vio.mv"⟩),
   (0x08, ⟨7, 0, false, 2, 0, 0, 65535, "power.vphy.mv"⟩),
   (0x09, ⟨7, 0, false, 2, 0, 0, 65535, "power.vana.mv"⟩),
   (0x0A, ⟨8, 0, false, 4, 0, 0, 4294967295, "power.link.errors"⟩)]

/-- The entries of VCOREk (Table 15-9). -/
def vcoreRows : List DescRow :=
  [(0x01, ⟨7, 0, false, 2, 0, 650, 950, "power.vcore.mv"⟩),
   (0x02, ⟨7, 1, true, 2, 650, 650, 950, "power.vcore.floor"⟩),
   (0x03, ⟨7, 1, true, 2, 950, 650, 950, "power.vcore.ceiling"⟩),
   (0x04, ⟨1, 0, false, 1, 0, 0, 1, "power.vcore.override"⟩),
   (0x05, ⟨8, 0, false, 4, 0, 0, 4294967295, "power.vcore.changes"⟩)]

/-- The entries of power domains (Table 15-9). -/
def domainsRows : List DescRow :=
  [(0x01, ⟨8, 0, false, 4, 0, 0, 4294967295, "power.domain.state"⟩),
   (0x02, ⟨7, 2, false, 2, 0, 0, 65535, "power.domain.cmd"⟩),
   (0x03, ⟨8, 1, true, 4, 1000, 0, 1000000, "power.domain.idle"⟩),
   (0x04, ⟨8, 1, true, 4, 1000, 0, 1000000, "power.domain.idle"⟩),
   (0x05, ⟨8, 1, true, 4, 1000, 0, 1000000, "power.domain.idle"⟩),
   (0x06, ⟨8, 1, true, 4, 1000, 0, 1000000, "power.domain.idle"⟩),
   (0x07, ⟨8, 1, true, 4, 1000, 0, 1000000, "power.domain.idle"⟩),
   (0x08, ⟨8, 1, true, 4, 1000, 0, 1000000, "power.domain.idle"⟩),
   (0x09, ⟨8, 1, true, 4, 1000, 0, 1000000, "power.domain.idle"⟩),
   (0x0A, ⟨8, 1, true, 4, 1000, 0, 1000000, "power.domain.idle"⟩),
   (0x0B, ⟨8, 1, true, 4, 1000, 0, 1000000, "power.domain.idle"⟩),
   (0x0C, ⟨8, 1, true, 4, 1000, 0, 1000000, "power.domain.idle"⟩)]

/-- The entries of the event log (Table 15-11). -/
def eventsRows : List DescRow :=
  [(0x01, ⟨8, 0, false, 4, 0, 0, 4294967295, "event.count"⟩),
   (0x02, ⟨6, 0, false, 1, 255, 0, 255, "event.newest"⟩)]

/-- The entries of event record r (Table 15-11). -/
def eventRows : List DescRow :=
  [(0x01, ⟨12, 0, false, 8, 0, 0, 18446744073709551615, "event.time"⟩),
   (0x02, ⟨9, 0, false, 8, 0, 0, 18446744073709551615, "event.head"⟩),
   (0x03, ⟨9, 0, false, 8, 0, 0, 18446744073709551615, "event.detail"⟩)]

/-- The entries of ring port q (Table 16-15). -/
def portRows : List DescRow :=
  [(0x01, ⟨6, 0, false, 1, 0, 0, 255, "port.link"⟩),
   (0x02, ⟨6, 3, true, 1, 0, 0, 2, "port.mode"⟩),
   (0x03, ⟨6, 3, true, 1, 0, 0, 2, "port.ms"⟩),
   (0x04, ⟨14, 4, false, 6, 0, 0, 0, "port.mac"⟩),
   (0x05, ⟨8, 0, false, 4, 0, 0, 4294967295, "port.link.changes"⟩),
   (0x06, ⟨8, 0, false, 4, 0, 0, 4294967295, "port.rx.frames"⟩),
   (0x07, ⟨8, 0, false, 4, 0, 0, 4294967295, "port.tx.frames"⟩),
   (0x08, ⟨8, 0, false, 4, 0, 0, 4294967295, "port.fcs.errors"⟩),
   (0x09, ⟨8, 0, false, 4, 0, 0, 4294967295, "port.drops"⟩),
   (0x0A, ⟨8, 0, false, 4, 4294967295, 0, 4294967295, "port.link.delay"⟩),
   (0x0B, ⟨6, 0, false, 1, 255, 0, 255, "port.peer"⟩),
   (0x0C, ⟨12, 0, false, 8, 0, 0, 18446744073709551615, "port.ts.last"⟩),
   (0x0D, ⟨1, 0, false, 1, 0, 0, 1, "port.loop"⟩),
   (0x0E, ⟨2, 1, true, 1, 0, -3, 3, "port.pdelay.interval"⟩),
   (0x0F, ⟨7, 0, false, 2, 65535, 0, 65535, "port.cable"⟩),
   (0x10, ⟨8, 0, false, 4, 0, 0, 4294967295, "port.symbol.errors"⟩)]

/-- The entries of ring r (R388). -/
def ringRows : List DescRow :=
  [(0x01, ⟨6, 1, true, 1, 0, 0, 2, "ring.role"⟩),
   (0x02, ⟨6, 3, true, 1, 1, 0, 8, "ring.cycle.k"⟩),
   (0x03, ⟨7, 3, true, 2, 34997, 1536, 65535, "ring.ethertype"⟩),
   (0x04, ⟨6, 3, true, 1, 0, 0, 255, "ring.id"⟩),
   (0x05, ⟨6, 3, true, 1, 1, 1, 64, "ring.node.addr"⟩),
   (0x06, ⟨6, 3, true, 1, 0, 0, 64, "ring.nodes"⟩),
   (0x07, ⟨8, 3, true, 4, 2000, 0, 4294967295, "ring.launch.offset"⟩),
   (0x08, ⟨7, 3, true, 2, 640, 450, 2000, "ring.node.fwd"⟩),
   (0x09, ⟨7, 3, true, 2, 0, 0, 4096, "ring.image.in.len"⟩),
   (0x0A, ⟨7, 3, true, 2, 0, 0, 4096, "ring.image.out.len"⟩),
   (0x0B, ⟨6, 1, true, 1, 3, 1, 255, "ring.fail.limit"⟩),
   (0x0C, ⟨7, 3, true, 2, 256, 32, 256, "ring.acyc.size"⟩),
   (0x0D, ⟨6, 1, true, 1, 4, 1, 255, "ring.acyc.retry"⟩),
   (0x0E, ⟨7, 1, true, 2, 1000, 0, 65535, "ring.acyc.limit"⟩),
   (0x0F, ⟨6, 1, true, 1, 255, 0, 255, "ring.acyc.owner"⟩),
   (0x10, ⟨2, 1, true, 1, 253, -7, 0, "ring.ptp.sync"⟩)] ++
  [(0x11, ⟨6, 0, false, 1, 0, 0, 255, "ring.state"⟩),
   (0x12, ⟨8, 0, false, 4, 65280, 0, 4294967295, "ring.cycle.status"⟩),
   (0x13, ⟨9, 0, false, 8, 0, 0, 18446744073709551615, "ring.cycle.count"⟩),
   (0x14, ⟨8, 0, false, 4, 0, 0, 4294967295, "ring.cycle.failed"⟩),
   (0x15, ⟨8, 0, false, 4, 0, 0, 4294967295, "ring.cycle.missing"⟩),
   (0x16, ⟨8, 0, false, 4, 0, 0, 4294967295, "ring.return.last"⟩),
   (0x17, ⟨8, 0, false, 4, 0, 0, 4294967295, "ring.return.expected"⟩),
   (0x18, ⟨6, 0, false, 1, 0, 0, 64, "ring.hops"⟩),
   (0x19, ⟨6, 0, false, 1, 255, 0, 255, "ring.loop.pos"⟩),
   (0x1A, ⟨7, 0, false, 2, 0, 0, 65535, "ring.acyc.pending"⟩),
   (0x1B, ⟨8, 0, false, 4, 0, 0, 4294967295, "ring.acyc.dropped"⟩),
   (0x1C, ⟨6, 0, false, 1, 0, 0, 64, "ring.acyc.rx.level"⟩),
   (0x1D, ⟨15, 1, true, 4096, 0, 0, 0, "ring.stop.image"⟩),
   (0x1E, ⟨15, 1, true, 512, 0, 0, 0, "ring.stop.mask"⟩),
   (0x1F, ⟨1, 0, false, 1, 0, 0, 1, "ring.stop.state"⟩),
   (0x20, ⟨6, 2, false, 1, 0, 1, 2, "ring.cmd"⟩)]

/-- The entries of ring topology (R389). -/
def topoRows : List DescRow :=
  (List.range 64).map fun h => (h + 1, ⟨8, 0, false, 4, 0, 0, 4294967295, "ring.topo"⟩)

/-- The entries of telegram descriptors (R389). -/
def telRows : List DescRow :=
  [(0x01, ⟨9, 3, true, 8, 0, 0, 18446744073709551615, "ring.tel"⟩),
   (0x02, ⟨7, 0, false, 2, 0, 0, 65535, "ring.tel.wkc"⟩)]

/-- The entries of the host port (Table 17-6). -/
def hostRows : List DescRow :=
  [(0x01, ⟨6, 0, false, 1, 0, 0, 255, "host.addr"⟩),
   (0x02, ⟨9, 4, false, 8, 5815424909489, 0, 18446744073709551615, "host.pid"⟩),
   (0x03, ⟨6, 0, false, 1, 0, 0, 255, "host.mode"⟩),
   (0x04, ⟨1, 0, false, 1, 1, 0, 1, "host.ibi.enable"⟩),
   (0x05, ⟨1, 1, true, 1, 1, 0, 1, "host.irq.pin"⟩),
   (0x06, ⟨7, 0, false, 2, 280, 0, 65535, "host.mrl"⟩),
   (0x07, ⟨6, 0, false, 1, 0, 0, 32, "host.queue"⟩),
   (0x08, ⟨8, 0, false, 4, 0, 0, 4294967295, "host.frames"⟩),
   (0x09, ⟨8, 0, false, 4, 0, 0, 4294967295, "host.errors"⟩),
   (0x0A, ⟨7, 1, true, 2, 100, 10, 10000, "host.report.retry"⟩),
   (0x0B, ⟨6, 1, true, 1, 0, 0, 255, "host.event.notify"⟩),
   (0x0C, ⟨8, 0, false, 4, 0, 0, 4294967295, "host.ibis"⟩)]

/-- The entries of the dedicated pins and debug access (R404). -/
def pinsRows : List DescRow :=
  [(0x01, ⟨6, 0, false, 1, 0, 0, 255, "pin.levels"⟩),
   (0x02, ⟨6, 0, false, 1, 0, 0, 255, "pin.boot.mode"⟩),
   (0x03, ⟨6, 1, true, 1, 0, 0, 3, "sync.out.mode"⟩),
   (0x04, ⟨8, 1, true, 4, 100000, 8, 500000000, "sync.out.width"⟩),
   (0x05, ⟨8, 1, true, 4, 0, 0, 1000000, "sync.out.offset"⟩),
   (0x06, ⟨6, 1, true, 1, 1, 1, 3, "sync.in.edge"⟩),
   (0x07, ⟨7, 1, true, 2, 50, 20, 1000, "stop.filter"⟩),
   (0x08, ⟨8, 0, false, 4, 0, 0, 4294967295, "stop.count"⟩),
   (0x09, ⟨8, 0, true, 4, 0, 0, 4294967295, "tamper.count"⟩),
   (0x0A, ⟨6, 3, true, 1, 3, 0, 3, "tio.bank.v"⟩),
   (0x0B, ⟨7, 1, true, 2, 21554, 0, 65535, "led.src"⟩),
   (0x0C, ⟨1, 0, false, 1, 0, 0, 1, "dbg.open"⟩),
   (0x0D, ⟨8, 1, true, 4, 600000, 1000, 3600000, "dbg.timeout"⟩)]

/-- The entries of timed pin p (R404). -/
def tioRows : List DescRow :=
  [(0x01, ⟨6, 1, true, 1, 0, 0, 3, "tio.mode"⟩),
   (0x02, ⟨6, 1, true, 1, 1, 1, 3, "tio.edge"⟩),
   (0x03, ⟨6, 1, true, 1, 3, 0, 3, "tio.stop"⟩),
   (0x04, ⟨1, 0, false, 1, 0, 0, 1, "tio.level"⟩),
   (0x05, ⟨6, 0, false, 1, 0, 0, 16, "tio.pending"⟩),
   (0x06, ⟨8, 0, false, 4, 0, 0, 4294967295, "tio.overflow"⟩),
   (0x07, ⟨8, 0, false, 4, 0, 0, 4294967295, "tio.discard"⟩),
   (0x08, ⟨8, 0, false, 4, 0, 0, 4294967295, "tio.captures"⟩),
   (0x09, ⟨12, 0, false, 8, 0, 0, 18446744073709551615, "tio.applied"⟩)]

/-- The entries of boot and life cycle (Table 19-10). -/
def bootRows : List DescRow :=
  [(0x01, ⟨6, 0, false, 1, 1, 0, 255, "boot.stage"⟩),
   (0x02, ⟨6, 0, false, 1, 255, 0, 255, "boot.slot"⟩),
   (0x03, ⟨8, 0, false, 4, 0, 0, 4294967295, "boot.fw.version"⟩),
   (0x04, ⟨8, 0, false, 4, 0, 0, 4294967295, "boot.time"⟩),
   (0x05, ⟨7, 0, false, 2, 0, 0, 65535, "boot.fail"⟩),
   (0x06, ⟨14, 0, false, 16, 0, 0, 0, "lc.nonce"⟩),
   (0x07, ⟨15, 2, false, 128, 0, 0, 0, "lc.cmd"⟩),
   (0x08, ⟨15, 1, true, 256, 0, 0, 0, "lc.keys"⟩),
   (0x09, ⟨6, 0, false, 1, 0, 0, 64, "lc.rollback"⟩)]

/-- The entries of tamper (Table 19-10). -/
def tamperRows : List DescRow :=
  [(0x01, ⟨6, 1, false, 1, 0, 0, 255, "tamper.state"⟩),
   (0x02, ⟨6, 1, true, 1, 0, 0, 1, "tamper.action"⟩),
   (0x03, ⟨12, 0, false, 8, 0, 0, 18446744073709551615, "tamper.last"⟩)]

/-- The entries of service (Table 20-11). -/
def svcRows : List DescRow :=
  [(0x01, ⟨15, 2, false, 32, 0, 0, 0, "svc.cmd"⟩),
   (0x02, ⟨6, 1, false, 1, 0, 0, 255, "svc.stage"⟩),
   (0x03, ⟨8, 1, false, 4, 0, 0, 1048576, "svc.stage.offset"⟩),
   (0x04, ⟨14, 2, false, 4096, 0, 0, 0, "svc.stage.chunk"⟩),
   (0x05, ⟨15, 1, false, 1024, 0, 0, 0, "svc.plan"⟩),
   (0x06, ⟨15, 1, true, 2048, 0, 0, 0, "folio.auto"⟩),
   (0x07, ⟨9, 3, true, 8, 3221225472, 0, 18446744073709551615, "folio.dram.base"⟩),
   (0x08, ⟨9, 3, true, 8, 4294967295, 0, 18446744073709551615, "folio.dram.limit"⟩),
   (0x09, ⟨15, 0, false, 1024, 0, 0, 0, "folio.map"⟩),
   (0x0A, ⟨14, 0, true, 16, 0, 0, 0, "svc.repair.pairs"⟩)]

/-- The entries of job slot j (Table 20-11). -/
def jobRows : List DescRow :=
  [(0x01, ⟨6, 0, false, 1, 0, 0, 255, "job.state"⟩),
   (0x02, ⟨8, 0, false, 4, 0, 0, 4294967295, "job.code"⟩),
   (0x03, ⟨7, 0, false, 2, 0, 0, 10000, "job.progress"⟩),
   (0x04, ⟨9, 0, false, 8, 0, 0, 18446744073709551615, "job.position"⟩),
   (0x05, ⟨7, 0, false, 2, 65535, 0, 65535, "job.subject"⟩)]

/-- The entries of process-image mapping (Table 16-8). -/
def mapRows : List DescRow :=
  [(0x01, ⟨8, 1, true, 4, 0, 0, 4294967295, "map.var"⟩)]

/-- The entries of ring index 0x1601 + 0x100r and of the port indices below it (R388, R389). -/
def ringFamily (idx : Nat) : List DescRow × Nat :=
  let o := (idx - 0x1600) % 0x100
  if o = 0x00 ∨ o = 0x80 then (portRows, 16)
  else if o = 0x01 then (ringRows, 32)
  else if o = 0x02 then (topoRows, 64)
  else if 0x40 ≤ o ∧ o < 0x80 then (telRows, 2)
  else ([], 0)

/-- The entries of an index, and its highest subindex (Table 15-4, R331). -/
def familyOf (idx : Nat) : List DescRow × Nat :=
  if 0x1600 ≤ idx ∧ idx < 0x1800 then ringFamily idx
  else if idx = 0x1000 then (identityRows, 10)
  else if idx = 0x1010 then (promiseRows, 3)
  else if idx = 0x1020 then (serviceRows, 4)
  else if idx = 0x1030 then (bootRows, 9)
  else if idx = 0x1040 then (tamperRows, 3)
  else if idx = 0x1050 then (svcRows, 10)
  else if 0x1060 ≤ idx ∧ idx < 0x1070 then (jobRows, 5)
  else if idx = 0x1100 then (timeRows, 9)
  else if idx = 0x1110 then (periodRows, 5)
  else if idx = 0x1200 then (supplyRows, 10)
  else if 0x1210 ≤ idx ∧ idx < 0x1218 then (vcoreRows, 5)
  else if idx = 0x1220 then (domainsRows, 12)
  else if idx = 0x1300 then (archiveRows, 10)
  else if idx = 0x1400 then (ledgerRows, 9)
  else if idx = 0x1500 then (hostRows, 12)
  else if idx = 0x1510 then (pinsRows, 13)
  else if 0x1520 ≤ idx ∧ idx < 0x1530 then (tioRows, 9)
  else if 0x1800 ≤ idx ∧ idx < 0x1840 then (xfRows, 8)
  else if idx = 0x1900 then (dramRows, 8)
  else if idx = 0x1910 then (shelfreadRows, 7)
  else if idx = 0x1911 then (stacksRows, 3)
  else if idx = 0x1920 then (matrixRows, 7)
  else if 0x1930 ≤ idx ∧ idx < 0x1934 then (xfuRows, 3)
  else if 0x2000 ≤ idx ∧ idx < 0x2020 then (tileRows, 81)
  else if 0x2100 ≤ idx ∧ idx < 0x2200 then (engineRows, 12)
  else if 0x2200 ≤ idx ∧ idx < 0x2280 then (pairRows, 8)
  else if 0x6000 ≤ idx ∧ idx < 0x6800 then (mapRows, 1)
  else if idx = 0x7000 then (eventsRows, 2)
  else if 0x7001 ≤ idx ∧ idx < 0x7041 then (eventRows, 3)
  else ([], 0)

/-- A descriptor among rows. -/
def rowFind (sub : Nat) : List DescRow → Option Desc
  | [] => none
  | (k, d) :: t => if k = sub then some d else rowFind sub t

/-- The descriptor of a device-defined entry; subindex 00 holds the highest subindex (R331). -/
def deviceDesc (call : Nat) : Option Desc :=
  let f := familyOf (call / 256)
  if f.1.isEmpty then none
  else if call % 256 = 0 then some ⟨6, 4, false, 1, f.2, 0, 255, ""⟩
  else rowFind (call % 256) f.1

/-- The default of an entry, where it depends on the number of its unit: pair.spare (R241), ring.id (R388), tile.group (R348). -/
def unitDefault (call dflt : Nat) : Nat :=
  let idx := call / 256
  if 0x2200 ≤ idx ∧ idx < 0x2280 ∧ call % 256 = 8 then (if (idx - 0x2200) % 16 = 15 then 1 else 0)
  else if (idx = 0x1601 ∨ idx = 0x1701) ∧ call % 256 = 4 then (idx - 0x1601) / 0x100 + 1
  else if 0x2000 ≤ idx ∧ idx < 0x2020 ∧ call % 256 = 0x0A then (idx - 0x2000) / 4
  else dflt

/-- A value of a type as a number: two's complement for the INT types, unsigned otherwise (Table 15-1). -/
def typedValue (type size v : Nat) : Int :=
  if 2 ≤ type ∧ type ≤ 5 ∧ 2 ^ (8 * size - 1) ≤ v then (v : Int) - 2 ^ (8 * size) else v

/-- A type of Table 15-1 whose value is short. -/
def shortType (t : Nat) : Bool := decide (1 ≤ t) && decide (t ≤ 12)

end Sys2Proof.Machine
end

