-- ==== Sys2Proof/Machine/Operands.lean ====
section
/-! DEFINITION. Machine/Operands.lean: how a bundle is read (chapter 04): parcels, classes, literals, and the fields of the
lsu, xu, cu and field-descriptor operands. -/

namespace Sys2Proof.Machine

/-- R70: the 14-bit parcel of slot `k`. -/
def parcel (b : Bundle) (k : Nat) : Nat := b.toNat / 2 ^ (14 * k) % 16384

/-- Table 04-1: CLASS of a parcel. -/
def pClass (p : Nat) : Nat := p / 4096 % 4
/-- Table 04-1: SRC of a move. -/
def pSrc (p : Nat) : Nat := p / 64 % 64
/-- Table 04-1: DST of a move. -/
def pDst (p : Nat) : Nat := p % 64
/-- Table 04-1: LIT of a literal parcel. -/
def pLit (p : Nat) : Nat := p % 4096

/-- The four parcels in slot order. -/
def parcels (b : Bundle) : List Nat := [parcel b 0, parcel b 1, parcel b 2, parcel b 3]

/-- The bundle that holds four parcels (R70). -/
def packBundle (p0 p1 p2 p3 : Nat) : Bundle :=
  BitVec.ofNat 56 (p0 % 16384 + 16384 * (p1 % 16384) + 268435456 * (p2 % 16384) + 4398046511104 * (p3 % 16384))

/-- R77: the literal parcels concatenated in slot order, and their number. -/
def litConcat (ps : List Nat) : Nat × Nat :=
  ps.foldl (fun (v, n) p => if pClass p = 3 then (v * 4096 + pLit p, n + 1) else (v, n)) (0, 0)

/-- Table 04-2: the value of lit. -/
def litValue (b : Bundle) : Word :=
  let (v, n) := litConcat (parcels b)
  match n with
  | 0 => 0#32
  | 1 => BitVec.ofInt 32 ((v : Int) - 4096 * (v / 2048 : Nat))
  | 2 => BitVec.ofInt 32 ((v : Int) - 16777216 * (v / 8388608 : Nat))
  | _ => BitVec.ofNat 32 v

/-- A move of a bundle: source and destination socket. -/
structure Move where
  src : Nat
  dst : Nat
  deriving DecidableEq, Repr

/-- R44 and R73: the moves that execute when the guard bit is `g`. -/
def execMoves (b : Bundle) (g : Bool) : List Move :=
  (parcels b).filterMap fun p =>
    if pClass p = 0 ∨ (pClass p = 1 ∧ g = true) ∨ (pClass p = 2 ∧ g = false) then some ⟨pSrc p, pDst p⟩ else none

/-- R82: a slot names a reserved source, whether or not its guard passes. -/
def namesReserved (b : Bundle) : Bool :=
  (parcels b).any fun p => pClass p != 3 && decide (42 ≤ pSrc p) && decide (pSrc p ≤ 61)

/-- R45: the unit whose trigger a destination socket is, 0 = no trigger. -/
def trigUnit (d : Nat) : Nat :=
  if d = 25 ∨ d = 26 ∨ d = 27 then 1
  else if d = 30 ∨ d = 31 ∨ d = 32 then 2
  else if d = 35 then 3
  else if d = 38 then 4
  else if d = 42 then 5
  else if d = 45 ∨ d = 46 then 6
  else if 49 ≤ d ∧ d ≤ 57 then 7
  else if d = 59 then 8
  else if d = 61 then 9
  else 0

/-- R45: two executed moves collide. -/
def clash (m n : Move) : Bool :=
  m.dst != 63 && n.dst != 63 && (m.dst == n.dst || (trigUnit m.dst != 0 && trigUnit m.dst == trigUnit n.dst))

/-- R45: some two moves of a list collide. -/
def anyClash : List Move → Bool
  | [] => false
  | m :: ms => ms.any (clash m) || anyClash ms

/-- Table 06-12: log2 of the access width in bytes. -/
def lsuWidth (op : Word) : Nat := op.toNat % 4
/-- Table 06-12: SX. -/
def lsuSx (op : Word) : Bool := op.getLsbD 2
/-- Table 06-12: LOCK. -/
def lsuLock (op : Word) : Bool := op.getLsbD 3
/-- Table 06-12: LAST, which counts only with LOCK. -/
def lsuLast (op : Word) : Bool := op.getLsbD 3 && op.getLsbD 4
/-- Table 06-12: DRAIN. -/
def lsuDrain (op : Word) : Bool := op.getLsbD 5
/-- Table 06-12: HREG. -/
def lsuHreg (op : Word) : Nat := op.toNat / 256 % 32

/-- R115: whether an access of `n` bytes at `a` crosses an 8-byte boundary. -/
def isSplit (a n : Nat) : Bool := decide (8 < a % 8 + n)

/-- R112: a loaded value of `2^w` bytes extended as SX selects. -/
def extendLoad (w : Nat) (sx : Bool) (v : Nat) : Word :=
  match w with
  | 0 => if sx then (BitVec.ofNat 8 v).signExtend 32 else BitVec.ofNat 32 (v % 256)
  | 1 => if sx then (BitVec.ofNat 16 v).signExtend 32 else BitVec.ofNat 32 (v % 65536)
  | _ => BitVec.ofNat 32 v

/-- Table 03-4: KIND of xu.to. -/
def xuKind (t : Word) : Nat := t.toNat / 1073741824
/-- Table 03-4: STAMP. -/
def xuStamp (t : Word) : Bool := t.getLsbD 29
/-- Table 03-4: RING. -/
def xuRing (t : Word) : Nat := if t.getLsbD 28 then 1 else 0
/-- Table 03-4: WIDTH. -/
def xuWidth (t : Word) : Nat := t.toNat / 67108864 % 4
/-- Table 03-4: TARGET as an engine number. -/
def xuEngine (t : Word) : Nat := t.toNat % 256
/-- Table 03-4: TARGET as a byte offset. -/
def xuOffset (t : Word) : Nat := t.toNat % 65536
/-- Table 03-4: TARGET as a pin number. -/
def xuPin (t : Word) : Nat := t.toNat % 16

/-- R59: a send that raises 0x04: reserved KIND, or in a ring image a reserved WIDTH, an offset that is no multiple of the
width, or one beyond the image of `len` bytes. -/
def badSend (t : Word) (lenA lenB : Nat) : Bool :=
  let len := if xuRing t = 0 then lenA else lenB
  let w := 2 ^ xuWidth t
  xuKind t == 3 ||
    (xuKind t == 1 && (xuWidth t == 3 || xuOffset t % w != 0 || decide (len < xuOffset t + w)))

/-- R170: the full time a 32-bit target denotes at Sirkan time `n`. -/
def targetTime (n : Nat) (x : Word) : Nat :=
  let d := (x.toNat + 4294967296 - n % 4294967296) % 4294967296
  if d < 2147483648 then n + d else n + d - 4294967296

/-- Table 07-2: body length L of a cu.loop value. -/
def loopLen (a : Word) : Nat := a.toNat % 16 + 1
/-- Table 07-2: iteration count C. -/
def loopCount (a : Word) : Nat := a.toNat / 65536 + 1

/-- Table 10-2: the code of a cu.ctl value. -/
def ctlCode (a : Word) : Nat := a.toNat % 64
/-- Table 10-2: bits `[lo+n-1:lo]` of a cu.ctl value. -/
def ctlArg (a : Word) (lo n : Nat) : Nat := a.toNat / 2 ^ lo % 2 ^ n

end Sys2Proof.Machine
end

