-- ==== Sys2Proof/Machine/Kv.lean ====
section
/-! DEFINITION. Machine/Kv.lean: a sparse table of values by number, in one canonical form. -/

namespace Sys2Proof.Machine

/-- A table of values by number: pairs in strictly rising order of number, none holding the value
that an unlisted number reads as. -/
abbrev Kv (α : Type) := List (Nat × α)

/-- The value a table holds at `k`, where an unlisted number reads as `d`.
[DEDUCED, log row 10] -/
def kvGet {α : Type} (d : α) : Kv α → Nat → α
  | [], _ => d
  | (j, v) :: t, k => if j = k then v else kvGet d t k

/-- The table without its entry for `k`. -/
def kvDel {α : Type} : Kv α → Nat → Kv α
  | [], _ => []
  | (j, v) :: t, k => if j = k then t else (j, v) :: kvDel t k

/-- The table with `v` put at `k` in rising order. -/
def kvPut {α : Type} : Kv α → Nat → α → Kv α
  | [], k, v => [(k, v)]
  | (j, w) :: t, k, v =>
    if k < j then (k, v) :: (j, w) :: t
    else if j = k then (k, v) :: t
    else (j, w) :: kvPut t k v

/-- The table after `v` is written at `k`: the value an unlisted number reads as removes the entry. -/
def kvSet {α : Type} [DecidableEq α] (d : α) (m : Kv α) (k : Nat) (v : α) : Kv α :=
  if v = d then kvDel m k else kvPut m k v

/-- The table with `f` applied to every value: what becomes the value that an unlisted number reads as is listed no more. -/
def kvMap {α : Type} [DecidableEq α] (d : α) (f : α → α) (m : Kv α) : Kv α := (m.map fun x => (x.1, f x.2)).filter fun x => decide (x.2 ≠ d)

/-- Every number of the table is above `b`, in strictly rising order, and no value equals `d`. -/
def kvWfFrom {α : Type} [DecidableEq α] (d : α) : Nat → Kv α → Bool
  | _, [] => true
  | b, (j, v) :: t => decide (b ≤ j) && decide (v ≠ d) && kvWfFrom d (j + 1) t

/-- The canonical form of a table. -/
def kvWf {α : Type} [DecidableEq α] (d : α) (m : Kv α) : Bool := kvWfFrom d 0 m

end Sys2Proof.Machine
end

