-- ==== Sys2Proof/Machine/State.lean ====
section
/-! DEFINITION. Machine/State.lean: the state of the EN256 as plain data: everything the specification gives the block, and the
queue of waiting commands. -/

namespace Sys2Proof.Machine

/-! ### The transport engine (chapters 03 to 10) -/

/-- Table 03-7: the states of an engine. -/
inductive EngState where
  | off | retained | halted | armed | running | held | debug | following | restoring | fused
  deriving DecidableEq, Repr

/-- Where the bytes of an access lie: a device physical address, or a view that has none (R246). -/
inductive Place where
  /-- a device physical byte address (Table 12-3) -/
  | phys (pa : Nat)
  /-- a byte offset in the engine's own program window -/
  | prog (off : Nat)
  /-- a byte offset in the catalogue control window -/
  | cat (off : Nat)
  /-- a byte offset in the own-queue view at 0x3020_0000 -/
  | ownq (off : Nat)
  deriving DecidableEq, Repr

/-- What the address check of R113 and R242 finds: a cause code (0 = none) and the place. -/
structure AccRes where
  /-- cause code, 0 when the access is allowed -/
  code : Nat
  /-- where the first byte lies -/
  place : Place
  deriving DecidableEq, Repr

/-- The sixteen operand and op latches, in the order of the LATCH field of Table 11-3. -/
structure Latches where
  alu0o : Word
  alu0op : Word
  alu1o : Word
  alu1op : Word
  bfuo : Word
  bfuop : Word
  mulo : Word
  mulop : Word
  fpuo : Word
  fpuc : Word
  fpuop : Word
  lsua : Word
  lsuop : Word
  lsuwin : Word
  tuat : Word
  xuto : Word
  deriving DecidableEq, Repr

/-- The landed results of the units, as the result sockets show them. -/
structure Results where
  alu0q : Word
  alu1q : Word
  bfuq : Word
  /-- mul.hi:mul.lo -/
  mul : BitVec 64
  fpuq : Word
  /-- fpu.st bits [4:0] (Table 06-10) -/
  fpust : BitVec 5
  deriving DecidableEq, Repr

/-- A multiplier operation in flight: issued bundles until it lands, and its result (R48, R98). -/
structure MulOp where
  left : Nat
  value : BitVec 64
  deriving DecidableEq, Repr

/-- An fpu operation in flight: issued bundles until it lands, its result and its flags (R48, R108). -/
structure FpuOp where
  left : Nat
  value : Word
  flags : BitVec 5
  /-- TNV, TDZ and TOF latched by the operation, bits [18:16] of its op latch -/
  traps : BitVec 3
  deriving DecidableEq, Repr

/-- An arithmetic trap that falls due after `left` more issued bundles (R90, R109). -/
structure Trap where
  left : Nat
  /-- address of the trigger -/
  addr : Nat
  /-- IMPRECISE of engine.cause -/
  imprecise : Bool
  /-- raised by one of the first bundles of a handler (R201) -/
  first : Bool
  deriving DecidableEq, Repr

/-- One load in the load queue: one entry, or two for a 64-bit load (R112, R116). -/
structure LoadOp where
  /-- depth of the unit context the load belongs to (R195) -/
  ctx : Nat
  /-- engine address -/
  addr : Word
  /-- where the access goes, taken when it was triggered (R114, R243) -/
  place : Place
  /-- log2 of the width in bytes -/
  width : Nat
  sx : Bool
  lock : Bool
  last : Bool
  drain : Bool
  /-- entries not yet removed by a read of lsu.q -/
  left : Nat
  /-- the entries' values once the data has arrived -/
  data : Option (List Word)
  /-- the entries' values once the access has been performed at its target -/
  perf : Option (List Word)
  /-- error mark: 0, 0x0C or 0x0D (R191) -/
  err : Nat
  /-- its data is discarded when it arrives (R64, R195) -/
  drop : Bool
  /-- number of the access in the engine's issue order -/
  seq : Nat
  /-- number of its first log record of KIND 0x0F, whose VALUE is written when it is performed (R225) -/
  logged : Option Nat
  deriving DecidableEq, Repr

/-- One store in the store buffer (R117). -/
structure StoreOp where
  addr : Word
  place : Place
  width : Nat
  data : BitVec 64
  lock : Bool
  last : Bool
  /-- address of the trigger's bundle -/
  pc : Nat
  /-- compared equal, or issued where nothing is compared (R220) -/
  released : Bool
  /-- number of the access in the engine's issue order -/
  seq : Nat
  /-- a write of the ledger's that took effect at a hand-over's mark before its turn (R315) -/
  taken : Bool
  deriving DecidableEq, Repr

/-- One entry of the program write buffer: the bytes written of one bundle (R140). -/
structure PWrite where
  addr : Nat
  /-- bit j = byte j of the bundle is written -/
  mask : Nat
  data : BitVec 56
  deriving DecidableEq, Repr

/-- A taken SLOT transfer whose delay slot has not issued (R126, R128). -/
structure SlotSt where
  origin : Nat
  target : Nat
  deriving DecidableEq, Repr

/-- An active repeat: the repeated bundle and the repetitions not yet done (R131). -/
structure RepSt where
  addr : Nat
  rem : Nat
  /-- started by cu.repn -/
  noirq : Bool
  deriving DecidableEq, Repr

/-- An active hardware loop (R135, R136). -/
structure LoopSt where
  /-- first bundle of the body -/
  start : Nat
  /-- body length L -/
  len : Nat
  /-- iterations not yet completed, the current one among them -/
  rem : Nat
  /-- position in the body of the next bundle -/
  pos : Nat
  /-- the loop buffer: position and the bundle copied there -/
  buf : List (Nat × BitVec 56)
  deriving DecidableEq, Repr

/-- A timed wait: its 64-bit target and its tolerance, in quarter-nanoseconds (R170, R176). -/
structure WaitSt where
  target : Nat
  tol : Nat
  /-- address of the tu.wait bundle -/
  addr : Nat
  /-- sources pending when tile.time.wait.irq was last written during the hold: the write does not govern them (Table 09-10) -/
  block : BitVec 32
  /-- triggered by one of the first bundles of a handler (R201) -/
  first : Bool
  /-- late when it was reached, or made late by a step of the time, while nothing could release it (R174, R188) -/
  late : Bool
  deriving DecidableEq, Repr

/-- A control effect that waits for the bundle's boundary (R110, R192). -/
inductive Ctl where
  | none
  /-- a cu.ctl code with its arguments -/
  | code (a : Word)
  /-- a system call to entry k -/
  | sys (k : Nat)
  deriving DecidableEq, Repr

/-- What caused an entry (Table 10-3, Kind). -/
inductive FrameKind where
  | irq (src : Nat)
  | exc (code : Nat)
  | sys (k : Nat)
  | dbl (code : Nat)
  deriving DecidableEq, Repr

/-- The unit context of a frame (Table 10-3). -/
structure UnitCtx where
  lat : Latches
  res : Results
  mulP : List MulOp
  fpuP : List FpuOp
  traps : List Trap
  deriving DecidableEq, Repr

/-- An exception that is due at the present boundary (R189, R190). -/
structure Due where
  code : Nat
  addr : Nat
  imprecise : Bool
  inslot : Bool
  /-- raised by the first bundle of a handler or the second of a vector pair (R201) -/
  first : Bool
  deriving DecidableEq, Repr

/-- The first bundles of a handler: how many have issued, and whether they stand at a vector (R201). -/
structure Fresh where
  issued : Nat
  vector : Bool
  deriving DecidableEq, Repr

/-- One frame of the save stack (Table 10-3). -/
structure Frame where
  kind : FrameKind
  /-- 0 to 8,192 (R121) -/
  ret : Nat
  slot : Option SlotSt
  flag : Bool
  super : Bool
  precise : Bool
  /-- running level, 16 = none -/
  run : Nat
  mask : Nat
  loop : Option LoopSt
  rep : Option RepSt
  wait : Option WaitSt
  /-- the context had triggered a repeat or a loop of its own (R133) -/
  cntOwn : Bool
  unit : Option UnitCtx
  /-- exceptions 0x0C and 0x0D that stay pending until the handler has returned (R190) -/
  kept : List Due
  /-- the interrupted context stands among the first bundles of a handler (R201) -/
  fresh : Option Fresh
  deriving DecidableEq, Repr

/-- An open atomic window (R209). -/
structure Atomic where
  /-- steps left -/
  left : Nat
  /-- address of the ATOMIC bundle -/
  addr : Nat
  /-- frames occupied when it was opened -/
  depth : Nat
  deriving DecidableEq, Repr

/-- Privilege, interrupt and exception settings of an engine (Table 10-8). -/
structure ExcSt where
  super : Bool
  precise : Bool
  /-- vector base -/
  vbase : Nat
  /-- system-call entries: address + 8192 when enabled -/
  sysent : Kv Nat
  irqen : BitVec 32
  irqpend : BitVec 32
  irqlvl : Kv Nat
  /-- mask level, 0 to 16 -/
  mask : Nat
  /-- running level, 0 to 15, 16 = none -/
  run : Nat
  /-- save stack, innermost frame first, at most 8 -/
  frames : List Frame
  /-- the frame reserved for the double fault (R193) -/
  dframe : Option Frame
  atomic : Option Atomic
  /-- exceptions due at the present boundary -/
  due : List Due
  /-- exceptions that fall due at the next boundary (R155, R191) -/
  keep : List Due
  fresh : Option Fresh
  /-- the due exception was raised by a read of a marked head of lsu.q (R191) -/
  head : Bool
  /-- an RFE has issued whose frame serves an interrupt, and the chained entry has not been made (R200) -/
  rfe : Bool
  deriving DecidableEq, Repr

/-- The position of an engine in its bundle sequence (chapter 07). -/
structure Pos where
  /-- address of the next bundle to issue, 0 to 8,192 -/
  pc : Nat
  /-- engine.pc: address of the last issued bundle -/
  lastpc : Nat
  slot : Option SlotSt
  /-- killed bundles still to issue (R125, R141) -/
  kill : Nat
  /-- inserted precise-mode bundles still to issue (R110) -/
  ins : Nat
  /-- control effect that waits for the boundary after the inserted bundles -/
  ctl : Ctl
  rep : Option RepSt
  loop : Option LoopSt
  wait : Option WaitSt
  /-- a tu.wait whose outcome is judged at the boundary after the inserted bundles (R110, R176) -/
  arm : Option WaitSt
  /-- address of a tu.wait bundle whose exception 0x07 waits for its boundary (R177), and whether R201 counts it -/
  late : Option (Nat × Bool)
  /-- T + τ of the released bundle that has not issued (R188), 2^64 when the wait has been counted late -/
  relLim : Option Nat
  /-- the release instant has passed while nothing could release the engine (R173, R174) -/
  missed : Bool
  /-- the present handler has triggered a repeat or a loop of its own (R133) -/
  cntOwn : Bool
  deriving DecidableEq, Repr

/-- The counters of an engine that START and RESET clear (Table 03-9). -/
structure EngCtr where
  steps : Nat
  stallLsu : Nat
  stallHeavy : Nat
  conflicts : Nat
  deriving DecidableEq, Repr

/-- The receive queue of an engine (R58, R61). -/
structure RecvQ where
  words : List Word
  ovf : Bool
  unf : Bool
  deriving DecidableEq, Repr

/-- An engine command that waits for a boundary (R65): Table 03-8 value, 0 = none. -/
abbrev EngCmd := Nat

/-- One transport engine. -/
structure Engine where
  st : EngState
  g : Kv Word
  flag : Bool
  lat : Latches
  res : Results
  /-- cu.lnk -/
  lnk : Nat
  mulP : List MulOp
  fpuP : List FpuOp
  traps : List Trap
  ldq : List LoadOp
  /-- transactions performed in the open locked sequence and its target, if one is open (R120) -/
  lockN : Option (Nat × Nat)
  /-- a locked sequence has been opened by a trigger and not closed by one -/
  lockOpen : Bool
  /-- accesses triggered -/
  lsuSeq : Nat
  stb : List StoreOp
  /-- loads and stores of a run that STOP or RESET has ended, which still complete (R63, R64) -/
  past : List LoadOp
  pastSt : List StoreOp
  pwb : List PWrite
  /-- program memory, where an unlisted bundle is the idle bundle -/
  pmem : Kv (BitVec 56)
  /-- parcels with a parity error: bundle and slot (R72) -/
  pbad : List (Nat × Nat)
  pos : Pos
  exc : ExcSt
  ctr : EngCtr
  /-- engine.cause (Table 03-11) -/
  cause : Word
  rq : RecvQ
  /-- the next bundle is held on lsu.q (R54) -/
  heldLsu : Bool
  /-- the next bundle has been held by a meter stall and has not issued (R55) -/
  heldHeavy : Bool
  cmd : EngCmd
  /-- fetch policy read at START: true = SLOT (R124) -/
  slotFetch : Bool
  /-- an exception 0x0B mark with the marked bundle's address (R155), and whether R201 counts it -/
  marked : Option (Nat × Bool)
  /-- activations of each of the last 16 meter steps, newest first (R154) -/
  acts : List Nat
  /-- activations since the last meter step, and the bundle of the newest -/
  actNow : Nat
  actAddr : Nat
  actFirst : Bool
  deriving DecidableEq, Repr

/-- The idle bundle (R75). -/
def idleBundle : BitVec 56 := 0x3FFCFFF3FFCFFF#56

/-- All latches at the value START and RESET give (Table 03-9).
[DESIGN CHOICE, log row 9] -/
def Latches.zero : Latches := ⟨0, 0, 0, 0, 0, 0, 0, 0, 0, 0, 0, 0, 0, 0, 0, 0⟩

/-- All results at the value START and RESET give.
[DESIGN CHOICE, log row 9] -/
def Results.zero : Results := ⟨0, 0, 0, 0, 0, 0⟩

/-- Table 10-8. -/
def ExcSt.start : ExcSt :=
  { super := true, precise := false, vbase := 0x1F80, sysent := [], irqen := 0, irqpend := 0, irqlvl := [],
    mask := 0, run := 16, frames := [], dframe := none, atomic := none, due := [], keep := [], fresh := none, head := false, rfe := false }

/-- A position at bundle `a` with nothing active. -/
def Pos.start (a : Nat) : Pos :=
  { pc := a, lastpc := 0, slot := none, kill := 0, ins := 0, ctl := .none, rep := none, loop := none, wait := none,
    arm := none, late := none, relLim := none, missed := false, cntOwn := false }

/-- An engine as it is rebuilt when its tile's domain leaves off (R417): HALTED, empty, every bundle idle.
[DESIGN CHOICE, log row 9] -/
def Engine.fresh : Engine :=
  { st := .halted, g := [], flag := false, lat := Latches.zero, res := Results.zero, lnk := 0, mulP := [], fpuP := [],
    traps := [], ldq := [], lockN := none, lockOpen := false, lsuSeq := 0, stb := [], past := [], pastSt := [], pwb := [], pmem := [], pbad := [], pos := Pos.start 0,
    exc := ExcSt.start, ctr := ⟨0, 0, 0, 0⟩, cause := 0, rq := ⟨[], false, false⟩, heldLsu := false, heldHeavy := false, cmd := 0, slotFetch := false,
    marked := none, acts := [], actNow := 0, actAddr := 0, actFirst := false }
/-! ### Pairs (chapter 11) -/

/-- Table 11-10, without SPARE: an IDLE pair whose pair.spare is 1 reports SPARE. -/
inductive PairState where
  | idle | checked | restoring | handover | unchecked | split | debug | out | fused
  deriving DecidableEq, Repr

/-- One sampled set of inputs of a step, passed down the delay chain with its token (R217, Table 11-1). -/
structure Inp where
  /-- Sirkan time at the start of the step -/
  now : Nat
  /-- Sirkan time at the end of the step -/
  fin : Nat
  /-- tu.cap -/
  cap : Word
  /-- eng.id -/
  id : Word
  /-- eng.step -/
  estep : Word
  /-- late tolerance of the tile, in quarter-nanoseconds -/
  tol : Nat
  /-- tile.time.late.fault -/
  lateFault : Bool
  /-- tile.atomic.limit -/
  atomicLim : Nat
  /-- value and error mark of the head of lsu.q, when its data has arrived -/
  lsu : Option (Word × Nat)
  /-- free load-queue entries and free store-buffer entries (R116, R117) -/
  ldFree : Nat
  stFree : Nat
  /-- head of the receive queue, 0 when empty, and whether it is empty -/
  xuq : Word
  xuEmpty : Bool
  /-- xu.lvl -/
  xulvl : Word
  /-- pending bits of the interrupt sources -/
  irqpend : BitVec 32
  /-- replay after a restart: waits pass without a hold (R225) -/
  replay : Bool
  /-- output-image lengths of ring A and ring B, for the check of R59 -/
  imgA : Nat
  imgB : Nat
  /-- the tile releases timed waits (R174) -/
  rel : Bool
  /-- a wait is pending at the start of the step -/
  waitOn : Bool
  /-- in replay, the source that the log chains at an RFE, as a bit; none = judge the pending bits (R200, R225) -/
  chain : Option (BitVec 32)
  deriving DecidableEq, Repr

/-- An item of the compared set (Table 11-2). -/
inductive Item where
  | reg (n : Nat) (v : Word)
  | flag (b : Bool)
  | target (a : Nat)
  | store (addr : Word) (width : Nat) (lock last : Bool) (data : BitVec 64)
  | send (xto v : Word) (stamp : Option Nat)
  | ckpt (w : List (BitVec 32))
  deriving DecidableEq, Repr

/-- An xu send that has issued (R59). -/
structure SendOp where
  xto : Word
  value : Word
  /-- the 64-bit date stamp, if stamped -/
  stamp : Option Nat
  deriving DecidableEq, Repr

/-- What waits in the release buffer (R220). -/
inductive OutItem where
  /-- the oldest store of the store buffer that is not released -/
  | store
  | send (o : SendOp)
  deriving DecidableEq, Repr

/-- What a token makes the checker do (R215). -/
inductive TokKind where
  /-- an issued, killed or inserted bundle -/
  | issue
  /-- a stall step of a bundle held for lsu.q (R54) -/
  | stall
  /-- a stall step of the meter (R55) -/
  | meter
  /-- a step of an entry or return -/
  | idle
  /-- entry for an exception of the main copy's boundary -/
  | exc
  /-- entry for an interrupt source -/
  | irq (src : Nat)
  /-- the frame of an RFE is popped after all, its chained interrupt being no longer eligible -/
  | pop
  deriving DecidableEq, Repr

/-- One token of the delay chain, with what the main copy sampled and produced in the step. -/
structure Token where
  kind : TokKind
  inp : Inp
  ld : AccRes
  st : AccRes
  /-- exceptions of Table 11-1 due at the boundary after the step -/
  due : List Due
  items : List Item
  outs : List OutItem
  deriving DecidableEq, Repr

/-- One input-log record (Table 11-4). -/
structure LogRec where
  value : Word
  kind : Nat
  count : Nat
  deriving DecidableEq, Repr

/-- How far a restart has come (Table 11-5). -/
inductive RestorePhase where
  | none
  | resetting
  | restoring
  /-- replay, until the issued-bundle count `br` is reached -/
  | replay (br : Nat)
  deriving DecidableEq, Repr

/-- A migration under way (R231, R233). -/
structure Migration where
  /-- the spare pair -/
  spare : Nat
  /-- the program copy is complete -/
  copied : Bool
  /-- Sirkan time before which no mark takes effect -/
  from_ : Nat
  /-- the mark has come: the next capture hands over -/
  armed : Bool
  /-- caused by a checker fault (R233) -/
  fault : Bool
  /-- set going by the command MIGRATE, which awaits its mark (Table 11-11) -/
  cmd : Bool
  /-- Sirkan time of the mark that armed it, and the streams that a HANDOVER at that mark gave to the home pair (R316) -/
  markAt : Nat
  kept : List Nat
  deriving DecidableEq, Repr

/-- One pair of engines. -/
structure Pair where
  st : PairState
  /-- delay chain and release buffer, oldest token first -/
  chain : List Token
  /-- SLOT of pair.status -/
  cur : Bool
  /-- VALID of pair.status -/
  valid : Bool
  /-- LOGUSED: records of the input log since the current capture, which lie in bank 7 (R223) -/
  logN : Nat
  /-- records of KIND 0x0F whose load has not been performed -/
  void : List Nat
  /-- the exceptions that the log's records of KIND 0x0C stand for, in order -/
  dues : List Due
  /-- log records not yet consumed by a replay -/
  rlog : List LogRec
  /-- issued bundles since the end of the current capture -/
  count : Nat
  /-- steps since the end of the last capture -/
  sinceCap : Nat
  /-- a capture has fallen due -/
  capDue : Bool
  /-- captures since START -/
  captures : Nat
  /-- released items -/
  outseq : Nat
  /-- OUTSEQ of the last item released before the reset, and the items still to be discarded for it (R225) -/
  relBefore : Nat
  skip : Nat
  phase : RestorePhase
  /-- the restart returns to DEBUG (R240) -/
  toDebug : Bool
  /-- state the pair takes when the restart completes: CHECKED, or UNCHECKED for want of a spare (R230) -/
  after : PairState
  /-- DEADLINE by which the present restart must complete: as Sirkan time, and in ns after the mark (R228) -/
  dead : Option (Nat × Nat)
  /-- interrupt sources that became pending during a restart, or stood pending at its reset (R225) -/
  defer : BitVec 32
  /-- store errors that arrived during a restart (R191, R225) -/
  deferDue : List Due
  /-- uptime of the previous mismatch and of the previous third fault or RESTART -/
  lastMis : Option Nat
  lastThird : Option Nat
  /-- SUBST of pair.status (R228) -/
  subst : Bool
  /-- the substitute is held in every later period (R229) -/
  held : Bool
  /-- TAKER, when MOVED is set -/
  taker : Option Nat
  /-- pair.cmd value that awaits its mark, 0 = none, and the time it names -/
  cmd : Nat
  cmdAt : Nat
  /-- the mark has come: the command's capture or stop is due -/
  cmdDue : Bool
  mig : Option Migration
  /-- log no longer restarted by captures after a checker fault (R233) -/
  logKept : Bool
  /-- state to return to on RESUME -/
  prev : PairState
  deriving DecidableEq, Repr

/-- A pair with no folio running.
[DESIGN CHOICE, log row 9; DESIGN CHOICE, log row 16] -/
def Pair.fresh : Pair :=
  { st := .idle, chain := [], cur := false, valid := false, logN := 0, void := [], dues := [], rlog := [], count := 0,
    sinceCap := 0, capDue := false, captures := 0, outseq := 0, relBefore := 0, skip := 0, phase := .none, toDebug := false, after := .checked, dead := none, defer := 0, deferDue := [],
    lastMis := none, lastThird := none, subst := false, held := false, taker := none, cmd := 0, cmdAt := 0,
    cmdDue := false, mig := none, logKept := false, prev := .idle }

/-! ### Memory (chapter 12) -/

/-- Shelf banks and DRAM. Bank t.b has number 8t + b; a word is named by its device physical address ÷ 8. -/
structure MemSt where
  /-- bytes by device physical address, where an unlisted byte reads 0 (R252, R268) -/
  bytes : List Host.Cell
  /-- words with two or more bits in error (R250, R267) -/
  bad : List Nat
  /-- words with one bit in error: bit position 0 to 71, plus 1 -/
  one : Kv Nat
  /-- words whose corrected value waits for the bank's next idle step (R250) -/
  wback : List Nat
  /-- round-robin pointer of each bank: the master served last, plus 1 (R149) -/
  rr : Kv Nat
  /-- bank states: 0 on, 1 retention, 2 off, 3 waking (Table 12-5) -/
  bank : Kv Nat
  /-- corrections of the present sweep: bank, column and word (R264) -/
  hits : List (Nat × Nat × Nat)
  /-- spare columns in use: bank, column, fused -/
  cols : List (Nat × Nat × Bool)
  /-- spare columns being filled: bank and column -/
  fills : List (Nat × Nat)
  /-- regions each bank has completed in the present sweep (R261) -/
  swept : Kv Nat
  /-- Sirkan time at which the present sweep started, and its length in ms -/
  sweepAt : Nat
  sweepLen : Nat
  /-- a wipe of every bank 7 is in progress, with its cause (R256) -/
  wipe : Option Nat
  /-- uncorrectable DRAM errors: channel and uptime (R269) -/
  chErr : List (Nat × Nat)
  /-- refresh commands left in the open window, and whether one is open (R270) -/
  refLeft : Nat
  refOpen : Bool
  /-- the window of the present period has been placed -/
  refDone : Bool
  /-- uptime from which the next window is placed: the end of the last one, a step of the time, or the start of service -/
  refEnd : Nat
  /-- the time has been stepped while the open window ran (R187) -/
  refStep : Bool
  deriving DecidableEq, Repr

/-! ### Tiles -/

/-- A START that waits for its tile's class to be confirmed (R416). -/
structure WaitStart where
  /-- engine n, or 256 + pair m -/
  who : Nat
  /-- route of the command (Table 15-8) -/
  route : Nat
  /-- uptime of the command -/
  at_ : Nat
  deriving DecidableEq, Repr

/-- A tile: its heavy-unit meter, its domain and its time-base follower. -/
structure Tile where
  /-- counts of the last 16 meter steps, newest first (R154) -/
  window : List Nat
  debt : Nat
  /-- tile domain: 0 on, 1 retention, 2 off, 3 waking (Table 12-5) -/
  dom : Nat
  /-- the follower is locked (R174) -/
  lock : Bool
  /-- the follower counts as having lost lock -/
  lost : Bool
  /-- the follower is relocking after its domain left retention or off (R174) -/
  relock : Bool
  /-- tile temperature at the last calibration, 0.1 °C -/
  calTemp : Int
  /-- the present meter step is a release step, or the last one was a stall step (R154) -/
  relStep : Bool
  stall : Bool
  /-- STARTs that wait for the tile's class to be confirmed, oldest first -/
  waiting : List WaitStart
  /-- pace confirmed by the monitor -/
  paceOk : Bool
  deriving DecidableEq, Repr

/-! ### Sirkan time (chapter 09) -/

/-- The time root and the period generator. -/
structure TimeSt where
  valid : Bool
  locked : Bool
  holdover : Bool
  stepped : Bool
  /-- consecutive measurements within ±4 ns -/
  good : Nat
  /-- Sirkan time, free of steps (uptime), at which holdover began -/
  holdAt : Nat
  /-- rate adjustment in ppb -/
  rate : Int
  /-- offset measured and not yet used by the discipline (R171) -/
  meas : Option Int
  /-- Sirkan time of the last period mark, if one has occurred -/
  mark : Option Nat
  /-- uptime at which time.period.run was last written 1, or at the last mark: the next mark lies strictly after it (R21) -/
  runFrom : Nat
  /-- a period mark has occurred since the generator last started (R187) -/
  period : Bool
  /-- uptime of the last step of the time (R173) -/
  stepAt : Nat
  /-- part of a quarter-nanosecond of the resonator that has not been counted, in units of 1 / (10⁹ + rate) (R172) -/
  frac : Nat
  deriving DecidableEq, Repr

/-! ### Exchange router, outputs and captures -/

/-- A word on its way to a receive queue (R60). -/
structure XuWord where
  /-- sending engine, 256 = a transfer channel or the debug port -/
  src : Nat
  dst : Nat
  value : Word
  stamp : Option Nat
  /-- the transfer channel that wrote it, if one did -/
  chan : Option Nat
  deriving DecidableEq, Repr

/-- A write on its way to a ring output image or a timed pin (R23, R182). -/
structure OutWrite where
  /-- sending engine, 256 = another master -/
  src : Nat
  xto : Word
  value : Word
  stamp : Option Nat
  deriving DecidableEq, Repr

/-- A pending stamped write, applied at its stamp. -/
structure Stamped where
  at_ : Nat
  src : Nat
  xto : Word
  value : Word
  deriving DecidableEq, Repr

/-- The capture queue of a source: TIO0–TIO15 are 0–15, SYNC_IN is 16, the ring frames 17 and 18 (R185, R186). -/
structure CapQ where
  /-- queued records: time and edge (true = rising) and SEQ, oldest first, at most 32 -/
  recs : List (Nat × Bool × Nat)
  seq : Nat
  /-- newest capture, if any -/
  newest : Option Nat
  deriving DecidableEq, Repr

/-- The exchange routers, the writes in flight to images and pins, and the capture queues. -/
structure NetSt where
  flights : List XuWord
  /-- stamped words waiting at the routers, in arrival order (R182) -/
  waiting : List XuWord
  outs : List OutWrite
  /-- stamped writes waiting for ring output images, in arrival order -/
  images : List Stamped
  caps : Kv CapQ
  deriving DecidableEq, Repr

/-- A capture queue that has captured nothing. -/
def CapQ.empty : CapQ := ⟨[], 0, none⟩

/-! ### Transfer units (chapter 13) -/

/-- A transfer of one transaction's data: a read at `src`, then a write of what was read. -/
structure XfTxn where
  src : Nat
  /-- data read and swapped, once the read has been performed -/
  data : Option Nat
  /-- where the write goes, once it has been issued -/
  dst : Option Nat
  deriving DecidableEq, Repr

/-- One transfer channel. -/
structure XfCh where
  /-- STATE of Table 13-7 -/
  st : Nat
  done : Bool
  err : Nat
  /-- xf.src, xf.dst, xf.remaining -/
  src : Nat
  dst : Nat
  rem : Nat
  /-- start addresses, for entry addressing -/
  src0 : Nat
  dst0 : Nat
  /-- bytes of the claimed entry whose read has not been issued; 0 = none claimed -/
  claim : Nat
  /-- data whose read has been issued and whose write has not been performed, oldest first -/
  flight : List XfTxn
  /-- bytes whose read has been issued since START -/
  issued : Nat
  deriving DecidableEq, Repr

/-- A channel after power-on. -/
def XfCh.idle : XfCh := ⟨0, false, 0, 0, 0, 0, 0, 0, 0, [], 0⟩

/-- The device matrix and the transfer units. -/
structure XferSt where
  chans : Kv XfCh
  /-- xfu.disable of the four units -/
  disable : Kv Bool
  /-- round-robin pointer of each unit -/
  rr : Kv Nat
  /-- open locked sequences: target, engine, uptime of acceptance (R284) -/
  locks : List (Nat × Nat × Nat)
  /-- engines whose sequence was broken by a forced release -/
  broken : List Nat
  /-- a quiet window's lead has begun and the window has not closed (R293) -/
  quiet : Bool
  deriving DecidableEq, Repr

/-! ### Accession ledger and archive (chapter 14) -/

/-- State of an item: held is before acceptance (R304, R307). -/
inductive ItemSt where
  | held | accepted | dispatched | done | reported
  deriving DecidableEq, Repr

/-- One item of the ledger. -/
structure LItem where
  stream : Nat
  acc : Nat
  tag : Nat
  durable : Bool
  type : Nat
  payload : List Byte
  st : ItemSt
  /-- DRAM channels of its two mirror copies, none where a copy is not readable (R308) -/
  copyA : Option Nat
  copyB : Option Nat
  rstatus : Word
  rvalue : Word
  handed : Bool
  resumed : Bool
  /-- submission slot of a pair source, SEQ of a host submission -/
  slot : Nat
  /-- a report has been sent and not acknowledged: when it falls due again, a cycle number of a ring or an uptime -/
  sent : Option Nat
  /-- the acknowledgement goes to RESTORED -/
  restored : Bool
  deriving DecidableEq, Repr

/-- The ledger's own state of a stream. -/
structure LStream where
  /-- expected tag N, if set (R303, R306) -/
  n : Option Nat
  /-- next accession number (R305) -/
  next : Nat
  /-- tags and accession numbers of the last 1,024 reported items, newest first -/
  tags : List (Nat × Nat)
  /-- lost range: accession numbers, tags and submission slots of the items not yet restored or released (R312) -/
  lost : List (Nat × Nat × Nat)
  deriving DecidableEq, Repr

/-- A stream that has accepted nothing. -/
def LStream.fresh : LStream := ⟨none, 1, [], []⟩

/-- An access of the ledger that waits for its DRAM channel (R268, R272, R284). -/
inductive LWait where
  /-- bytes written at a physical address -/
  | write (pa : Nat) (bytes : List Byte)
  /-- a write of ledger.submit by pair `m` -/
  | submit (m v : Nat)
  /-- a write of ledger.done by pair `m` -/
  | done (m v : Nat)
  deriving DecidableEq, Repr

/-- The accession ledger. -/
structure LedgerSt where
  ready : Bool
  items : List LItem
  streams : Kv LStream
  /-- pending HANDOVERs: stream, new consumer, time named -/
  handovers : List (Nat × Nat × Nat)
  /-- its accesses that wait for their DRAM channel, oldest first -/
  waits : List LWait
  deriving DecidableEq, Repr

/-- A journal record (Table 14-8). Its MARK is the same in every record, and its LENGTH is that of its payload. -/
structure JRec where
  seq : Nat
  kind : Nat
  group : Bool
  key : Nat
  payload : List Byte
  /-- block it lies in -/
  block : Nat
  /-- PCRC and HCRC -/
  pcrc : Nat
  hcrc : Nat
  /-- uptime at which it was queued -/
  at_ : Nat
  deriving DecidableEq, Repr

/-- The header page of a journal block (R317): its first sequence number, its erase count and its CRC-32. -/
structure BlockHead where
  first : Nat
  erases : Nat
  crc : Nat
  deriving DecidableEq, Repr

/-- A retired block (R321): the block that took its place, and whether it is one of the firmware image slots. -/
structure RetiredBlock where
  block : Nat
  by_ : Option Nat
  fw : Bool
  deriving DecidableEq, Repr

/-- The archive die. -/
structure ArchSt where
  /-- programmed records, in SEQ order -/
  journal : List JRec
  /-- records waiting to be programmed, oldest first -/
  queue : List JRec
  /-- records in the page program under way -/
  prog : List JRec
  nextSeq : Nat
  /-- head block of the journal and record pages used in it -/
  head : Nat
  headUsed : Nat
  /-- headers of the blocks that hold records -/
  heads : Kv (Option BlockHead)
  /-- erased blocks -/
  free : List Nat
  /-- erase counts of blocks -/
  erases : Kv Nat
  /-- blocks being erased -/
  erasing : List Nat
  /-- blocks retired, and replacement blocks left -/
  retired : List RetiredBlock
  spares : List Nat
  /-- archive.state: 0 replaying, 1 ready, 2 low, 3 failed -/
  st : Nat
  /-- weeding: the block whose live records have been copied, goal, reclaimed -/
  victim : Option Nat
  weedGoal : Nat
  weedDone : Nat
  weeding : Bool
  deriving DecidableEq, Repr

/-! ### The catalogue (chapter 15) -/

/-- An open segmented write (R336). -/
structure SegWrite where
  call : Nat
  route : Nat
  data : List Byte
  /-- uptime of the last segment -/
  at_ : Nat
  deriving DecidableEq, Repr

/-- A folio-defined entry (Table 15-7). -/
structure FolioEnt where
  call : Nat
  type : Nat
  access : Nat
  journaled : Bool
  taskw : Bool
  size : Nat
  default_ : Nat
  min_ : Nat
  max_ : Nat
  /-- loaded folios that define it: pair number, or 128 + engine for a split engine -/
  owners : List Nat
  deriving DecidableEq, Repr

/-- An answer of the catalogue service. -/
structure Reply where
  /-- 0 = window, 1 = ring A, 2 = ring B, 3 = host, 4 = debug port -/
  route : Nat
  call : Nat
  /-- abort code, 0 = served -/
  code : Nat
  data : List Byte
  deriving DecidableEq, Repr

/-- The catalogue service. -/
structure CatSt where
  /-- short entries by call number, where an unlisted entry holds its default -/
  vals : Kv Nat
  /-- long entries by call number -/
  longs : Kv (List Byte)
  folio : List FolioEnt
  segs : List SegWrite
  /-- the last answer given -/
  reply : Option Reply
  /-- the catalogue serves requests (R426) -/
  ready : Bool
  deriving DecidableEq, Repr

/-- One event record (Table 15-11). -/
structure EventRec where
  time : Nat
  head : Nat
  detail : Nat
  deriving DecidableEq, Repr

/-- The event log: records by number, the count and the newest. -/
structure LogSt where
  recs : Kv EventRec
  count : Nat
  newest : Nat
  /-- promise bits that a lapse has cleared and nothing has restored (R40) -/
  lapsed : List Nat
  deriving DecidableEq, Repr

/-! ### The ring ports (chapter 16) -/

/-- An acyclic segment waiting to be delivered to a peer (R374). -/
structure AcySeg where
  /-- peer address, 0 = the master -/
  peer : Nat
  /-- the segment: header of Table 16-9, then payload -/
  bytes : List Byte
  xid : Nat
  /-- times it has been sent -/
  sends : Nat
  /-- one above the cycle in which it was last sent, 0 = due to be sent -/
  sentAt : Nat
  /-- 0 = staged by a folio (R378), 1 = answer to a catalogue request (R376), 2 = from the ledger (R377) -/
  origin : Nat
  deriving DecidableEq, Repr

/-- A cyclic frame a master has launched and not decided (R369, R380). -/
structure Launch where
  cycle : Nat
  /-- bytes of the frame -/
  len : Nat
  /-- Sirkan time of the launch, and of the expected return E -/
  at_ : Nat
  due : Nat
  /-- expected working counters, 65536 = untested -/
  wkc : List Nat
  deriving DecidableEq, Repr

/-- The time a node takes from the TIME telegram (R362). -/
structure NodeTime where
  tstart : Nat
  clen : Nat
  tmark : Nat
  m : Nat
  deriving DecidableEq, Repr

/-- One ring. -/
structure RingSt where
  imgIn : Kv Byte
  imgOut : Kv Byte
  /-- the frozen copy of the output image, while one is frozen (R23) -/
  frozen : Option (List Byte)
  /-- the last frame sent, as bytes -/
  lastFrame : List Byte
  /-- the last frame forwarded or relayed -/
  fwd : List Byte
  cycle : Nat
  /-- cyclic frames launched and not yet decided, oldest first: E may lie beyond the next launch -/
  launched : List Launch
  /-- ring.state: 0 OFF, 1 SCAN, 2 RUN, 3 LOOP, 4 FAIL -/
  st : Nat
  /-- state before a scan, and the loop flag under FAIL -/
  looped : Bool
  /-- a scan is running, and the PROBE frame has been sent -/
  scan : Bool
  probeOut : Bool
  /-- consecutive failed cycles -/
  fails : Nat
  /-- consecutive cyclic frames returned with HEALED -/
  healed : Nat
  /-- CLOSE goes into the next cyclic frame -/
  closing : Bool
  /-- a cyclic frame with CLOSE has been launched, or seen by a node -/
  closeSent : Bool
  /-- the last scan found a mismatch -/
  scanBad : Bool
  /-- path delays of the present topology have been measured (R37) -/
  measured : Bool
  time : Option NodeTime
  /-- node: arrival time of the last cyclic frame of this cycle -/
  arrived : Option Nat
  /-- acyclic receive queue, oldest first: entries of 256 bytes -/
  rx : List (List Byte)
  /-- transmit staging area -/
  stage : Kv Byte
  /-- segments waiting to be delivered, oldest first -/
  txq : List AcySeg
  /-- next XID to each peer -/
  xidOut : Kv Nat
  /-- last XID taken from each peer, plus 1 -/
  xidIn : Kv Nat
  /-- node last addressed by an acyclic frame -/
  poll : Nat
  /-- segments a folio has staged whose responses go to the receive queue: peer and call number -/
  staged : List (Nat × Nat)
  /-- the stop values are held (R387) -/
  stopped : Bool
  deriving DecidableEq, Repr

/-- A ring that is off.
[DESIGN CHOICE, log row 9] -/
def RingSt.off : RingSt :=
  { imgIn := [], imgOut := [], frozen := none, lastFrame := [], fwd := [], cycle := 0, launched := [], st := 0, looped := false,
    scan := false, probeOut := false, fails := 0, healed := 0, closing := false, closeSent := false, scanBad := false, measured := false, time := none,
    arrived := none, rx := [], stage := [], txq := [], xidOut := [], xidIn := [], poll := 0, staged := [], stopped := false }

/-- One ring port: its link and its 802.1AS exchange. -/
structure PortSt where
  /-- Sirkan-free uptime at which the link came up -/
  upAt : Nat
  /-- the port loops the ring back (R383) -/
  loop : Bool
  /-- sequence numbers of Sync and Pdelay messages sent -/
  syncSeq : Nat
  pdSeq : Nat
  /-- timestamp of the Pdelay request sent, and of the response received -/
  pdT1 : Option Nat
  pdT4 : Option Nat
  /-- turnaround t3 − t2 known from the response -/
  pdT2 : Option Nat
  /-- receive timestamp and sequence number of the last Sync -/
  syncRx : Option (Nat × Nat)
  /-- the 802.1AS messages sent last, in order, and those that wait for the PTP window: type and sequence number (R364) -/
  sent : List (Nat × Nat)
  owed : List (Nat × Nat)
  /-- master's identity announced by the peer -/
  announced : Bool
  deriving DecidableEq, Repr

/-- A port whose link is down.
[DESIGN CHOICE, log row 9] -/
def PortSt.down : PortSt :=
  { upAt := 0, loop := false, syncSeq := 0, pdSeq := 0, pdT1 := none, pdT4 := none, pdT2 := none, syncRx := none, sent := [], owed := [],
    announced := false }

/-! ### Host port, pins and debug access (chapter 17) -/

/-- A frame in the outbound queue of the host port (Table 17-2), or a request waiting to be served. -/
structure HFrame where
  kind : Nat
  seq : Nat
  last : Bool
  status : Nat
  arg : Nat
  offset : Nat
  payload : List Byte
  deriving DecidableEq, Repr

/-- The host port. -/
structure HostSt where
  /-- outbound queue, oldest first, at most 32 -/
  queue : List HFrame
  /-- requests taken and not yet served, oldest first -/
  reqs : List HFrame
  /-- maximum write length in force -/
  mwl : Nat
  /-- a frame error since the last GETSTATUS -/
  ferr : Bool
  /-- MDB of the IBI requested and not completed -/
  ibi : Option Nat
  /-- bytes returned by the last private read or CCC -/
  out : List Byte
  deriving DecidableEq, Repr

/-- One timed pin (R399, R400). -/
structure PinSt where
  /-- level driven, none = released -/
  drive : Option Bool
  /-- level last driven, low when none has been -/
  lastDriven : Bool
  /-- uptime of the last edge that gave a record -/
  lastEdge : Option Nat
  /-- pending stamped writes, in arrival order, at most 16 -/
  pend : List Stamped
  deriving DecidableEq, Repr

/-- A pin after power-on. -/
def PinSt.idle : PinSt := ⟨none, false, none, []⟩

/-- The timed pins, the dedicated pins and SYNC_OUT. -/
structure PinsSt where
  tio : Kv PinSt
  /-- level of STOP_N after its filter -/
  stopN : Bool
  /-- uptime of the last SYNC_IN edge that gave a record -/
  syncEdge : Option Nat
  /-- uptime at which the present SYNC_OUT pulse ends -/
  syncEnd : Nat
  /-- a safe stop holds (R387) -/
  stop : Bool
  deriving DecidableEq, Repr

/-- The TAP and the debug port (R401, R402). -/
structure TapSt where
  ir : Nat
  /-- the device is held as under RESET_N -/
  held : Bool
  /-- boundary-scan register as preloaded or sampled -/
  bsr : List Bool
  /-- outcome of the last DBG_ACC access: STATUS and DATA -/
  status : Nat
  data : Nat
  /-- a physical access that waits for its target: write, address and data -/
  want : Option (Bool × Nat × Nat)
  /-- value captured by a read at offset 0 -/
  captured : List Byte
  /-- uptime of the last DBG_ACC access -/
  lastAcc : Nat
  /-- value shifted out of the selected data register -/
  dr : Nat
  deriving DecidableEq, Repr

/-! ### Supply, domains and start-up (chapters 18 and 19) -/

/-- An outstanding request on the power request link (R409). -/
structure LinkReq where
  rail : Nat
  op : Nat
  seq : Nat
  value : Nat
  /-- consecutive link errors of this request -/
  errors : Nat
  deriving DecidableEq, Repr

/-- The supply die, the link and the rail controllers. -/
structure PowerSt where
  /-- requests outstanding, oldest first -/
  reqs : List LinkReq
  seq : Nat
  /-- consecutive link errors, and the link counts as lost -/
  errRun : Nat
  linkLost : Bool
  /-- target of the last SET and last acknowledged voltage of each VCORE rail, 650 unless listed -/
  target : Kv Nat
  acked : Kv Nat
  /-- tile t: consecutive evaluations that found r ≥ 103 × p while a confirmation is asked (R415) -/
  confirm : Kv Nat
  /-- confirmations the loader asks for: tile, previous class, uptime of the request -/
  asks : List (Nat × Nat × Nat)
  /-- last data read over the link: rail, OP, data -/
  read : Option (Nat × Nat × Nat)
  /-- phases that have failed -/
  failed : List Nat
  /-- ratings broken: 0 VIN, 1 input power, 2 + t junction of tile t (R422) -/
  broken : List Nat
  /-- tiles that cannot hold their pace at 0.950 V (R414) -/
  slow : List Nat
  /-- state of device domain d: 0 on, 1 retention, 2 off, 3 waking -/
  dom : Kv Nat
  /-- entry of a domain into retention (R419): 0 none, 1 quiesce, 2 save; device domain d is d, bank b is 16 + b, tile t 512 + t -/
  entry : Kv Nat
  /-- domains that leave off and are being filled (R253, R417), numbered as `entry` -/
  filling : List Nat
  /-- an off command or a wake latched during an entry -/
  offNext : List Nat
  wakeNext : List Nat
  /-- retention asked for while the domain wakes (Table 18-7) -/
  retNext : List Nat
  deriving DecidableEq, Repr

/-- Start-up, resets, life cycle and tamper. -/
structure BootSt where
  /-- VIN is valid -/
  vin : Bool
  /-- boot.stage -/
  stage : Nat
  /-- uptime at VIN valid or at the release of a device reset -/
  startAt : Nat
  /-- steps completed: rails, fuses, injection, shelves, firmware, replay (bits 0 to 5) -/
  steps : Nat
  /-- a device reset holds the device -/
  held : Bool
  /-- fused life-cycle state: 0 BLANK, 1 PROVISIONED, 4 RETIRED -/
  fuseLc : Nat
  /-- a transition that waits for its commit: old state, new state -/
  lcPending : Option (Nat × Nat)
  /-- fused key hashes by slot -/
  keyHash : Kv (List Byte)
  rollback : Nat
  /-- fused-out engines and pairs -/
  fusedEng : List Nat
  /-- repair list on the archive die's parameter page: bank, column; and whether its CRC fails -/
  repairList : List (Nat × Nat)
  repairBad : Bool
  /-- firmware slots 0 and 1: image bytes -/
  slot0 : List Byte
  slot1 : List Byte
  /-- bytes of a host image received in HOST mode, and whether its last frame has come -/
  hostImg : List Byte
  hostEnd : Bool
  /-- running image: version -/
  running : Bool
  /-- device.serial (R346): fixed in the module -/
  serial : List Byte
  /-- lc.nonce (R437) -/
  nonce : List Byte
  /-- nonces drawn so far -/
  nonces : Nat
  /-- a tamper with tamper.action 1 holds every START (R441) -/
  tamperStop : Bool
  /-- a fault of a part that is not single has stopped the device (R33) -/
  stopped : Bool
  deriving DecidableEq, Repr
/-! ### Service jobs, stages and folios (chapter 20) -/

/-- The fields of svc.cmd (Table 20-1). -/
structure SvcCmd where
  cmd : Nat
  job : Nat
  source : Nat
  subject : Nat
  half : Nat
  folio : Nat
  base : Nat
  bias : Nat
  at_ : Nat
  deriving DecidableEq, Repr

/-- A command with every field 0. -/
def SvcCmd.zero : SvcCmd := ⟨0, 0, 0, 0, 0, 0, 0, 0, 0⟩

/-- One job slot (R446, Table 20-11). -/
structure Job where
  /-- 0 FREE, 1 QUEUED, 2 RUNNING, 3 ARMED, 4 DONE, 5 FAILED, 6 CANCELLED -/
  st : Nat
  /-- job.code (Table 20-3) -/
  code : Nat
  progress : Nat
  position : Nat
  subject : Nat
  cmd : SvcCmd
  /-- ARMED: the time at or after which its mark lies; the cut-over's plan as it was armed -/
  at_ : Nat
  plan : List Byte
  /-- the arming check has been made (R454) -/
  checked : Bool
  /-- state of the tested pair before SELFTEST: 0 IDLE, 1 OUT, 2 it ran and its work migrated -/
  prior : Nat
  /-- SELFTEST: what the test finds, a failing step of Table 11-6 or 0x10 for the test folio -/
  bad : Option Nat
  deriving DecidableEq, Repr

/-- A free slot. -/
def Job.free : Job := ⟨0, 0, 0, 0, 0xFFFF, SvcCmd.zero, 0, [], false, 0, none⟩

/-- A data section as placed: its number, whether it lies in DRAM, its first address and its size. -/
structure SectPlace where
  num : Nat
  dram : Bool
  /-- tile-relative byte offset, or device DRAM byte offset -/
  addr : Nat
  size : Nat
  deriving DecidableEq, Repr

/-- A loaded folio: what its declaration and its placement say (R159, R449). -/
structure Folio where
  /-- where it is loaded: pair number m, or 128 + n for engine n of a split pair -/
  owner : Nat
  /-- the owner it was loaded on: the home placement (R167) -/
  home : Nat
  id : Nat
  base : Nat
  plen : Nat
  pace : Nat
  hshare : Nat
  /-- quiet windows: opening and length, in ns after the mark (R160) -/
  quiet : List (Nat × Nat)
  /-- segments: RELEASE, DEADLINE, STEPS, WAITNS (Table 08-6) -/
  segs : List (Nat × Nat × Nat × Nat)
  sects : List SectPlace
  deriving DecidableEq, Repr

/-- The firmware update under way (R461). -/
structure FwUpd where
  /-- target slot -/
  slot : Nat
  /-- bytes received so far, the first 256 held back -/
  data : List Byte
  deriving DecidableEq, Repr

/-- The service in operation. -/
structure SvcSt where
  jobs : Kv Job
  /-- loader jobs waiting, oldest first -/
  queue : List Nat
  /-- the loader job that waits for a pace confirmation (R415) -/
  waiting : Option Nat
  /-- stages 0 to 7, and the boot image 0xFF, by number, where an unlisted one is empty -/
  stages : Kv (List Byte)
  /-- loaded folios -/
  folios : List Folio
  /-- stored folios by FOLIOID -/
  stored : Kv (List Byte)
  fw : Option FwUpd
  /-- automatic loads that wait for the mark: pairs, and whether ALIGN is asked for (R451) -/
  auto : List (Nat × Bool)
  /-- outgoing pairs of a cut-over that are unloaded once HALTED (R454) -/
  unloads : List Nat
  /-- pairs that went out, and came in, at cut-overs (R455) -/
  cutOut : List Nat
  cutIn : List Nat
  deriving DecidableEq, Repr

/-- No job, no stage, no folio. -/
def SvcSt.none : SvcSt :=
  { jobs := [], queue := [], waiting := .none, stages := [], folios := [], stored := [], fw := .none, auto := [], unloads := []
    cutOut := [], cutIn := [] }

/-! ### The whole block -/

/-- The state of the EN256: its parts, and the queue of the commands that wait, first in, first out. -/
structure State where
  /-- commands waiting, front first -/
  pending : List Sys2Proof.Instr
  /-- Sirkan time in quarter-nanoseconds (R169) -/
  now : Nat
  /-- quarter-nanoseconds since power-on, counted on the resonator -/
  up : Nat
  cat : CatSt
  log : LogSt
  /-- engine n, where an unlisted one is `Engine.fresh` -/
  eng : Kv Engine
  /-- pair m, where an unlisted one is `Pair.fresh` -/
  pair : Kv Pair
  /-- tile t, where an unlisted one is `Tile.on` -/
  tile : Kv Tile
  time : TimeSt
  mem : MemSt
  net : NetSt
  xfer : XferSt
  ledger : LedgerSt
  arch : ArchSt
  /-- ring 0 = A, 1 = B, where an unlisted one is `RingSt.off` -/
  ring : Kv RingSt
  /-- port 0 = A-in, 1 = A-out, 2 = B-in, 3 = B-out, where an unlisted one is `PortSt.down` -/
  port : Kv PortSt
  host : HostSt
  pins : PinsSt
  tap : TapSt
  power : PowerSt
  boot : BootSt
  svc : SvcSt
  /-- the model's own counter: how many values of the outside have been drawn (`Config`) -/
  drawn : Nat
  deriving DecidableEq, Repr

/-- The faults of a step. The specification gives every command of the block an outcome of its own (an abort code, an error
response, an event), so no meaning ends in one: the type has no value. -/
inductive Fault where
  deriving DecidableEq, Repr

/-- The refusals of a step. -/
inductive Refusal where
  /-- Raised by the arm of a command that has no meaning yet; safe: the model stops where the hardware goes on. -/
  | notModelled (mnemonic : String)
  deriving DecidableEq, Repr

/-- A tile whose domain is on and whose follower has not locked yet (R174).
[DESIGN CHOICE, log row 9] -/
def Tile.on : Tile :=
  { window := [], debt := 0, dom := 0, lock := false, lost := false, relock := false, calTemp := 0, relStep := false, stall := false,
    waiting := [], paceOk := false }

/-- The catalogue service before it is ready. -/
def CatSt.reset : CatSt := { vals := [], longs := [], folio := [], segs := [], reply := none, ready := false }

/-- No event logged (Table 15-11). -/
def LogSt.reset : LogSt := { recs := [], count := 0, newest := 0xFF, lapsed := [] }

/-- Sirkan time after a power-on (R171, R173). -/
def TimeSt.reset : TimeSt :=
  { valid := false, locked := false, holdover := false, stepped := false, good := 0, holdAt := 0, rate := 0, meas := none, mark := none, runFrom := 0,
    period := false, stepAt := 0, frac := 0 }

/-- Shelves and DRAM before anything is written.
[DESIGN CHOICE, log row 8] -/
def MemSt.reset : MemSt :=
  { bytes := [], bad := [], one := [], wback := [], rr := [], bank := [], hits := [], cols := [], fills := [], swept := [],
    sweepAt := 0, sweepLen := 10000, wipe := none, chErr := [], refLeft := 0, refOpen := false, refDone := false, refEnd := 0, refStep := false }

/-- Nothing in flight. -/
def NetSt.reset : NetSt := { flights := [], waiting := [], outs := [], images := [], caps := [] }

/-- Every channel idle. -/
def XferSt.reset : XferSt := { chans := [], disable := [], rr := [], locks := [], broken := [], quiet := false }

/-- An empty ledger. -/
def LedgerSt.reset : LedgerSt := { ready := false, items := [], streams := [], handovers := [], waits := [] }

/-- An archive die from the factory: nothing programmed, block 0 the head, 3,071 journal blocks free and 512 replacement
blocks (Table 14-7).
[DESIGN CHOICE, log row 8] -/
def ArchSt.reset : ArchSt :=
  { journal := [], queue := [], prog := [], nextSeq := 1, head := 0, headUsed := 0, heads := [],
    free := (List.range 3071).map (fun k => k + 1), erases := [], erasing := [], retired := [],
    spares := (List.range 512).map (fun k => 3584 + k), st := 0, victim := none, weedGoal := 0, weedDone := 0, weeding := false }

/-- The host port after power-on (Table 17-6). -/
def HostSt.reset : HostSt := { queue := [], reqs := [], mwl := 280, ferr := false, ibi := none, out := [] }

/-- Every pin released. -/
def PinsSt.reset : PinsSt :=
  { tio := [], stopN := true, syncEdge := none, syncEnd := 0, stop := false }

/-- The TAP in Test-Logic-Reset. -/
def TapSt.reset : TapSt := { ir := 1, held := false, bsr := [], status := 0, data := 0, want := none, captured := [], lastAcc := 0, dr := 0 }

/-- The supply before its rails have risen. -/
def PowerSt.reset : PowerSt :=
  { reqs := [], seq := 0, errRun := 0, linkLost := false, target := [], acked := [], confirm := [], asks := [], read := none,
    failed := [], broken := [], slow := [], dom := [], entry := [], filling := [], offNext := [], wakeNext := [], retNext := [] }

/-- Start-up before VIN is valid, on a BLANK device.
[DESIGN CHOICE, log row 8] -/
def BootSt.reset : BootSt :=
  { vin := false, stage := 1, startAt := 0, steps := 0, held := false, fuseLc := 0, lcPending := none, keyHash := [], rollback := 0,
    fusedEng := [], repairList := [], repairBad := false, slot0 := [], slot1 := [], hostImg := [], hostEnd := false, running := false,
    serial := Config.serial, nonce := Config.nonce 0, nonces := 1, tamperStop := false, stopped := false }

/-- The device as a power-on reset leaves it, before VIN has been valid for 100 µs: boot.stage 0x01 (R424, Table 19-2).
[DESIGN CHOICE, log row 4; DESIGN CHOICE, log row 8; DESIGN CHOICE, log row 9] -/
def State.reset : State :=
  { pending := [], now := 0, up := 0, cat := CatSt.reset, log := LogSt.reset, eng := [], pair := [], tile := [],
    time := TimeSt.reset, mem := MemSt.reset, net := NetSt.reset, xfer := XferSt.reset, ledger := LedgerSt.reset,
    arch := ArchSt.reset, ring := [], port := [], host := HostSt.reset, pins := PinsSt.reset, tap := TapSt.reset,
    power := PowerSt.reset, boot := BootSt.reset, svc := SvcSt.none, drawn := 0 }

end Sys2Proof.Machine
end

