-- ==== Sys2Proof/Machine/Ops.lean ====
section
/-! DEFINITION. Machine/Ops.lean: the named operations every meaning is built from: parts of the state by number, entry values,
promise bits, the event log, host notifications, journal records and small arithmetic. -/

namespace Sys2Proof.Machine

/-! ### Parts of the state by number -/

/-- Engine n. -/
def getEng (s : State) (n : Nat) : Engine := kvGet Engine.fresh s.eng n
/-- Engine n replaced. -/
def setEng (n : Nat) (e : Engine) (s : State) : State := { s with eng := kvSet Engine.fresh s.eng n e }
/-- Engine n changed. -/
def modEng (n : Nat) (f : Engine → Engine) (s : State) : State := setEng n (f (getEng s n)) s
/-- Pair m. -/
def getPair (s : State) (m : Nat) : Pair := kvGet Pair.fresh s.pair m
/-- Pair m replaced. -/
def setPair (m : Nat) (p : Pair) (s : State) : State := { s with pair := kvSet Pair.fresh s.pair m p }
/-- Pair m changed. -/
def modPair (m : Nat) (f : Pair → Pair) (s : State) : State := setPair m (f (getPair s m)) s
/-- Tile t. -/
def getTile (s : State) (t : Nat) : Tile := kvGet Tile.on s.tile t
/-- Tile t replaced. -/
def setTile (t : Nat) (x : Tile) (s : State) : State := { s with tile := kvSet Tile.on s.tile t x }
/-- Tile t changed. -/
def modTile (t : Nat) (f : Tile → Tile) (s : State) : State := setTile t (f (getTile s t)) s
/-- Ring r. -/
def getRing (s : State) (r : Nat) : RingSt := kvGet RingSt.off s.ring r
/-- Ring r replaced. -/
def setRing (r : Nat) (x : RingSt) (s : State) : State := { s with ring := kvSet RingSt.off s.ring r x }
/-- Ring r changed. -/
def modRing (r : Nat) (f : RingSt → RingSt) (s : State) : State := setRing r (f (getRing s r)) s
/-- Ring port q. -/
def getPort (s : State) (q : Nat) : PortSt := kvGet PortSt.down s.port q
/-- Ring port q replaced. -/
def setPort (q : Nat) (x : PortSt) (s : State) : State := { s with port := kvSet PortSt.down s.port q x }
/-- Ring port q changed. -/
def modPort (q : Nat) (f : PortSt → PortSt) (s : State) : State := setPort q (f (getPort s q)) s
/-- Transfer channel c. -/
def getChan (s : State) (c : Nat) : XfCh := kvGet XfCh.idle s.xfer.chans c
/-- Transfer channel c replaced. -/
def setChan (c : Nat) (x : XfCh) (s : State) : State := { s with xfer := { s.xfer with chans := kvSet XfCh.idle s.xfer.chans c x } }
/-- Timed pin p. -/
def getPin (s : State) (p : Nat) : PinSt := kvGet PinSt.idle s.pins.tio p
/-- Timed pin p replaced. -/
def setPin (p : Nat) (x : PinSt) (s : State) : State := { s with pins := { s.pins with tio := kvSet PinSt.idle s.pins.tio p x } }
/-- Capture queue q. -/
def getCap (s : State) (q : Nat) : CapQ := kvGet CapQ.empty s.net.caps q
/-- Capture queue q replaced. -/
def setCap (q : Nat) (x : CapQ) (s : State) : State := { s with net := { s.net with caps := kvSet CapQ.empty s.net.caps q x } }
/-- Job slot j. -/
def getJob (s : State) (j : Nat) : Job := kvGet Job.free s.svc.jobs j
/-- Job slot j replaced. -/
def setJob (j : Nat) (x : Job) (s : State) : State := { s with svc := { s.svc with jobs := kvSet Job.free s.svc.jobs j x } }

/-- Tile of an engine, pair of an engine, pairs of a tile, tile group of a pair (R6, R7). -/
def tileOf (n : Nat) : Nat := n / 8
/-- The pair of an engine: even engines are main copies (R6). -/
def pairOf (n : Nat) : Nat := n / 2
/-- The tile of a pair. -/
def pairTile (m : Nat) : Nat := m / 4
/-- The tile group of a pair (R7). -/
def pairGroup (m : Nat) : Nat := m / 16
/-- The main copy's engine number. -/
def mainOf (m : Nat) : Nat := 2 * m
/-- The checker's engine number. -/
def checkerOf (m : Nat) : Nat := 2 * m + 1

/-! ### Entry values -/

/-- Call numbers of the numbered units (Table 15-4). -/
def cEng (n sub : Nat) : Nat := callNo (0x2100 + n) sub
/-- Tile t. -/
def cTile (t sub : Nat) : Nat := callNo (0x2000 + t) sub
/-- Pair m. -/
def cPair (m sub : Nat) : Nat := callNo (0x2200 + m) sub
/-- Ring r. -/
def cRing (r sub : Nat) : Nat := callNo (0x1601 + 0x100 * r) sub
/-- Ring port q. -/
def cPort (q sub : Nat) : Nat := callNo (0x1600 + 0x80 * q) sub
/-- Telegram descriptor i of ring r. -/
def cTel (r i sub : Nat) : Nat := callNo (0x1640 + 0x100 * r + i) sub
/-- Timed pin p. -/
def cTio (p sub : Nat) : Nat := callNo (0x1520 + p) sub
/-- Transfer channel c. -/
def cXf (c sub : Nat) : Nat := callNo (0x1800 + c) sub
/-- Rail k. -/
def cVcore (k sub : Nat) : Nat := callNo (0x1210 + k) sub

/-- The descriptor of an entry, device-defined or folio-defined (R332, R342). -/
def descOf (s : State) (call : Nat) : Option Desc :=
  match deviceDesc call with
  | some d => some d
  | none =>
    match s.cat.folio.find? fun e => e.call == call with
    | some e => some ⟨e.type, e.access, e.journaled, e.size, e.default_, typedValue e.type e.size e.min_, typedValue e.type e.size e.max_, ""⟩
    | none =>
      if call % 256 = 0 ∧ (s.cat.folio.any fun e => e.call / 256 == call / 256) then
        some ⟨6, 4, false, 1, (s.cat.folio.filter fun e => e.call / 256 == call / 256).foldl (fun a e => max a (e.call % 256)) 0, 0, 255, ""⟩
      else none

/-- The default of an entry (R330). -/
def entryDefault (s : State) (call : Nat) : Nat :=
  match descOf s call with
  | some d => unitDefault call d.dflt
  | none => 0

/-- The stored value of a short entry. A number in the table stands one above the value it holds, so that 0 means the default. -/
def valGet (s : State) (call : Nat) : Nat :=
  match kvGet 0 s.cat.vals call with
  | 0 => entryDefault s call
  | v + 1 => v

/-- A short entry takes a value. -/
def valPut (call v : Nat) (s : State) : State := { s with cat := { s.cat with vals := kvSet 0 s.cat.vals call (v + 1) } }

/-- A counter entry of `w` bits grows by `n` and wraps. -/
def bump (call n w : Nat) (s : State) : State := valPut call ((valGet s call + n) % 2 ^ w) s

/-- The value of a long entry: a DOMAIN always holds exactly SIZE bytes (Table 15-3). -/
def longGet (s : State) (call : Nat) : List Byte :=
  match kvGet [] s.cat.longs call with
  | [] =>
    match descOf s call with
    | some d => if d.type = 15 then List.replicate d.size 0 else []
    | none => []
  | l => l

/-- A long entry takes a value. -/
def longPut (call : Nat) (v : List Byte) (s : State) : State :=
  { s with cat := { s.cat with longs := kvSet [] s.cat.longs call v } }

/-- The bytes of a text. -/
def textBytes (t : String) : List Byte := t.toList.map fun c => BitVec.ofNat 8 c.toNat

/-! ### Host notifications (R395) -/

/-- MDB of a queued NOTIFY, 0 for another frame. -/
def notifyMdb (f : HFrame) : Nat := if f.kind = 0x90 then (f.payload.headD 0).toNat else 0

/-- MDB under which a frame is announced (Table 17-4): a REPORT, a NOTIFY, or any other frame. -/
def frameMdb (f : HFrame) : Nat := if f.kind = 0x12 then 0xA1 else if f.kind = 0x90 then notifyMdb f else 0xA0

/-- A frame joins the outbound queue (R395). A full queue takes no further frame. The first frame of an empty queue is announced by an
IBI where host.ibi.enable is 1; those behind it are not.
[DESIGN CHOICE, log row 39] -/
def hostPush (f : HFrame) (s : State) : State :=
  if 32 ≤ s.host.queue.length then s
  else
    let ask := s.host.queue.isEmpty && valGet s (callNo 0x1500 4) == 1
    { s with host := { s.host with queue := s.host.queue ++ [f], ibi := if ask then some (frameMdb f) else s.host.ibi } }

/-- The newest NOTIFY with a given MDB replaced, if there is one; the oldest frame stands last in the argument.
[DEDUCED, log row 34] -/
def replaceNotify (mdb : Nat) (p : List Byte) : List HFrame → Option (List HFrame)
  | [] => none
  | f :: t => if notifyMdb f = mdb then some ({ f with payload := p } :: t) else (replaceNotify mdb p t).map (List.cons f)

/-- A NOTIFY replaces the newest queued NOTIFY with the same MDB, or joins the queue (R395, Table 17-3).
[DEDUCED, log row 34] -/
def hostNotify (mdb data : Nat) (s : State) : State :=
  let p := BitVec.ofNat 8 mdb :: leBytes 8 data
  match replaceNotify mdb p s.host.queue.reverse with
  | some q => { s with host := { s.host with queue := q.reverse } }
  | none => hostPush { kind := 0x90, seq := 0, last := false, status := 0, arg := 0, offset := 0, payload := p } s

/-! ### Event log and promise bits -/

/-- An event joins the log (R349): the record after event.newest, then the counters; host.event.notify may select a NOTIFY
(Table 17-4). -/
def logEvent (code : Nat) (lapse : Bool) (subject detail more : Nat) (s : State) : State :=
  let r := (s.log.newest + 1) % 64
  let head := code + (if lapse then 256 else 0) + (subject % 65536) * 65536 + (detail % 4294967296) * 4294967296
  let s1 := { s with log := { s.log with recs := kvSet ⟨0, 0, 0⟩ s.log.recs r ⟨s.now, head, more % 2 ^ 64⟩,
                                         count := (s.log.count + 1) % 2 ^ 32, newest := r } }
  if (valGet s1 (callNo 0x1500 0x0B)).testBit ((code - 0x20) / 16) ∧ 0x20 ≤ code then hostNotify 0xA3 head s1 else s1

/-- Call number of device.promise.state, which stores bits [6:0]. -/
def cPromise : Nat := callNo 0x1010 1

/-- Pairs reserved as spares and idle (Table 02-4, SPARES). -/
def sparesFree (s : State) : Nat :=
  if s.cat.ready = false then 0
  else ((List.range 128).filter fun m => valGet s (cPair m 8) == 1 && (getPair s m).st == .idle).length

/-- device.promise.state as read (Table 02-4). -/
def promiseWord (s : State) : Nat := valGet s cPromise % 128 + 256 * sparesFree s

/-- A promise bit: 0 WORK, 1 DURABLE, 2 MASK, 3 ALIGN_DEV, 4 ALIGN_RING_A, 5 ALIGN_RING_B, 6 PACE. -/
def promiseBit (s : State) (i : Nat) : Bool := (valGet s cPromise).testBit i

/-- A promise bit takes a value; a change selected by device.promise.notify raises a NOTIFY (R41). -/
def putPromise (i : Nat) (b : Bool) (s : State) : State :=
  let w := valGet s cPromise
  if w.testBit i = b then s
  else
    let s1 := valPut cPromise (if b then w + 2 ^ i else w - 2 ^ i) s
    if (valGet s (callNo 0x1010 3)).testBit i then hostNotify 0xA2 (promiseWord s1) s1 else s1

/-- A lapse (R40): the bit clears and the lapse counts if the bit was set, and the event is logged with its lapse flag.
[DEDUCED, log row 34; DEDUCED, log row 50] -/
def lapse (i code subject detail more : Nat) (s : State) : State :=
  let s1 := if promiseBit s i then
      let s0 := bump (callNo 0x1010 2) 1 32 (putPromise i false s)
      { s0 with log := { s0.log with lapsed := (i :: s0.log.lapsed.erase i) } }
    else s
  logEvent code true subject detail more s1

/-- The condition of a bit holds again (R40): a bit that a lapse cleared is set with its event; a bit that start-up first
establishes is set without one. After the fault of a part that is not single no promise is made again (R33).
[DEDUCED, log row 34; DEDUCED, log row 50] -/
def restorePromise (i code subject detail more : Nat) (s : State) : State :=
  if promiseBit s i ∨ s.boot.stopped = true then s
  else
    let s1 := putPromise i true s
    if s.log.lapsed.contains i then
      logEvent code false subject detail more { s1 with log := { s1.log with lapsed := s1.log.lapsed.erase i } }
    else s1

/-! ### Journal records (R318, R319) -/

/-- Journaled writes are refused while the archive is low or failed (R325, R330). -/
def archiveLow (s : State) : Bool := s.arch.st == 2 || s.arch.st == 3

/-- Bits [223:0] of a record header, in byte order (Table 14-8). -/
def recHead (kind : Nat) (group : Bool) (len seq key pcrc : Nat) : List Byte :=
  leBytes 2 0xA55A ++ leBytes 1 kind ++ leBytes 1 (if group then 1 else 0) ++ leBytes 4 len ++ leBytes 8 seq ++ leBytes 8 key ++ leBytes 4 pcrc

/-- A record with its check codes (R318), queued at uptime `at_`. -/
def mkRec (kind : Nat) (group : Bool) (key seq : Nat) (payload : List Byte) (at_ : Nat) : JRec :=
  let p := crc32 payload
  { seq := seq, kind := kind, group := group, key := key, payload := payload, block := 0, pcrc := p
    hcrc := crc32 (recHead kind group payload.length seq key p), at_ := at_ }

/-- A record is queued for the next page program and takes the next sequence number. -/
def journal (kind : Nat) (group : Bool) (key : Nat) (payload : List Byte) (s : State) : State :=
  { s with arch := { s.arch with
      queue := s.arch.queue ++ [mkRec kind group key s.arch.nextSeq payload s.up]
      nextSeq := s.arch.nextSeq + 1 } }

/-- A value longer than one record goes out as members of a group that a COMMIT closes (R320). -/
def journalChunks (kind key : Nat) : Nat → Nat → List Byte → State → State
  | 0, _, _, s => s
  | n + 1, off, bs, s =>
    if bs.isEmpty then s else journalChunks kind key n (off + 4064) (bs.drop 4064) (journal kind true (key + off * 2 ^ 32) (bs.take 4064) s)

/-- A group of records, closed by its COMMIT (R320). -/
def journalGroup (kind key : Nat) (bs : List Byte) (s : State) : State :=
  let first := s.arch.nextSeq
  journal 0x09 false first [] (journalChunks kind key (bs.length / 4064 + 1) 0 bs s)

/-- The ENTRY record of a value: type, size, then its bytes (R344).
[DESIGN CHOICE, log row 32] -/
def journalEntry (call : Nat) (bs : List Byte) (s : State) : State :=
  let d := (descOf s call).getD ⟨0, 0, false, 0, 0, 0, 0, ""⟩
  let p := BitVec.ofNat 8 d.type :: (leBytes 2 d.size ++ bs)
  if 4064 < bs.length ∨ call = callNo 0x1400 1 then journalGroup 0x01 call p s else journal 0x01 false call p s

/-- A device-written journaled entry takes a value, and its record is queued (R330). -/
def valJournal (call v : Nat) (s : State) : State :=
  journalEntry call (leBytes ((descOf s call).getD ⟨0, 0, false, 0, 0, 0, 0, ""⟩).size v) (valPut call v s)

/-! ### Small arithmetic -/

/-- A bit as a number at place `k`. -/
def bitAt (b : Bool) (k : Nat) : Nat := if b then 2 ^ k else 0

/-- Fields of width `w` joined, field `i` given by `f`. -/
def joinFields (w n : Nat) (f : Nat → Nat) : Nat := ((List.range n).map fun i => f i % 2 ^ w * 2 ^ (w * i)).sum

/-- Bits of a number. -/
def bits (v lo n : Nat) : Nat := v / 2 ^ lo % 2 ^ n

/-- A list with element `i` replaced. -/
def setAt {α : Type} : List α → Nat → α → List α
  | [], _, _ => []
  | _ :: t, 0, v => v :: t
  | a :: t, i + 1, v => a :: setAt t i v

/-- `n` bytes of a list from an offset, padded with zeros.
[DESIGN CHOICE, log row 46] -/
def bytesAt (l : List Byte) (off n : Nat) : List Byte :=
  let t := (l.drop off).take n
  t ++ List.replicate (n - t.length) 0

/-- A little-endian field of a byte list. -/
def fieldAt (l : List Byte) (off n : Nat) : Nat := leNat (bytesAt l off n)

/-- Bytes laid over a list at an offset; the list does not grow. -/
def overlayBytes (l : List Byte) (off : Nat) (bs : List Byte) : List Byte :=
  let t := bs.take (l.length - off)
  if l.length ≤ off then l else l.take off ++ t ++ l.drop (off + t.length)

end Sys2Proof.Machine
end

