-- ==== Sys2Proof/Machine/Grid.lean ====
section
/-! DEFINITION. Machine/Grid.lean: the cycle and period grids, the quiet windows on them, and the output images with their freeze (R20 to R24,
R160, R187, R355, R356). -/

namespace Sys2Proof.Machine

/-! ### Cycles and periods (R20, R21, R355, R356) -/

/-- Cycle length of ring r in quarter-nanoseconds, 0 while it has no cycle. -/
def ringCycle (s : State) (r : Nat) : Nat :=
  match valGet s (cRing r 1) with
  | 1 => 62500 * 2 ^ valGet s (cRing r 2)
  | 2 => match (getRing s r).time with | some t => t.clen | none => 0
  | _ => 0

/-- time.period.length (R21). -/
def periodLen (s : State) : Nat := valGet s (callNo 0x1110 2) * ringCycle s (valGet s (callNo 0x1110 1))

/-- time.period.phase. -/
def periodPhase (s : State) : Nat := valGet s (callNo 0x1110 3)

/-- Period marks occur: the generator runs, Sirkan time is valid and the source ring has a cycle (R21, R187). -/
def marksOccur (s : State) : Bool := valGet s (callNo 0x1110 4) == 1 && s.time.valid && periodLen s != 0

/-- Remainder of a time from a phase, for a length above 0. -/
def phaseRem (t phase len : Nat) : Nat := (t + (phase / len + 1) * len - phase) % len

/-- `t` is a cycle start of ring r: on the grid of R20 for a master, on the master's time word for a node.
[DESIGN CHOICE, log row 22] -/
def cycleStart (s : State) (r t : Nat) : Bool :=
  let c := ringCycle s r
  if c = 0 then false
  else match valGet s (cRing r 1) with
    | 1 => phaseRem t (periodPhase s) c == 0
    | _ => match (getRing s r).time with | some x => phaseRem t x.tstart c == 0 | none => false

/-- `t` is a period mark's instant: the first cycle start at or after an instant of R20. -/
def markInstant (s : State) (t : Nat) : Bool :=
  let r := valGet s (callNo 0x1110 1)
  let len := periodLen s
  len != 0 && cycleStart s r t && decide (phaseRem t (periodPhase s) len < ringCycle s r)

/-- A period mark occurs now: strictly after the generator was started, and once at its instant (R21).
[DESIGN CHOICE, log row 22] -/
def markNow (s : State) : Bool := marksOccur s && markInstant s s.now && decide (s.time.runFrom < s.up)

/-- The mark that belongs to an instant `g` of R20: the first cycle start of the source ring at or after it. -/
def markOf (s : State) (g : Nat) : Nat :=
  let q := valGet s (callNo 0x1110 1)
  let c := ringCycle s q
  match (getRing s q).time, valGet s (cRing q 1) with
  | some n, 2 => g + (c - phaseRem g n.tstart c) % c
  | _, _ => g

/-- The last instant of R20 at or before `t`. -/
def gridFloor (s : State) (t : Nat) : Nat := t - phaseRem t (periodPhase s) (periodLen s)

/-- The first period mark at or after `t`, 0 while none occur. -/
def markFrom (s : State) (t : Nat) : Nat :=
  if marksOccur s = false then 0
  else
    let g := gridFloor s t
    if t ≤ markOf s g then markOf s g else markOf s (g + periodLen s)

/-- Time since the period mark on the present grid (R20). -/
def inPeriod (s : State) : Nat :=
  if periodLen s = 0 then 0
  else
    let m := markOf s (gridFloor s s.now)
    if m ≤ s.now then s.now - m else s.now + periodLen s - m

/-- The next launch of ring r's cyclic frame by a master lies so far ahead, one cycle at most (R355). -/
def launchAhead (s : State) (r : Nat) : Nat :=
  let c := ringCycle s r
  let off := valGet s (cRing r 7)
  c - phaseRem (s.now + (off / c + 1) * c - off) (periodPhase s) c

/-- The next cyclic launch of a master after now.
[DESIGN CHOICE, log row 22] -/
def nextLaunch (s : State) (r : Nat) : Nat := s.now + launchAhead s r

/-! ### Quiet windows (R24, R160) -/

/-- The quiet windows of every loaded folio, in quarter-nanoseconds after the mark (R160). -/
def quietWindows (s : State) : List (Nat × Nat) :=
  (s.svc.folios.map fun f => f.quiet).flatten.map fun w => (4 * w.1, 4 * (w.1 + w.2))

/-- An instant of the period lies inside the union of quiet windows. -/
def quietAt (ws : List (Nat × Nat)) (x : Nat) : Bool := ws.any fun w => decide (w.1 ≤ x) && decide (x < w.2)

/-- An instant of a period lies inside a window or at most `lead` before one opens, this period's or the next one's. -/
def quietNear (ws : List (Nat × Nat)) (len lead x : Nat) : Bool :=
  ws.any fun w => (decide (w.1 ≤ x + lead) && decide (x < w.2)) || decide (w.1 + len ≤ x + lead)

/-- `[x, x + n)` meets no window of this period or the next. -/
def quietClear (ws : List (Nat × Nat)) (len x n : Nat) : Bool :=
  ws.all fun w => (decide (x + n ≤ w.1) || decide (w.2 ≤ x)) && decide (x + n ≤ w.1 + len)

/-- Now lies inside a quiet window of the period in progress (R24). -/
def quietNow (s : State) : Bool := marksOccur s && s.time.period && quietAt (quietWindows s) (inPeriod s)

/-- Now lies inside a quiet window, or at most 600 ns before one opens (R293). -/
def quietSoon (s : State) : Bool := marksOccur s && quietNear (quietWindows s) (periodLen s) 2400 (inPeriod s)

/-- W of R270 for a period length, in commands. -/
def refreshCount (len : Nat) : Nat := (len + 12499) / 12500

/-! ### Output images and their freeze (R23) -/

/-- Bytes a send with this xu.to writes (Table 03-4). -/
def sendWidth (xto : Word) : Nat := 2 ^ (xto.toNat / 67108864 % 4)

/-- Insertion of a stamped write by T; equal T keep their order. -/
def insertStamped (w : Stamped) : List Stamped → List Stamped
  | [] => [w]
  | x :: t => if w.at_ < x.at_ then w :: x :: t else x :: insertStamped w t

/-- Stamped writes in order of T, equal T in arrival order (R23, R184). -/
def inOrder (l : List Stamped) : List Stamped := l.foldl (fun a w => insertStamped w a) []

/-- Whether a safe stop holds a byte of ring r's output image (R387). -/
def stopHolds (s : State) (r j : Nat) : Bool :=
  (getRing s r).stopped && ((longGet s (cRing r 0x1E)).getD (j / 8) 0#8).getLsbD (j % 8)

/-- Bytes of a value put into an output image; a byte held by a safe stop keeps its value (R387). -/
def imagePutOut (r : Nat) : Nat → Nat → Nat → State → State
  | _, 0, _, s => s
  | off, n + 1, v, s =>
    imagePutOut r (off + 1) n (v / 256)
      (if stopHolds s r off then s else modRing r (fun x => { x with imgOut := kvSet 0#8 x.imgOut off (BitVec.ofNat 8 v) }) s)

/-- A send's write put into the image that its xu.to names (Table 03-4). -/
def imageSend (xto value : Word) (s : State) : State :=
  imagePutOut (xto.toNat / 2 ^ 28 % 2) (xto.toNat % 65536) (sendWidth xto) value.toNat s

/-- The ring of a stamped write to an output image (Table 03-4). -/
def imageRing (w : Stamped) : Nat := w.xto.toNat / 2 ^ 28 % 2

/-- The stamped writes of ring output images that `due` names are put into them, in order of T (R23, R182). -/
def imagesPut (due : Stamped → Bool) (s : State) : State :=
  (inOrder (s.net.images.filter due)).foldl (fun a w => imageSend w.xto w.value a)
    { s with net := { s.net with images := s.net.images.filter fun w => !due w } }

/-- The freeze instant of ring r's next frame, 1.000 µs before a master's launch or a node's expected arrival (R23, R355, R356). The launch made
at the present instant lies behind.
[DESIGN CHOICE, log row 22] -/
def freezeInstant (s : State) (r : Nat) : Option Nat :=
  let x := getRing s r
  let c := ringCycle s r
  if c = 0 ∨ x.st = 0 then none
  else match valGet s (cRing r 1), x.arrived with
    | 1, _ => some (s.now + (if x.launched.any (fun l => l.at_ == s.now) then c else launchAhead s r % c) - 4000)
    | _, some a => some (a + c - 4000)
    | _, none => none

/-- Ring r's output image is frozen as it was at instant `f`: stamps earlier than that are in it, one at that instant is not (R23). -/
def freezeWith (r f : Nat) (s : State) : State :=
  let s1 := imagesPut (fun w => imageRing w == r && decide (w.at_ < f)) s
  let n := valGet s1 (cRing r 0x0A)
  modRing r (fun x => { x with frozen := some ((List.range n).map fun j => kvGet 0#8 x.imgOut j) }) s1

/-- The image of ring r's next frame is frozen, where its freeze instant has come and it is not: every change of the image and the launch
itself come after this.
[DESIGN CHOICE, log row 22] -/
def freezeDue (r : Nat) (s : State) : State :=
  if (getRing s r).frozen.isSome then s
  else match freezeInstant s r with | some f => if f ≤ s.now then freezeWith r f s else s | none => s

/-- OUTPUT_IMAGE_FREEZE at the freeze instant of ring r's next frame (R23). -/
def freezeImage (r : Nat) (s : State) : State := if freezeInstant s r = some s.now then freezeWith r s.now s else s

/-- Bytes of a value applied to an output image (R23): the image of a frame whose freeze instant has come is frozen without them. -/
def imageApply (r off n v : Nat) (s : State) : State := imagePutOut r off n v (freezeDue r s)

end Sys2Proof.Machine
end

