-- ==== Sys2Proof/Machine/Flags.lean ====
section
/-! DEFINITION. Machine/Flags.lean: the overflow, carry, borrow and saturation conditions of the integer units (Tables 05-3
and 05-7), the sticky flags of the fpu (Table 06-10) and the trap conditions of both. -/

namespace Sys2Proof.Machine

/-- The signed range of 32 bits (R87). -/
def inSigned (i : Int) : Bool := decide (-2147483648 ≤ i) && decide (i ≤ 2147483647)

/-- Signed overflow of A + B: the exact signed sum is outside the signed range. -/
def addOverflow (a b : Word) : Bool := !(inSigned (a.toInt + b.toInt))

/-- Signed overflow of A − B. -/
def subOverflow (a b : Word) : Bool := !(inSigned (a.toInt - b.toInt))

/-- Carry out of A + B: the exact unsigned sum is 2^32 or more. -/
def addCarry (a b : Word) : Bool := decide (4294967296 ≤ a.toNat + b.toNat)

/-- Borrow of A − B: the exact unsigned difference is below 0. -/
def subBorrow (a b : Word) : Bool := decide (a.toNat < b.toNat)

/-- Saturation of ABS: only A = 0x8000_0000 (R87). -/
def absSaturates (a : Word) : Bool := a == 0x80000000#32

/-- Table 05-7: whether operation `op` of A and B meets the condition that TS (signed) selects. -/
def signedTrap (op : Nat) (a b : Word) : Bool :=
  match op with
  | 0x00 => addOverflow a b
  | 0x01 => subOverflow a b
  | 0x03 => subOverflow b a
  | 0x24 => addOverflow a b
  | 0x25 => subOverflow a b
  | 0x28 => absSaturates a
  | _ => false

/-- Table 05-7: whether operation `op` of A and B meets the condition that TU (unsigned) selects. -/
def unsignedTrap (op : Nat) (a b : Word) : Bool :=
  match op with
  | 0x00 => addCarry a b
  | 0x01 => subBorrow a b
  | 0x03 => subBorrow b a
  | 0x26 => addCarry a b
  | 0x27 => subBorrow a b
  | _ => false

/-- R88: whether an alu.x trigger with op latch `opl` raises exception 0x08. -/
def aluTraps (opl a b : Word) : Bool :=
  let op := opl.toNat % 64
  (opl.getLsbD 8 && signedTrap op a b) || (opl.getLsbD 9 && unsignedTrap op a b)

/-- The sticky flags of the fpu, laid out as bits [4:0] of fpu.st (Table 06-10). -/
abbrev FpFlags := BitVec 5

/-- Inexact, fpu.st[0]. -/
def fNX : FpFlags := 1#5
/-- Underflow, fpu.st[1]. -/
def fUF : FpFlags := 2#5
/-- Overflow, fpu.st[2]. -/
def fOF : FpFlags := 4#5
/-- Divide-by-zero, fpu.st[3]. -/
def fDZ : FpFlags := 8#5
/-- Invalid operation, fpu.st[4]. -/
def fNV : FpFlags := 16#5

/-- A flag when a condition holds. -/
def flagIf (c : Bool) (f : FpFlags) : FpFlags := if c then f else 0#5

/-- R109: whether flags `f` trap under the trap bits of the op latch the operation was triggered with. -/
def fpuTraps (opl : Word) (f : FpFlags) : Bool :=
  (opl.getLsbD 16 && f.getLsbD 4) || (opl.getLsbD 17 && f.getLsbD 3) || (opl.getLsbD 18 && f.getLsbD 2)

end Sys2Proof.Machine
end

