-- ==== Sys2Proof/Machine/Alu.lean ====
section
/-! DEFINITION. Machine/Alu.lean: the operations of alu0, alu1 and the bit-field unit (chapter 05). -/

namespace Sys2Proof.Machine

/-- A compare result (Table 05-2). -/
def bit (b : Bool) : Word := if b then 1#32 else 0#32

/-- R87: the exact result when it lies in the signed range, else the nearest bound. -/
def satSigned (i : Int) : Word :=
  if i < -2147483648 then 0x80000000#32 else if 2147483647 < i then 0x7FFFFFFF#32 else BitVec.ofInt 32 i

/-- R87: the exact result when it lies in the unsigned range, else the nearest bound. -/
def satUnsigned (i : Int) : Word :=
  if i < 0 then 0#32 else if 4294967295 < i then 0xFFFFFFFF#32 else BitVec.ofInt 32 i

/-- Table 05-2: the result of operation code `op` on A and B.
A reserved code gives 0 (R86). -/
def aluResult (op : Nat) (a b : Word) : Word :=
  match op with
  | 0x00 => a + b
  | 0x01 => a - b
  | 0x02 => bit (addCarry a b)
  | 0x03 => b - a
  | 0x04 => a &&& b
  | 0x05 => a ||| b
  | 0x06 => a ^^^ b
  | 0x07 => a &&& ~~~b
  | 0x08 => a ||| ~~~b
  | 0x09 => ~~~(a ^^^ b)
  | 0x10 => bit (a == b)
  | 0x11 => bit (a != b)
  | 0x12 => bit (a.slt b)
  | 0x13 => bit (a.sle b)
  | 0x14 => bit (b.slt a)
  | 0x15 => bit (b.sle a)
  | 0x16 => bit (a.ult b)
  | 0x17 => bit (a.ule b)
  | 0x18 => bit (b.ult a)
  | 0x19 => bit (b.ule a)
  | 0x20 => if a.sle b then a else b
  | 0x21 => if b.sle a then a else b
  | 0x22 => if a.ule b then a else b
  | 0x23 => if b.ule a then a else b
  | 0x24 => satSigned (a.toInt + b.toInt)
  | 0x25 => satSigned (a.toInt - b.toInt)
  | 0x26 => satUnsigned ((a.toNat : Int) + b.toNat)
  | 0x27 => satUnsigned ((a.toNat : Int) - b.toNat)
  | 0x28 => satSigned a.toInt.natAbs
  | _ => 0#32

/-- The operation an op latch selects: bits [5:0] (Tables 05-1 and 05-8). -/
def opCode (opl : Word) : Nat := opl.toNat % 64

/-- R94: the effective width of a field at position `p` with width field `wid`. -/
def fieldWidth (p wid : Nat) : Nat := min (min wid 32) (32 - p)

/-- R94: the field of A at `p` with effective width `w`, zero-extended. -/
def fieldOf (a : Word) (p w : Nat) : Nat := (a.toNat % 2 ^ (p + w)) / 2 ^ p

/-- R94: ones in the field, zeros elsewhere. -/
def fieldMask (p w : Nat) : Nat := (2 ^ w - 1) * 2 ^ p

/-- R94: EXTU and EXTUR. -/
def extU (a : Word) (p wid : Nat) : Word := BitVec.ofNat 32 (fieldOf a p (fieldWidth p wid))

/-- R94: EXTS and EXTSR. -/
def extS (a : Word) (p wid : Nat) : Word :=
  let w := fieldWidth p wid
  let f := fieldOf a p w
  if 0 < w ∧ 2 ^ (w - 1) ≤ f then BitVec.ofInt 32 ((f : Int) - 2 ^ w) else BitVec.ofNat 32 f

/-- R94: INS, B with the field replaced by the low bits of A. -/
def insField (a b : Word) (p wid : Nat) : Word :=
  let m := BitVec.ofNat 32 (fieldMask p (fieldWidth p wid))
  (b - (b &&& m)) + (BitVec.ofNat 32 (a.toNat * 2 ^ p) &&& m)

/-- R92: POS of a field descriptor, bits [12:8]. -/
def descPos (d : Word) : Nat := d.toNat / 256 % 32

/-- R92: WID of a field descriptor, bits [21:16]. -/
def descWid (d : Word) : Nat := d.toNat / 65536 % 64

/-- Number of leading zero bits of the low `n` bits of `v`. -/
def leadZeros (v : Nat) : Nat → Nat
  | 0 => 0
  | n + 1 => if v.testBit n then 0 else 1 + leadZeros v n

/-- Number of trailing zero bits of `v` among the bits from `i`, `n` bits in all. -/
def trailZeros (v i : Nat) : Nat → Nat
  | 0 => 0
  | n + 1 => if v.testBit i then 0 else 1 + trailZeros v (i + 1) n

/-- Number of one bits among the low `n` bits of `v`. -/
def onesIn (v : Nat) : Nat → Nat
  | 0 => 0
  | n + 1 => (if v.testBit n then 1 else 0) + onesIn v n

/-- Bit `i` of the low `n` bits moved to bit `n − 1 − i`. -/
def bitReverse (v i : Nat) : Nat → Nat
  | 0 => 0
  | n + 1 => (if v.testBit i then 2 ^ n else 0) + bitReverse v (i + 1) n

/-- R96: candidate byte `j` of A and B. -/
def permByte (a b : Word) (j : Nat) : Nat :=
  if j < 4 then a.toNat / 256 ^ j % 256 else b.toNat / 256 ^ (j - 4) % 256

/-- R96: result byte `k` under its selector nibble. -/
def permPick (a b : Word) (nib : Nat) : Nat :=
  let c := permByte a b (nib % 8)
  if nib / 8 % 2 = 1 then (if 128 ≤ c then 255 else 0) else c

/-- R96: PERM under a 16-bit selector. -/
def permute (a b : Word) (sel : Nat) : Word :=
  BitVec.ofNat 32 (permPick a b (sel % 16) + 256 * permPick a b (sel / 16 % 16)
    + 65536 * permPick a b (sel / 256 % 16) + 16777216 * permPick a b (sel / 4096 % 16))

/-- R93: rotate left by `n` mod 32. -/
def rotL (a : Word) (n : Nat) : Word := a.rotateLeft (n % 32)

/-- Table 05-9: the result of the bit-field unit for op latch `opl`.
A reserved code gives 0 (R86). -/
def bfuResult (opl a b : Word) : Word :=
  let n := b.toNat % 64
  match opCode opl with
  | 0x00 => a <<< n
  | 0x01 => a >>> n
  | 0x02 => a.sshiftRight n
  | 0x03 => rotL a n
  | 0x04 => rotL a (32 - n % 32)
  | 0x05 => extU a (descPos opl) (descWid opl)
  | 0x06 => extS a (descPos opl) (descWid opl)
  | 0x07 => insField a b (descPos opl) (descWid opl)
  | 0x08 => extU a (descPos b) (descWid b)
  | 0x09 => extS a (descPos b) (descWid b)
  | 0x0A => BitVec.ofNat 32 (fieldMask (descPos a) (fieldWidth (descPos a) (descWid a)))
  | 0x0B => BitVec.ofNat 32 (leadZeros a.toNat 32)
  | 0x0C => BitVec.ofNat 32 (trailZeros a.toNat 0 32)
  | 0x0D => BitVec.ofNat 32 (onesIn a.toNat 32)
  | 0x0E => permute a b (opl.toNat / 65536 % 65536)
  | 0x0F => BitVec.ofNat 32 (bitReverse a.toNat 0 32)
  | _ => 0#32

end Sys2Proof.Machine
end

