-- ==== Sys2Proof/Machine/Fpu.lean ====
section
/-! DEFINITION. Machine/Fpu.lean: the multiplier and the binary32 floating-point unit (chapter 06), computed exactly on
integers and rounded once. -/

namespace Sys2Proof.Machine

/-- Table 06-2: the 64-bit result of multiplier code `op` on accumulator `acc`, A and B.
A reserved code gives 0 (R100). -/
def mulResult (op : Nat) (acc : BitVec 64) (a b : Word) : BitVec 64 :=
  let ss := BitVec.ofInt 64 (a.toInt * b.toInt)
  let uu := BitVec.ofNat 64 (a.toNat * b.toNat)
  let su := BitVec.ofInt 64 (a.toInt * (b.toNat : Int))
  match op with
  | 0x0 => ss
  | 0x1 => uu
  | 0x2 => su
  | 0x4 => acc + ss
  | 0x5 => acc + uu
  | 0x6 => acc + su
  | 0x8 => acc - ss
  | 0x9 => acc - uu
  | 0xA => acc - su
  | _ => 0#64

/-- The sign bit of a binary32 pattern. -/
def fSign (a : Word) : Bool := a.getLsbD 31
/-- The biased exponent. -/
def fExp (a : Word) : Nat := a.toNat / 8388608 % 256
/-- The fraction field. -/
def fFrac (a : Word) : Nat := a.toNat % 8388608
/-- A NaN of either kind. -/
def isNaN (a : Word) : Bool := fExp a == 255 && fFrac a != 0
/-- R104: a NaN whose bit [22] is clear is signalling. -/
def isSNaN (a : Word) : Bool := isNaN a && !(a.getLsbD 22)
/-- An infinity. -/
def isInf (a : Word) : Bool := fExp a == 255 && fFrac a == 0
/-- A zero of either sign. -/
def isZero (a : Word) : Bool := a.toNat % 2147483648 == 0
/-- R104: the NaN with bit [22] set. -/
def quieten (a : Word) : Word := a ||| 0x400000#32
/-- R104: the default NaN. -/
def defaultNaN : Word := 0x7FC00000#32
/-- The infinity of a sign. -/
def infOf (s : Bool) : Word := if s then 0xFF800000#32 else 0x7F800000#32
/-- The zero of a sign. -/
def zeroOf (s : Bool) : Word := if s then 0x80000000#32 else 0#32

/-- An exact finite term: sign, integer magnitude and power of two. -/
structure Term where
  /-- true = negative -/
  neg : Bool
  /-- magnitude -/
  mag : Nat
  /-- power of two -/
  pow : Int
  deriving DecidableEq, Repr

/-- The exact value of a finite pattern. -/
def termOf (a : Word) : Term :=
  if fExp a = 0 then ⟨fSign a, fFrac a, -149⟩ else ⟨fSign a, fFrac a + 8388608, (fExp a : Int) - 150⟩

/-- The term with its sign inverted when `c` holds. -/
def Term.flip (t : Term) (c : Bool) : Term := ⟨t.neg != c, t.mag, t.pow⟩

/-- The exact product of two terms. -/
def Term.times (t u : Term) : Term := ⟨t.neg != u.neg, t.mag * u.mag, t.pow + u.pow⟩

/-- Table 06-4: the rounding mode of an op latch; codes 5 to 7 act as 0. -/
def roundMode (opl : Word) : Nat :=
  let r := opl.toNat / 256 % 8
  if r ≤ 4 then r else 0

/-- Whether magnitude `q` with remainder `rem` of `2^sh` rounds up under mode `rm` for a value of sign `neg`. -/
def roundsUp (rm : Nat) (neg : Bool) (q rem sh : Nat) : Bool :=
  match rm with
  | 0 => decide (2 ^ sh < 2 * rem) || (decide (2 * rem = 2 ^ sh) && q % 2 == 1)
  | 2 => neg && rem != 0
  | 3 => !neg && rem != 0
  | 4 => decide (2 ^ sh ≤ 2 * rem) && rem != 0
  | _ => false

/-- A magnitude divided by `2^sh` and rounded, and whether that was inexact. -/
def roundShift (rm : Nat) (neg : Bool) (m sh : Nat) : Nat × Bool :=
  let q := m / 2 ^ sh
  let rem := m % 2 ^ sh
  (if roundsUp rm neg q rem sh then q + 1 else q, rem != 0)

/-- A magnitude times `2^p` brought to the quantum `2^q`: exact for `q ≤ p`, rounded otherwise. -/
def toQuantum (rm : Nat) (neg : Bool) (m : Nat) (p q : Int) : Nat × Bool :=
  if q ≤ p then (m * 2 ^ (p - q).toNat, false) else roundShift rm neg m (q - p).toNat

/-- Table 06-6: the overflow result. -/
def overflowOf (rm : Nat) (neg : Bool) : Word :=
  if rm = 1 ∨ (rm = 2 ∧ neg = false) ∨ (rm = 3 ∧ neg = true) then
    (if neg then 0xFF7FFFFF#32 else 0x7F7FFFFF#32)
  else infOf neg

/-- R103: a non-zero exact term rounded to binary32, with its flags.
Tininess is detected after rounding. -/
def roundTerm (rm : Nat) (t : Term) : Word × FpFlags :=
  let top := t.pow + (Nat.log2 t.mag : Int)
  let q := max (top - 23) (-149)
  let (mant, inexact) := toQuantum rm t.neg t.mag t.pow q
  let bits := (q + 149).toNat * 8388608 + mant
  let tiny := decide (top < -126) &&
    !(decide (top = -127) && decide ((toQuantum rm t.neg t.mag t.pow (top - 23)).1 = 16777216))
  if 2139095040 ≤ bits then (overflowOf rm t.neg, fOF ||| fNX)
  else (BitVec.ofNat 32 (bits + if t.neg then 2147483648 else 0),
        flagIf inexact fNX ||| flagIf (tiny && inexact) fUF)

/-- R103: the sum of two exact terms, rounded once, with the sign rules of an exact zero. -/
def addTerms (rm : Nat) (t u : Term) : Word × FpFlags :=
  let p := min t.pow u.pow
  let x := (t.mag * 2 ^ (t.pow - p).toNat : Nat)
  let y := (u.mag * 2 ^ (u.pow - p).toNat : Nat)
  let sum : Int := (if t.neg then -(x : Int) else x) + (if u.neg then -(y : Int) else y)
  if sum = 0 then
    if x = 0 ∧ y = 0 ∧ t.neg = u.neg then (zeroOf t.neg, 0#5) else (zeroOf (rm == 2), 0#5)
  else roundTerm rm ⟨decide (sum < 0), sum.natAbs, p⟩

/-- R104: the first NaN among the operands, made quiet, with NV when any operand is signalling. -/
def nanOf (ops : List Word) : Option (Word × FpFlags) :=
  (ops.find? isNaN).map fun n => (quieten n, flagIf (ops.any isSNaN) fNV)

/-- A + B, where B's sign is inverted when `sub` holds (FADD and FSUB). -/
def fAdd (rm : Nat) (sub : Bool) (a b : Word) : Word × FpFlags :=
  match nanOf [a, b] with
  | some r => r
  | none =>
    let sb := fSign b != sub
    if isInf a then
      if isInf b && fSign a != sb then (defaultNaN, fNV) else (a, 0#5)
    else if isInf b then (infOf sb, 0#5)
    else addTerms rm (termOf a) ((termOf b).flip sub)

/-- A × B (FMUL). -/
def fMul (rm : Nat) (a b : Word) : Word × FpFlags :=
  match nanOf [a, b] with
  | some r => r
  | none =>
    let s := fSign a != fSign b
    if isInf a || isInf b then
      if isZero a || isZero b then (defaultNaN, fNV) else (infOf s, 0#5)
    else if isZero a || isZero b then (zeroOf s, 0#5)
    else roundTerm rm ((termOf a).times (termOf b))

/-- ±(A × B) ± C rounded once: FMA, FMS and FNMA. -/
def fFma (rm : Nat) (negProd negC : Bool) (a b c : Word) : Word × FpFlags :=
  let badProd := (isInf a && isZero b) || (isZero a && isInf b)
  match nanOf [a, b, c] with
  | some (n, f) => (n, f ||| flagIf badProd fNV)
  | none =>
    let sp := (fSign a != fSign b) != negProd
    let sc := fSign c != negC
    if badProd then (defaultNaN, fNV)
    else if isInf a || isInf b then
      if isInf c && sc != sp then (defaultNaN, fNV) else (infOf sp, 0#5)
    else if isInf c then (infOf sc, 0#5)
    else addTerms rm (((termOf a).times (termOf b)).flip negProd) ((termOf c).flip negC)

/-- 1 / A, correctly rounded (FRCP). -/
def fRcp (rm : Nat) (a : Word) : Word × FpFlags :=
  match nanOf [a] with
  | some r => r
  | none =>
    let s := fSign a
    if isZero a then (infOf s, fDZ)
    else if isInf a then (zeroOf s, 0#5)
    else
      let t := termOf a
      let q := 2 ^ 80 / t.mag
      let sticky := if 2 ^ 80 % t.mag = 0 then 0 else 1
      roundTerm rm ⟨s, 2 * q + sticky, -81 - t.pow⟩

/-- Order of two patterns that are no NaNs, with −0 below +0 (R105). -/
def fKey (a : Word) : Int :=
  let m : Int := (a.toNat % 2147483648 : Nat)
  if fSign a then -m - 1 else m

/-- FMIN, FMAX, FMINP and FMAXP (R105). -/
def fMinMax (wantMax propagate : Bool) (a b : Word) : Word × FpFlags :=
  let f := flagIf (isSNaN a || isSNaN b) fNV
  let pick := if (fKey a ≤ fKey b) != wantMax then a else b
  if isNaN a && isNaN b then (quieten a, f)
  else if isNaN a then (if propagate then quieten a else b, f)
  else if isNaN b then (if propagate then quieten b else a, f)
  else (pick, f)

/-- A < B on patterns that are no NaNs, −0 equal to +0. -/
def fLess (a b : Word) : Bool :=
  if isZero a && isZero b then false else decide (fKey a < fKey b)

/-- A = B on patterns that are no NaNs, −0 equal to +0. -/
def fSame (a b : Word) : Bool := (isZero a && isZero b) || a == b

/-- FEQ, FLT, FLE and FUN (R105). -/
def fCompare (op : Nat) (a b : Word) : Word × FpFlags :=
  let nan := isNaN a || isNaN b
  let sig := flagIf (isSNaN a || isSNaN b) fNV
  match op with
  | 0x0C => (bit (!nan && fSame a b), sig)
  | 0x0D => (bit (!nan && fLess a b), flagIf nan fNV)
  | 0x0E => (bit (!nan && (fLess a b || fSame a b)), flagIf nan fNV)
  | _ => (bit nan, sig)

/-- ITOF and UTOF: an integer to binary32 (R106). -/
def fFromInt (rm : Nat) (i : Int) : Word × FpFlags :=
  if i = 0 then (0#32, 0#5) else roundTerm rm ⟨decide (i < 0), i.natAbs, 0⟩

/-- FTOI and FTOU: A to an integer in `lo` to `hi`, else the nearest bound with NV (R106). -/
def fToInt (rm : Nat) (lo hi : Int) (a : Word) : Word × FpFlags :=
  if isNaN a then (0#32, fNV)
  else if isInf a then (BitVec.ofInt 32 (if fSign a then lo else hi), fNV)
  else
    let t := termOf a
    let (m, inexact) := toQuantum rm t.neg t.mag t.pow 0
    let i : Int := if t.neg then -(m : Int) else m
    if i < lo then (BitVec.ofInt 32 lo, fNV)
    else if hi < i then (BitVec.ofInt 32 hi, fNV)
    else (BitVec.ofInt 32 i, flagIf inexact fNX)

/-- Table 06-5: result and flags of the fpu for op latch `opl` on A, B and C.
A reserved code gives 0 and no flag (R107). -/
def fpuResult (opl a b c : Word) : Word × FpFlags :=
  let rm := roundMode opl
  match opCode opl with
  | 0x00 => fAdd rm false a b
  | 0x01 => fAdd rm true a b
  | 0x02 => fMul rm a b
  | 0x03 => fFma rm false false a b c
  | 0x04 => fFma rm false true a b c
  | 0x05 => fFma rm true false a b c
  | 0x06 => fRcp rm a
  | 0x08 => fMinMax false false a b
  | 0x09 => fMinMax true false a b
  | 0x0A => fMinMax false true a b
  | 0x0B => fMinMax true true a b
  | 0x0C => fCompare 0x0C a b
  | 0x0D => fCompare 0x0D a b
  | 0x0E => fCompare 0x0E a b
  | 0x0F => fCompare 0x0F a b
  | 0x10 => fFromInt rm a.toInt
  | 0x11 => fFromInt rm a.toNat
  | 0x12 => fToInt rm (-2147483648) 2147483647 a
  | 0x13 => fToInt rm 0 4294967295 a
  | 0x18 => (a &&& 0x7FFFFFFF#32, 0#5)
  | 0x19 => (a ^^^ 0x80000000#32, 0#5)
  | 0x1A => ((a &&& 0x7FFFFFFF#32) ||| (b &&& 0x80000000#32), 0#5)
  | _ => (0#32, 0#5)

end Sys2Proof.Machine
end

