-- ==== Sys2Proof/Machine/Issue.lean ====
section
/-! DEFINITION. Machine/Issue.lean: what one engine does in one step (chapters 03 to 07 and 10), as a function of the engine and
of the inputs the main copy samples, so that main copy and checker run the same text (R215, R217). -/

namespace Sys2Proof.Machine

/-- The address check of an access: store, address, bytes, supervisor mode, lsu.win. -/
abbrev AccFn := Bool → Word → Nat → Bool → Word → AccRes

/-- What one step of an engine gives besides its new state. -/
structure IssueOut where
  /-- the engine after the step -/
  eng : Engine
  /-- compared items (Table 11-2) -/
  items : List Item
  /-- stores and sends for the release buffer -/
  outs : List OutItem
  /-- heavy activations -/
  heavy : Nat
  /-- one of the first bundles of a handler (R201) -/
  first : Bool
  /-- loads and stores refused (R116, R117) -/
  refused : Nat
  /-- log records of the items sampled: kind and value -/
  sampled : List (Nat × Word)
  /-- a wait was late: LATE bit and count (R176) -/
  late : Bool
  /-- MARK was moved to cu.ctl -/
  mark : Bool
  /-- RESTART was moved to cu.ctl -/
  restart : Bool
  /-- an issued bundle in the sense of R48 -/
  issued : Bool
  /-- the bundle is held on lsu.q: a stall step (R54) -/
  stalled : Bool
  /-- further steps the step's entry or return takes (Table 10-5) -/
  extra : Nat
  /-- what the address checks found, for the checker -/
  ld : AccRes
  st : AccRes
  deriving DecidableEq, Repr

/-- No access. -/
def AccRes.nil : AccRes := ⟨0, .phys 0⟩

/-- A step that gives only a new engine state. -/
def IssueOut.only (e : Engine) : IssueOut :=
  { eng := e, items := [], outs := [], heavy := 0, first := false, refused := 0, sampled := [], late := false, mark := false, restart := false,
    issued := false, stalled := false, extra := 0, ld := AccRes.nil, st := AccRes.nil }

/-! ### Counters and contexts -/

/-- `n` more steps of an engine: engine.steps grows and an open atomic window shrinks (R209). -/
def addSteps (n : Nat) (e : Engine) : Engine :=
  { e with
    ctr := { e.ctr with steps := (e.ctr.steps + n) % 2 ^ 64 }
    exc := { e.exc with atomic := e.exc.atomic.map fun a => { a with left := a.left - n } } }

/-- Frames occupied, the reserved one among them. -/
def frameDepth (x : ExcSt) : Nat := x.frames.length + (if x.dframe.isSome then 1 else 0)

/-- Unit contexts saved: the number that marks the loads of the present context (R195). -/
def ctxDepth (x : ExcSt) : Nat :=
  (x.frames.filter fun f => f.unit.isSome).length + (match x.dframe with | some f => if f.unit.isSome then 1 else 0 | none => 0)

/-- Load-queue entries occupied (R116). -/
def ldqUsed (q : List LoadOp) : Nat := (q.map fun l => l.left).sum

/-- The oldest load of the present context that a bundle can still read. -/
def ldqHead (e : Engine) : Option LoadOp := e.ldq.find? fun l => l.ctx == ctxDepth e.exc && !l.drop

/-- The value at the head of lsu.q and its error mark, once its data has arrived. -/
def ldqValue (e : Engine) : Option (Word × Nat) :=
  match ldqHead e with
  | some l => l.data.map fun d => (d.headD 0, l.err)
  | none => none

/-- The load queue without its head entry (R47). -/
def ldqPop (ctx : Nat) : List LoadOp → List LoadOp
  | [] => []
  | l :: t =>
    if l.ctx = ctx ∧ l.drop = false then
      if l.left ≤ 1 then t else { l with left := l.left - 1, data := l.data.map List.tail } :: t
    else l :: ldqPop ctx t

/-- R191: on entry the marked head's data becomes 0 and its mark is cleared. -/
def ldqUnmark (ctx : Nat) : List LoadOp → List LoadOp
  | [] => []
  | l :: t =>
    if l.ctx = ctx ∧ l.drop = false then
      { l with err := 0, data := l.data.map fun d => 0#32 :: d.tail } :: t
    else l :: ldqUnmark ctx t

/-- R133: the count a frame's context would read. -/
def frameCnt : List Frame → Nat
  | [] => 0
  | f :: fs =>
    match f.rep, f.loop with
    | some r, _ => r.rem - 1
    | none, some l => l.rem - 1
    | none, none => if f.cntOwn then 0 else frameCnt fs

/-- R133: cu.cnt. -/
def cuCnt (e : Engine) : Nat :=
  match e.pos.rep, e.pos.loop with
  | some r, _ => r.rem - 1
  | none, some l => l.rem - 1
  | none, none =>
    if e.pos.cntOwn then 0
    else frameCnt ((match e.exc.dframe with | some f => [f] | none => []) ++ e.exc.frames)

/-- Table 04-4: the value of a source socket at the start of the step. -/
def srcValue (e : Engine) (i : Inp) (lit : Word) (n : Nat) : Word :=
  if n < 24 then kvGet 0#32 e.g n else
  match n with
  | 24 => e.res.alu0q
  | 25 => e.res.alu1q
  | 26 => e.res.bfuq
  | 27 => e.res.mul.setWidth 32
  | 28 => (e.res.mul >>> 32).setWidth 32
  | 29 => e.res.fpuq
  | 30 => e.res.fpust.setWidth 32
  | 31 => (i.lsu.getD (0#32, 0)).1
  | 32 => BitVec.ofNat 32 e.lnk
  | 33 => BitVec.ofNat 32 (cuCnt e)
  | 34 => BitVec.ofNat 32 i.now
  | 35 => BitVec.ofNat 32 (i.now / 4294967296)
  | 36 => i.cap
  | 37 => i.xuq
  | 38 => i.xulvl
  | 39 => i.id
  | 40 => i.estep
  | 41 => bit e.flag
  | 62 => lit
  | _ => 0#32

/-- Table 04-3: the latches after a value is moved to destination `d`. fpu.op keeps bits [30:0] only (Table 06-4). -/
def writeLatch (l : Latches) (d : Nat) (v : Word) : Latches :=
  match d with
  | 24 => { l with alu0o := v }
  | 28 => { l with alu0op := v }
  | 29 => { l with alu1o := v }
  | 33 => { l with alu1op := v }
  | 34 => { l with bfuo := v }
  | 36 => { l with bfuop := v }
  | 37 => { l with mulo := v }
  | 39 => { l with mulop := v }
  | 40 => { l with fpuo := v }
  | 41 => { l with fpuc := v }
  | 43 => { l with fpuop := v &&& 0x7FFFFFFF#32 }
  | 44 => { l with lsua := v }
  | 47 => { l with lsuop := v }
  | 48 => { l with lsuwin := v }
  | 58 => { l with tuat := v }
  | 60 => { l with xuto := v }
  | _ => l

/-- The latches after every write of a bundle. -/
def writeLatches (l : Latches) (vs : List (Nat × Word)) : Latches := vs.foldl (fun a (d, v) => writeLatch a d v) l

/-- The general registers after every write of a bundle. -/
def writeRegs (g : Kv Word) (vs : List (Nat × Word)) : Kv Word :=
  vs.foldl (fun a (d, v) => if d < 24 then kvSet 0#32 a d v else a) g

/-- The value moved to destination `d`, if an executed move writes it. -/
def moved (vs : List (Nat × Word)) (d : Nat) : Option Word := (vs.find? fun p => p.1 == d).map fun p => p.2

/-! ### Results landing (R48, R49) -/

/-- The start of an issued bundle: every operation in flight comes one nearer, and those that arrive land in trigger order, so
that this bundle reads them (R48, R49). -/
def tickPipes (e : Engine) : Engine :=
  let mp := e.mulP.map fun o => { o with left := o.left - 1 }
  let fp := e.fpuP.map fun o => { o with left := o.left - 1 }
  let lm := mp.filter fun o => o.left == 0
  let lf := fp.filter fun o => o.left == 0
  { e with
    mulP := mp.filter fun o => o.left != 0
    fpuP := fp.filter fun o => o.left != 0
    res := { e.res with
      mul := lm.foldl (fun _ o => o.value) e.res.mul
      fpuq := lf.foldl (fun _ o => o.value) e.res.fpuq
      fpust := lf.foldl (fun a o => a ||| o.flags) e.res.fpust } }

/-- The end of an issued bundle: every pending trap comes one nearer (R90, R109). -/
def tickTraps (e : Engine) : Engine := { e with traps := e.traps.map fun t => { t with left := t.left - 1 } }

/-- R196, R222: every operation in flight lands, and its trap is discarded. -/
def landAll (e : Engine) : Engine :=
  { e with
    mulP := []
    fpuP := []
    traps := []
    res := { e.res with
      mul := e.mulP.foldl (fun _ o => o.value) e.res.mul
      fpuq := e.fpuP.foldl (fun _ o => o.value) e.res.fpuq
      fpust := e.fpuP.foldl (fun a o => a ||| o.flags) e.res.fpust } }

/-- R99: the accumulator of an operation triggered now. -/
def accumulator (e : Engine) : BitVec 64 := e.mulP.foldl (fun _ o => o.value) e.res.mul

/-! ### Interrupt choice (R205) -/

/-- R205: the level of a source. -/
def irqLevel (x : ExcSt) (s : Nat) : Nat := kvGet 0 x.irqlvl s

/-- R205: whether a source is eligible against a mask level and a running level (16 = none). -/
def irqEligible (x : ExcSt) (pend : BitVec 32) (mask run s : Nat) : Bool :=
  pend.getLsbD s && x.irqen.getLsbD s && decide (mask ≤ irqLevel x s) && (run == 16 || decide (run < irqLevel x s))

/-- R205: the better of the choice so far and a source of higher number. -/
def irqBetter (x : ExcSt) (best : Option Nat) (s : Nat) : Option Nat :=
  match best with
  | none => some s
  | some b => if irqLevel x b < irqLevel x s then some s else some b

/-- R205: the source to take: the highest level, and within it the lowest number.
[DESIGN CHOICE, log row 15] -/
def irqChoice (x : ExcSt) (pend : BitVec 32) (mask run : Nat) : Option Nat :=
  ((List.range 32).filter (irqEligible x pend mask run)).foldl (irqBetter x) none

/-! ### Frames: entry and return (R193 to R203) -/

/-- R194: the frame for an entry at the present boundary. -/
def frameOf (e : Engine) (k : FrameKind) (unit : Option UnitCtx) : Frame :=
  { kind := k, ret := e.pos.pc, slot := e.pos.slot, flag := e.flag, super := e.exc.super, precise := e.exc.precise,
    run := e.exc.run, mask := e.exc.mask, loop := e.pos.loop, rep := e.pos.rep, wait := e.pos.wait,
    cntOwn := e.pos.cntOwn, unit := unit, kept := [], fresh := e.exc.fresh }

/-- The position at the first bundle of a handler: no loop, repeat or hold is active (R197). -/
def handlerPos (e : Engine) (a : Nat) : Pos := { Pos.start a with lastpc := e.pos.lastpc }

/-- The unit context at the present boundary. -/
def unitOf (e : Engine) : UnitCtx := ⟨e.lat, e.res, e.mulP, e.fpuP, e.traps⟩

/-- R197: an interrupt's entry, with its ten steps. The interrupted operations wait in the frame (R195).
[DESIGN CHOICE, log row 15] -/
def enterIrq (s : Nat) (e : Engine) : Engine :=
  let f := frameOf e (.irq s) (some (unitOf e))
  addSteps 10 { e with
    st := .running
    flag := false
    mulP := []
    fpuP := []
    traps := []
    pos := handlerPos e (e.exc.vbase + 0x40 + 2 * s)
    exc := { e.exc with
      super := true
      frames := f :: e.exc.frames
      run := irqLevel e.exc s
      irqpend := e.exc.irqpend &&& ~~~(1#32 <<< s)
      fresh := some ⟨0, true⟩ } }

/-- Table 03-11: engine.cause after an exception: START_LATE keeps its value (R69). -/
def causeWord (old : Word) (d : Due) (dbl : Bool) : Word :=
  (old &&& 0x20000000#32) ||| BitVec.ofNat 32 (d.code % 256 + 256 * (d.addr % 8192)
    + (if d.imprecise then 2097152 else 0) + (if d.inslot then 4194304 else 0)
    + (if dbl then 1073741824 else 0) + 2147483648)

/-- R190: the exception taken among those due: the lowest code. -/
def lowestDue : List Due → Option Due
  | [] => none
  | d :: ds =>
    match lowestDue ds with
    | none => some d
    | some m => if m.code < d.code then some m else some d

/-- R190: of the others, 0x0C and 0x0D stay pending until the handler has returned. -/
def keptDue (taken : Due) (ds : List Due) : List Due :=
  (ds.erase taken).filter fun d => d.code == 0x0C || d.code == 0x0D

/-- R201: whether an exception is taken as a double fault. -/
def isDouble (x : ExcSt) (d : Due) : Bool := d.first || decide (8 ≤ x.frames.length)

/-- R196, R197, R201: an exception's entry, with its ten steps. A double fault uses the reserved frame. -/
def enterExc (d : Due) (e : Engine) : Engine :=
  let e1 := landAll { e with ldq := if e.exc.head = true ∧ (d.code = 0x0C ∨ d.code = 0x0D) then ldqUnmark (ctxDepth e.exc) e.ldq else e.ldq }
  let dbl := isDouble e.exc d
  let f : Frame := { frameOf e1 (if dbl then .dbl d.code else .exc d.code) (some (unitOf e1)) with kept := keptDue d e.exc.due }
  addSteps 10 { e1 with
    st := .running
    flag := false
    cause := causeWord e.cause d dbl
    pos := handlerPos e (if dbl then e.exc.vbase + 0x20 else e.exc.vbase + 2 * d.code)
    exc := { e.exc with
      super := true
      frames := if dbl then e.exc.frames else f :: e.exc.frames
      dframe := if dbl then some f else e.exc.dframe
      atomic := if d.code = 0x06 ∧ d.imprecise = false ∧ e.exc.atomic.any (fun a => a.left == 0) then none else e.exc.atomic
      due := []
      fresh := some ⟨0, true⟩
      head := false } }

/-- R203: a system call to an enabled entry, with its two steps. -/
def enterSys (k a : Nat) (e : Engine) : Engine :=
  addSteps 2 { e with
    flag := false
    pos := handlerPos e a
    exc := { e.exc with super := true, frames := frameOf e (.sys k) none :: e.exc.frames, fresh := some ⟨0, false⟩ } }

/-- Table 09-5: the outcome of a wait reached at `a`: 0 held, 1 within tolerance, 2 late. -/
def waitOutcome (a t tol : Nat) : Nat := if a ≤ t then 0 else if a ≤ t + tol then 1 else 2

/-- What a return or a control code gives besides the engine. -/
structure CtlOut where
  eng : Engine
  late : Bool
  /-- outcome of a timed wait judged at the boundary (KIND 0x0A of Table 11-4) -/
  wait : Option Nat
  mark : Bool
  restart : Bool
  extra : Nat
  deriving DecidableEq, Repr

/-- R195: loads of a context that has returned are discarded when they arrive. -/
def dropLoads (ctx : Nat) (q : List LoadOp) : List LoadOp :=
  (q.filter fun l => !(l.ctx == ctx && l.data.isSome)).map fun l => if l.ctx = ctx then { l with drop := true } else l

/-- The engine with a frame's unit context restored, if it holds one. -/
def restoreUnit (f : Frame) (e : Engine) : Engine :=
  match f.unit with
  | none => e
  | some u =>
    { e with lat := u.lat, res := u.res, mulP := u.mulP, fpuP := u.fpuP, traps := u.traps,
             ldq := dropLoads (ctxDepth e.exc) e.ldq }

/-- R199: an atomic window opened since the frame at depth `d` was pushed is closed. -/
def closeAtomic (d : Nat) (a : Option Atomic) : Option Atomic :=
  match a with
  | some w => if d ≤ w.depth then none else some w
  | none => none

/-- R199: the engine with frame `f` popped and every item it holds restored; the hold of a pending wait is entered again and
judged at the instant of the return (R179). -/
def resumeFrame (f : Frame) (i : Inp) (e0 : Engine) : CtlOut :=
  let e := restoreUnit f e0
  let outcome := match f.wait with
    | some w => if i.replay then 1 else waitOutcome i.fin w.target w.tol
    | none => 1
  let due9 : List Due := if f.ret = 8192 then [⟨0x09, 8191, false, false, false⟩] else []
  let held : Bool := f.wait.isSome && !i.replay && (outcome == 0 || !i.rel)
  let lateAddr := if outcome = 2 ∧ held = false ∧ i.lateFault = true then f.wait.map fun w => (w.addr, w.first) else none
  { eng := addSteps 2 { e with
      flag := f.flag
      pos := { e0.pos with
        pc := f.ret, slot := f.slot, kill := 0, ins := 0, ctl := .none, rep := f.rep
        loop := f.loop.map fun l => { l with buf := [] }
        wait := if held = true then f.wait.map fun w => { w with block := 0, late := outcome == 2 } else none
        missed := outcome != 0 && held
        late := if f.slot.isSome then lateAddr else none
        relLim := none
        cntOwn := f.cntOwn }
      exc := { e0.exc with
        super := f.super, precise := f.precise, run := f.run, mask := f.mask, fresh := f.fresh
        atomic := closeAtomic (frameDepth e0.exc) e0.exc.atomic
        frames := if e0.exc.dframe.isSome then e0.exc.frames else e0.exc.frames.tail
        dframe := none
        due := e0.exc.due ++ f.kept ++ due9 ++
          (match lateAddr with | some a => if f.slot.isSome then [] else [⟨0x07, a.1, false, false, a.2⟩] | none => []) } }
    late := outcome == 2 && f.wait.isSome && !held
    wait := none
    mark := false
    restart := false
    extra := 2 }

/-- R200: the innermost frame `f` serves an eligible interrupt instead of being popped, with ten steps.
[DEDUCED, log row 14] -/
def chainIrq (f : Frame) (s : Nat) (e : Engine) : Engine :=
  let e1 := restoreUnit f e
  let u := (f.unit.getD (unitOf e))
  addSteps 10 { e1 with
    flag := false
    mulP := []
    fpuP := []
    traps := []
    pos := handlerPos e (e.exc.vbase + 0x40 + 2 * s)
    exc := { e.exc with
      super := true
      frames := { f with kind := .irq s, unit := some u } :: e.exc.frames.tail
      atomic := closeAtomic (frameDepth e.exc) e.exc.atomic
      run := irqLevel e.exc s
      irqpend := e.exc.irqpend &&& ~~~(1#32 <<< s)
      fresh := some ⟨0, true⟩
      rfe := false } }

/-- An engine enters the handler of source k, in a frame of its own or, at an RFE, in the frame that the RFE would pop (R197, R200). -/
def takeIrq (k : Nat) (e : Engine) : Engine :=
  match e.exc.rfe, e.exc.frames with
  | true, f :: _ => chainIrq f k e
  | _, _ => enterIrq k e

/-- The boundary after an RFE permits the chained interrupt of its frame `f` (R200, R206): no exception falls due there, the context
stands neither before a delay slot (but in its hold, R128) nor inside a cu.repn, and no atomic window stays open.
[DEDUCED, log row 14] -/
def chainAllowed (f : Frame) (e : Engine) : Bool :=
  e.exc.due.isEmpty && f.kept.isEmpty && f.ret != 8192 && (f.slot.isNone || f.wait.isSome)
    && !(match f.rep with | some r => r.noirq | none => false)
    && (closeAtomic (frameDepth e.exc) e.exc.atomic).isNone

/-- RFE (R199, R200): the reserved frame is always popped; another frame serves an interrupt eligible against the levels it
would restore: the chained entry then follows at this boundary.
[DEDUCED, log row 14] -/
def doReturn (i : Inp) (e : Engine) : CtlOut :=
  match e.exc.dframe with
  | some f => resumeFrame f i e
  | none =>
    match e.exc.frames with
    | [] => ⟨e, false, none, false, false, 0⟩
    | f :: _ =>
      if chainAllowed f e = true ∧ (irqChoice e.exc (i.chain.getD e.exc.irqpend) f.mask f.run).isSome = true then
        ⟨{ e with exc := { e.exc with rfe := true } }, false, none, false, false, 0⟩
      else resumeFrame f i e

/-- The frame of an RFE is popped after all: no source is eligible for the chained entry any more (R199, R200). -/
def popFrame (i : Inp) (e : Engine) : CtlOut :=
  match e.exc.frames with
  | [] => ⟨{ e with exc := { e.exc with rfe := false } }, false, none, false, false, 0⟩
  | f :: _ =>
    let r := resumeFrame f i { e with exc := { e.exc with rfe := false } }
    { r with eng := { r.eng with st := if r.eng.pos.wait.isSome ∧ r.eng.exc.due = [] then .held else r.eng.st } }

/-- Table 10-2: bits of one half of a 32-bit source word replaced. -/
def setHalf (w : BitVec 32) (h m : Nat) : BitVec 32 :=
  if h = 0 then (w &&& 0xFFFF0000#32) ||| BitVec.ofNat 32 m else (w &&& 0x0000FFFF#32) ||| BitVec.ofNat 32 (m * 65536)

/-- Table 10-2: the effect of a cu.ctl code at the boundary. -/
def applyCode (i : Inp) (a : Word) (e : Engine) : CtlOut :=
  let x := e.exc
  let put (y : ExcSt) : CtlOut := ⟨{ e with exc := y }, false, none, false, false, 0⟩
  match ctlCode a with
  | 0x01 => doReturn i e
  | 0x02 => put { x with super := false }
  | 0x03 => put { x with precise := ctlArg a 8 1 == 1 }
  | 0x04 => ⟨e, false, none, true, false, 0⟩
  | 0x05 => ⟨e, false, none, false, true, 0⟩
  | 0x06 => put { x with atomic := some ⟨ctlArg a 8 9, e.pos.lastpc, frameDepth x⟩ }
  | 0x07 => put { x with atomic := none }
  | 0x08 => put { x with vbase := ctlArg a 15 6 * 128 }
  | 0x09 => put { x with sysent := kvSet 0 x.sysent (ctlArg a 8 4) (ctlArg a 12 14) }
  | 0x0A => put { x with irqen := setHalf x.irqen (ctlArg a 24 1) (ctlArg a 8 16) }
  | 0x0B => put { x with irqlvl := kvSet 0 x.irqlvl (ctlArg a 8 5) (ctlArg a 16 4) }
  | 0x0C => put { x with mask := min (ctlArg a 8 5) 16 }
  | 0x0D => put { x with irqpend := x.irqpend &&& ~~~(BitVec.ofNat 32 (ctlArg a 8 16 * 65536 ^ ctlArg a 24 1)) }
  | 0x0E => put { x with irqpend := x.irqpend ||| (1#32 <<< ctlArg a 8 5) }
  | _ => ⟨e, false, none, false, false, 0⟩

/-- R201: a bundle issued now is the first of a handler, or the second of a vector pair. -/
def isFirst (x : ExcSt) : Bool :=
  match x.fresh with
  | some f => f.issued == 0 || (f.issued == 1 && f.vector)
  | none => false

/-- The control effect at a bundle's boundary: a cu.ctl code or a system call (R192, R203). -/
def applyCtl (i : Inp) (c : Ctl) (first : Bool) (e : Engine) : CtlOut :=
  match c with
  | .none => ⟨e, false, none, false, false, 0⟩
  | .code a => applyCode i a e
  | .sys k =>
    let ent := kvGet 0 e.exc.sysent k
    if ent < 8192 then
      ⟨{ e with exc := { e.exc with due := e.exc.due ++ [⟨0x0E, e.pos.lastpc, false, false, first⟩] } }, false, none, false, false, 0⟩
    else if 8 ≤ e.exc.frames.length ∨ e.exc.dframe.isSome then
      ⟨{ e with exc := { e.exc with due := e.exc.due ++ [⟨0x0F, e.pos.lastpc, false, false, first⟩] } }, false, none, false, false, 0⟩
    else ⟨enterSys k (ent % 8192) e, false, none, false, false, 2⟩

/-! ### The boundary after an issued bundle -/

/-- The exceptions that fall due at this boundary from the engine's own pending state: arithmetic traps merged into one
(R90), a late wait (R177) and store errors (R191). 0x08 names the trigger's bundle with INSLOT clear, also where that bundle stood in a delay slot.
[DESIGN CHOICE, log row 53] -/
def boundaryDue (e : Engine) : List Due :=
  let t := e.traps.filter fun t => t.left == 0
  (match t with
   | [] => []
   | t0 :: _ => [⟨0x08, t0.addr, t0.imprecise, false, t.any fun u => u.first⟩])
  ++ (match e.pos.late with
      | some a => if e.pos.kill = 0 ∧ e.pos.slot.isNone then [⟨0x07, a.1, false, false, a.2⟩] else []
      | none => [])
  ++ e.exc.keep

/-- The outcome of a timed wait at the boundary that follows its bundle (R110, R176): a hold is entered, or the wait is within its
tolerance, or late. While the follower cannot release, every wait holds (R174, R188). A wait that needs no hold is over here, also where an
arithmetic trap falls due at the same boundary (R90, R109): only a hold is taken again on return.
[DESIGN CHOICE, log rows 14 and 23]
[DESIGN CHOICE, log row 23; DESIGN CHOICE, log row 53] -/
def judgeWait (i : Inp) (e : Engine) : Engine × Option Nat :=
  match e.pos.arm with
  | none => (e, none)
  | some w =>
    let o := waitOutcome i.fin w.target w.tol
    let p : Pos := { e.pos with arm := none }
    if o = 0 ∨ i.rel = false then ({ e with pos := { p with wait := some { w with late := o == 2 }, missed := o != 0 } }, some o)
    else if o = 1 then ({ e with pos := p }, some 1)
    else ({ e with pos := { p with late := if i.lateFault then some (w.addr, w.first) else none } }, some 2)

/-- The end of an issued bundle: traps come nearer, the first-bundle count of a handler grows, and unless inserted bundles are
still to issue the boundary's exceptions fall due and a hold begins (R176). Past the bundle at 8,191 exception 0x09 falls due, unless
a return or a system call has led elsewhere (R121).
[DEDUCED, log row 14] -/
def endBundle (i : Inp) (e0 : Engine) : CtlOut :=
  let es := addSteps 1 (tickTraps e0)
  if es.pos.ins ≠ 0 then ⟨es, false, none, false, false, 0⟩
  else
    let (e1, wo) := judgeWait i es
    let first := isFirst e1.exc
    let e2 : Engine := { e1 with
      traps := e1.traps.filter fun t => t.left != 0
      pos := { e1.pos with
        ctl := .none
        late := if e1.pos.kill = 0 ∧ e1.pos.slot.isNone then none else e1.pos.late }
      exc := { e1.exc with
        due := boundaryDue e1
        keep := []
        fresh := e1.exc.fresh.bind fun f => if f.issued = 0 then some { f with issued := 1 } else none } }
    let c0 := applyCtl i e1.pos.ctl first e2
    let c := { c0 with wait := wo, late := c0.late || (wo == some 2 && e1.pos.wait.isNone) }
    let off : Bool := c.extra == 0 && !c.eng.exc.rfe && c.eng.pos.pc == 8192
    let e3 : Engine := { c.eng with exc := { c.eng.exc with
      due := if off then c.eng.exc.due ++ [⟨0x09, 8191, false, false, first⟩] else c.eng.exc.due } }
    { c with eng := { e3 with st := if e3.pos.wait.isSome ∧ e3.pos.kill = 0 ∧ e3.exc.due = [] ∧ e3.exc.rfe = false then .held else e3.st } }

/-! ### The program bundle -/

/-- The bundle at the position, from the loop buffer when it holds one (R136), and whether its parity is in error (R72). -/
def fetchBundle (e : Engine) : Bundle × Bool :=
  let mem := (kvGet idleBundle e.pmem e.pos.pc, e.pbad.any fun p => p.1 == e.pos.pc)
  match e.pos.loop with
  | some l =>
    match l.buf.find? fun p => p.1 == l.pos with
    | some p => (p.2, false)
    | none => mem
  | none => mem

/-- The program address reached by a program-window access of `n` bytes at window offset `off`: first and last bundle. -/
def progSpan (off n : Nat) : List Nat :=
  let a := off / 7
  let b := (off + n - 1) / 7
  if a = b then [a] else if a + 1 = b then [a, b] else [a, a + 1, b]

/-- R140: new entries of the program write buffer that a store needs. -/
def pwbNeeds (w : List PWrite) (off n : Nat) : Nat :=
  ((progSpan off n).filter fun a => !(w.any fun p => p.addr == a)).length

/-- One byte put into a bundle. -/
def setBundleByte (b : BitVec 56) (j : Nat) (v : Byte) : BitVec 56 :=
  (b &&& ~~~((0xFF#56) <<< (8 * j))) ||| ((v.setWidth 56) <<< (8 * j))

/-- R140: one byte written into the program write buffer. -/
def pwbByte (w : List PWrite) (off : Nat) (v : Byte) : List PWrite :=
  let a := off / 7
  let j := off % 7
  if w.any fun p => p.addr == a then
    w.map fun p => if p.addr = a then { p with mask := p.mask ||| 2 ^ j, data := setBundleByte p.data j v } else p
  else w ++ [⟨a, 2 ^ j, setBundleByte 0 j v⟩]

/-- R140: a store of `n` bytes into the program write buffer. -/
def pwbStore (w : List PWrite) (off : Nat) : Nat → BitVec 64 → List PWrite
  | 0, _ => w
  | n + 1, v => pwbStore (pwbByte w off (v.setWidth 8)) (off + 1) n (v >>> 8)

/-- A bundle with the bytes of a program write laid over it. -/
def overlay (b : BitVec 56) (p : PWrite) : BitVec 56 :=
  (List.range 7).foldl (fun a j => if p.mask.testBit j then setBundleByte a j ((p.data >>> (8 * j)).setWidth 8) else a) b

/-- The parcels that byte `j` of a bundle lies in. -/
def byteParcels (j : Nat) : List Nat := [8 * j / 14, (8 * j + 7) / 14]

/-- A program write covers a bit of a parcel: the parcel's parity is computed anew (R72). -/
def refreshes (p : PWrite) (k : Nat) : Bool := (List.range 7).any fun j => p.mask.testBit j && (byteParcels j).contains k

/-- R141: the pending entries applied to program memory; parity is computed on every write (R72). -/
def applyPwb (e : Engine) : Engine :=
  { e with
    pmem := e.pwb.foldl (fun m p => kvSet idleBundle m p.addr (overlay (kvGet idleBundle m p.addr) p)) e.pmem
    pbad := e.pbad.filter fun a => !(e.pwb.any fun p => p.addr == a.1 && refreshes p a.2)
    pwb := [] }

/-- R122: the target of a transfer to socket `d` with value `v` at address `a`, if it is in range. -/
def transferTarget (d a : Nat) (v : Word) : Option Nat :=
  if d = 50 then
    let t : Int := (a : Int) + v.toInt
    if 0 ≤ t ∧ t ≤ 8191 then some t.toNat else none
  else if v.toNat < 8192 then some v.toNat else none

/-- The executed cu move of a bundle: socket and value. -/
def cuMove (vs : List (Nat × Word)) : Option (Nat × Word) := vs.find? fun p => decide (49 ≤ p.1) && decide (p.1 ≤ 57)

/-- The faults of a cu trigger (R122, R126, R127, R132, R135, R137, R192, R209), as cause codes. -/
def cuFaults (e : Engine) (i : Inp) (d : Nat) (v : Word) : List Nat :=
  let a := e.pos.pc
  let isXfer := d == 49 || d == 50 || d == 51
  let isRep := d == 52 || d == 53
  let lastOfLoop := match e.pos.loop with | some l => l.pos + 1 == l.len | none => false
  (if e.pos.slot.isSome then [0x02] else [])
  ++ (if e.pos.rep.isSome then [0x0A] else [])
  ++ (if isXfer && (transferTarget d a v).isNone then [0x09] else [])
  ++ (if isXfer && e.slotFetch && a == 8191 then [0x09] else [])
  ++ (if isRep && a == 8191 then [0x09] else [])
  ++ (if isRep && a != 8191 && (v.toNat == 0 || decide (4096 < v.toNat) || (d == 53 && decide (i.atomicLim < v.toNat)) || lastOfLoop)
      then [0x0A] else [])
  ++ (if d == 54 && decide (8191 < a + loopLen v) then [0x09] else [])
  ++ (if e.pos.loop.isSome && (isXfer || d == 54 || d == 55 || (d == 57 && ctlCode v == 1)) then [0x0A] else [])
  ++ (if d == 57 && !e.exc.super then [0x05] else [])
  ++ (if d == 57 && (ctlCode v == 0 || decide (0x0F ≤ ctlCode v)) then [0x02] else [])
  ++ (if d == 57 && ctlCode v == 1 && e.exc.frames.isEmpty && e.exc.dframe.isNone then [0x02] else [])
  ++ (if d == 57 && ctlCode v == 6 &&
        (ctlArg v 8 9 == 0 || decide (i.atomicLim < ctlArg v 8 9) || e.exc.atomic.isSome) then [0x06] else [])

/-- The smallest of a list of cause codes, 0 when there is none (R190, R242). -/
def minCode : List Nat → Nat
  | [] => 0
  | c :: cs => let m := minCode cs; if m = 0 ∨ c ≤ m then c else m

/-- The faults found at issue (R46, R82, R113, R127, R132, R137, R191, R209), as one cause code, 0 = none. -/
def issueFault (e : Engine) (i : Inp) (b : Bundle) (bad : Bool) (ms : List Move) (vs : List (Nat × Word)) (lat : Latches)
    (ld st : AccRes) : Nat :=
  let reads := fun n => ms.any fun m => m.src == n
  let w := lsuWidth lat.lsuop
  let stores := (moved vs 46).isSome
  if bad then 0x0C else minCode (
    (if anyClash ms then [0x01] else [])
    ++ (if namesReserved b then [0x02] else [])
    ++ (if reads 31 && (ldqHead e).isNone then [0x03] else [])
    ++ (if reads 31 then (match i.lsu with | some (_, c) => if c = 0 then [] else [c] | none => []) else [])
    ++ (if stores && w == 3 && decide (24 ≤ lsuHreg lat.lsuop) then [0x02] else [])
    ++ (if (moved vs 45).isSome && ld.code != 0 then [ld.code] else [])
    ++ (if stores && st.code != 0 then [st.code] else [])
    ++ (match st.place with
        | .prog off => if stores && st.code == 0 && !lsuLock lat.lsuop && decide (16 < e.pwb.length + pwbNeeds e.pwb off (2 ^ w)) then [0x04] else []
        | _ => [])
    ++ (if (moved vs 61).isSome && badSend lat.xuto i.imgA i.imgB then [0x04] else [])
    ++ (if (moved vs 59).isSome && e.exc.atomic.isSome then [0x06] else [])
    ++ (if (moved vs 59).isSome && e.pos.rep.isSome then [0x0A] else [])
    ++ (match cuMove vs with | some (d, v) => cuFaults e i d v | none => []))

/-- The position after a bundle that no transfer follows: repeat, loop and delay slot in that order (R121, R126, R131,
R136). -/
def advance (p : Pos) (b : Bundle) (fromMem : Bool) : Pos :=
  let q := { p with lastpc := p.pc }
  match p.slot with
  | some s => { q with pc := s.target, slot := none }
  | none =>
    let more := match p.rep with | some r => decide (1 < r.rem) | none => false
    let q1 := { q with rep := match p.rep with | some r => if 1 < r.rem then some { r with rem := r.rem - 1 } else none | none => none }
    let buf (l : LoopSt) := if fromMem then l.buf ++ [(l.pos, b)] else l.buf
    if more then
      { q1 with loop := p.loop.map fun l => if (l.buf.any fun x => x.1 == l.pos) then l else { l with buf := buf l } }
    else
      match p.loop with
      | none => { q1 with pc := p.pc + 1 }
      | some l =>
        let nb := if (l.buf.any fun x => x.1 == l.pos) then l.buf else buf l
        if l.pos + 1 < l.len then { q1 with pc := p.pc + 1, loop := some { l with pos := l.pos + 1, buf := nb } }
        else if 1 < l.rem then { q1 with pc := l.start, loop := some { l with pos := 0, rem := l.rem - 1, buf := nb } }
        else { q1 with pc := l.start + l.len, loop := none }

/-- The engine after the cu trigger of its bundle, from the position of the bundle, and the compared transfer target
(R122 to R126, R131, R135, R141). -/
def cuEffect (e : Engine) (adv : Pos) (c : Option (Nat × Word)) : Engine × List Item :=
  let a := e.pos.pc
  match c with
  | none => ({ e with pos := adv }, [])
  | some (d, v) =>
    if d = 49 ∨ d = 50 ∨ d = 51 then
      let t := (transferTarget d a v).getD 0
      let e1 := if d = 51 then { e with lnk := (if e.slotFetch then a + 2 else a + 1) % 8192 } else e
      if e.slotFetch then ({ e1 with pos := { adv with pc := a + 1, slot := some ⟨a, t⟩ } }, [.target t])
      else ({ e1 with pos := { adv with pc := t, kill := 1 } }, [.target t])
    else if d = 52 ∨ d = 53 then
      if v.toNat = 1 then ({ e with pos := adv }, [])
      else ({ e with pos := { adv with rep := some ⟨a + 1, v.toNat, d == 53⟩, cntOwn := true } }, [])
    else if d = 54 then
      ({ e with pos := { adv with loop := some ⟨a + 1, loopLen v, loopCount v, 0, []⟩, cntOwn := true } }, [])
    else if d = 55 then
      ({ applyPwb e with pos := { adv with kill := 1 + (e.pwb.length + 3) / 4 } }, [])
    else if d = 56 then ({ e with pos := { adv with ctl := .sys (v.toNat % 16) } }, [])
    else ({ e with pos := { adv with ctl := .code v } }, [])

/-- The alu, bfu, mul and fpu triggers of a bundle: results, operations in flight and traps (R43, R88, R98, R102). -/
def unitEffect (e : Engine) (lat : Latches) (vs : List (Nat × Word)) (precise first : Bool) : Engine :=
  let a := e.pos.pc
  let aluQ (d : Nat) (o opl old : Word) : Word :=
    match moved vs d, moved vs (d + 1), moved vs (d + 2) with
    | some v, _, _ => v + o
    | none, some v, _ => v - o
    | none, none, some v => aluResult (opCode opl) v o
    | none, none, none => old
  let aluT (d : Nat) (o opl : Word) : List Trap :=
    match moved vs d with
    | some v => if aluTraps opl v o then [⟨if precise then 1 else 2, a, !precise, first⟩] else []
    | none => []
  let fp := (moved vs 42).map fun v => fpuResult lat.fpuop v lat.fpuo lat.fpuc
  { e with
    res := { e.res with
      alu0q := aluQ 25 lat.alu0o lat.alu0op e.res.alu0q
      alu1q := aluQ 30 lat.alu1o lat.alu1op e.res.alu1q
      bfuq := match moved vs 35 with | some v => bfuResult lat.bfuop v lat.bfuo | none => e.res.bfuq
      fpust := match moved vs 43 with | some v => if v.getLsbD 31 then 0#5 else e.res.fpust | none => e.res.fpust }
    mulP := match moved vs 38 with
      | some v => e.mulP ++ [⟨3, mulResult (lat.mulop.toNat % 16) (accumulator e) v lat.mulo⟩]
      | none => e.mulP
    fpuP := match fp with | some (q, f) => e.fpuP ++ [⟨4, q, f, (lat.fpuop >>> 16).setWidth 3⟩] | none => e.fpuP
    traps := e.traps ++ aluT 27 lat.alu0o lat.alu0op ++ aluT 32 lat.alu1o lat.alu1op
      ++ (match fp with
          | some (_, f) => if fpuTraps lat.fpuop f then [⟨4, a, !precise, first⟩] else []
          | none => []) }

/-- The lsu triggers of a bundle: a load takes queue entries, a store a buffer entry or the program write buffer; either may
be refused (R112, R116, R117, R140). A locked store to the program window goes to the buffer, and its sequence meets its error there (R283).
The Nat is the number refused. -/
def lsuEffect (e : Engine) (i : Inp) (lat : Latches) (vs : List (Nat × Word)) (g : Kv Word) (ld st : AccRes) :
    Engine × Nat × List Item × List OutItem :=
  let op := lat.lsuop
  let w := lsuWidth op
  match moved vs 45, moved vs 46 with
  | some v, _ =>
    let n := if w = 3 then 2 else 1
    if i.ldFree < n then (e, 1, [], [])
    else
      ({ e with
        ldq := e.ldq ++ [⟨ctxDepth e.exc, v, ld.place, w, lsuSx op, lsuLock op, lsuLast op, lsuDrain op, n, none, none, 0, false, e.lsuSeq, none⟩]
        lockOpen := (e.lockOpen || lsuLock op) && !lsuLast op
        lsuSeq := e.lsuSeq + 1 }, 0, [], [])
  | none, some v =>
    let data : BitVec 64 := if w = 3 then (kvGet 0#32 g (lsuHreg op) ++ v) else v.setWidth 64
    let it := Item.store lat.lsua w (lsuLock op) (lsuLast op) data
    match st.place, lsuLock op with
    | .prog off, false => ({ e with pwb := pwbStore e.pwb off (2 ^ w) data }, 0, [it], [])
    | _, _ =>
      if i.stFree = 0 ∧ ¬(lsuLock op = true ∧ e.lockOpen = true) then (e, 1, [], [])
      else
        ({ e with
          stb := e.stb ++ [⟨lat.lsua, st.place, w, data, lsuLock op, lsuLast op, e.pos.pc, false, e.lsuSeq, false⟩]
          lockOpen := (e.lockOpen || lsuLock op) && !lsuLast op
          lsuSeq := e.lsuSeq + 1 }, 0, [it], [.store])
  | none, none => (e, 0, [], [])

/-- The tu.wait trigger of the bundle at `a`, to be judged at the bundle's boundary (R176); in replay it passes (R225). -/
def waitEffect (e : Engine) (i : Inp) (lat : Latches) (vs : List (Nat × Word)) (a : Nat) (first : Bool) : Engine :=
  if (moved vs 59).isNone ∨ i.replay = true then e
  else { e with pos := { e.pos with arm := some ⟨targetTime i.now lat.tuat, i.tol, a, 0, first, false⟩ } }

/-- The inputs a bundle's moves sampled, as log records (Table 11-4). -/
def sampledOf (i : Inp) (ms : List Move) (refused : Nat) : List (Nat × Word) :=
  let reads := fun n => ms.any fun m => m.src == n
  (if reads 31 then [(0x01, (i.lsu.getD (0#32, 0)).1)] else [])
  ++ (if refused = 0 then [] else [(0x03, BitVec.ofNat 32 refused)])
  ++ (if reads 37 then [(0x04, i.xuq)] else [])
  ++ (if reads 38 then [(0x05, i.xulvl)] else [])
  ++ (if reads 34 then [(0x06, BitVec.ofNat 32 i.now)] else [])
  ++ (if reads 35 then [(0x07, BitVec.ofNat 32 (i.now / 4294967296))] else [])
  ++ (if reads 36 then [(0x08, i.cap)] else [])
  ++ (if reads 40 then [(0x09, i.estep)] else [])

/-- The outcome of a timed wait as a log record (Table 11-4). -/
def waitRec (w : Option Nat) : List (Nat × Word) := match w with | some o => [(0x0A, BitVec.ofNat 32 o)] | none => []

/-- Reads of the receive queue by an executed bundle: the head word leaves, an empty read sets UNDERFLOW, and a read of
xu.lvl clears the sticky bits (R58, R61). -/
def readRq (q : RecvQ) (pop lvl : Bool) : RecvQ :=
  { words := if pop then q.words.tail else q.words
    ovf := q.ovf && !lvl
    unf := (q.unf && !lvl) || (pop && q.words.isEmpty) }

/-- A fault raised at issue: the bundle has no effect and the exception is due (R46, R189); 0x0A under R132 abandons an active
repeat. `head`: a marked head of lsu.q raised it (R191). -/
def raiseAtIssue (c : Nat) (head : Bool) (e : Engine) : Engine :=
  { e with
    pos := { e.pos with rep := if c = 0x0A then none else e.pos.rep, relLim := none }
    exc := { e.exc with head := head, due := [⟨c, e.pos.pc, false, e.pos.slot.isSome, isFirst e.exc⟩] } }

/-- One program bundle issues in one step (R44). -/
def issueBundle (i : Inp) (acc : AccFn) (e0 : Engine) : IssueOut :=
  let e := tickPipes e0
  let (b, bad) := fetchBundle e
  let ms := execMoves b e.flag
  let readsLsu := ms.any fun m => m.src == 31
  if !bad && readsLsu && (ldqHead e).isSome && i.lsu.isNone then
    { IssueOut.only (addSteps 1 { e0 with
        heldLsu := true
        ctr := { e0.ctr with stallLsu := (e0.ctr.stallLsu + 1) % 2 ^ 32 } }) with stalled := true }
  else
    let vs := ms.map fun m => (m.dst, srcValue e i (litValue b) m.src)
    let lat := writeLatches e.lat vs
    let w := lsuWidth lat.lsuop
    let ld := match moved vs 45 with | some v => acc false v (2 ^ w) e.exc.super lat.lsuwin | none => AccRes.nil
    let st := match moved vs 46 with | some _ => acc true lat.lsua (2 ^ w) e.exc.super lat.lsuwin | none => AccRes.nil
    let c := issueFault e i b bad ms vs lat ld st
    if c ≠ 0 then
      let marked : Bool := !bad && readsLsu && (match i.lsu with | some (_, k) => k == c | none => false)
      { IssueOut.only (raiseAtIssue c marked { e0 with heldLsu := false }) with
        ld := ld
        st := st
        sampled := match i.lsu with
          | some (_, k) => if !bad && readsLsu && k != 0 then [(0x02, BitVec.ofNat 32 k)] else []
          | none => [] }
    else
      let first := isFirst e.exc
      let precise := e.exc.precise
      let heavy := (if (moved vs 38).isSome then 1 else 0) + (if (moved vs 42).isSome then 1 else 0)
      let relLate := match e.pos.relLim with | some t => decide (t < i.now) | none => false
      let e1 := unitEffect { e with heldLsu := false } lat vs precise first
      let (e2, refused, itS, outS) := lsuEffect
        { e1 with ldq := if readsLsu then ldqPop (ctxDepth e.exc) e1.ldq else e1.ldq } i lat vs e.g ld st
      let e3 : Engine := { e2 with
        lat := lat
        g := writeRegs e.g vs
        flag := match moved vs 62 with | some v => v.getLsbD 0 | none => e.flag
        rq := readRq e.rq (ms.any fun m => m.src == 37) (ms.any fun m => m.src == 38) }
      let inBuf := match e.pos.loop with | some l => l.buf.any fun p => p.1 == l.pos | none => false
      let (e4, itT) := cuEffect e3 (advance { e.pos with relLim := none } b (!inBuf)) (cuMove vs)
      let e5 := waitEffect e4 i lat vs e.pos.pc first
      let e6 : Engine := if precise ∧ (moved vs 42).isSome then { e5 with pos := { e5.pos with ins := 3 } } else e5
      let r := endBundle i e6
      let stamp := if xuStamp lat.xuto then some (targetTime i.now lat.tuat) else none
      let itX : List Item := match moved vs 61 with | some v => [.send lat.xuto v stamp] | none => []
      let outX : List OutItem := match moved vs 61 with | some v => [.send ⟨lat.xuto, v, stamp⟩] | none => []
      let itR := (vs.filter fun p => decide (p.1 < 24)).map fun p => Item.reg p.1 p.2
      let itG : List Item := if r.eng.flag = e.flag then [] else [.flag r.eng.flag]
      { eng := r.eng
        items := itR ++ itG ++ itT ++ itS ++ itX
          ++ (if r.extra = 0 then [] else [.target r.eng.pos.pc])
        outs := outS ++ outX
        heavy := heavy
        first := first
        refused := refused
        sampled := sampledOf i ms refused ++ waitRec r.wait
        late := r.late || relLate
        mark := r.mark
        restart := r.restart
        issued := true
        stalled := false
        extra := r.extra
        ld := ld
        st := st }

/-- One step of an issuing engine: a killed bundle, an inserted bundle or a program bundle (R110, R125). -/
def issueStep (i : Inp) (acc : AccFn) (e : Engine) : IssueOut :=
  let wrap (r : CtlOut) : IssueOut :=
    { IssueOut.only r.eng with
      issued := true, late := r.late, mark := r.mark, restart := r.restart, extra := r.extra, sampled := waitRec r.wait
      items := (if r.eng.flag = e.flag then [] else [.flag r.eng.flag]) ++ (if r.extra = 0 then [] else [.target r.eng.pos.pc]) }
  if e.pos.ins ≠ 0 then wrap (endBundle i { tickPipes e with pos := { e.pos with ins := e.pos.ins - 1 } })
  else if e.pos.kill ≠ 0 then wrap (endBundle i { tickPipes e with pos := { e.pos with kill := e.pos.kill - 1 } })
  else issueBundle i acc e

end Sys2Proof.Machine
end

