-- ==== Sys2Proof/Machine/Memory.lean ====
section
/-! DEFINITION. Machine/Memory.lean: the address maps, the check of an engine's access, and the accesses themselves (chapter 12,
R113 to R120, R281, R339, R340). -/

namespace Sys2Proof.Machine

/-! ### The device physical map (Table 12-3) -/

/-- First physical address of the shelves. -/
def paShelf : Nat := 0x1000000000
/-- First physical address of the boot ROM. -/
def paRom : Nat := 0x1020000000
/-- First physical address of the process images and queues. -/
def paImg : Nat := 0x1030000000

/-- What lies at a physical byte address. -/
inductive PKind where
  | dram
  /-- bank number 8t + b and bank offset -/
  | shelf (bank off : Nat)
  | rom (off : Nat)
  /-- ring, output image, offset -/
  | image (r : Nat) (out : Bool) (off : Nat)
  | cap (q off : Nat)
  | recv (n off : Nat)
  | acyc (r off : Nat)
  | absent
  deriving DecidableEq, Repr

/-- device.dram.size (R2). -/
def dramSize : Nat := if Config.m8i then 0x200000000 else 0x100000000

/-- Table 12-4: what lies at an offset of the process-image and queue region, but for the own-queue view. -/
def imgKind (o : Nat) : PKind :=
  if o < 0x40000 then .image (o / 0x20000) (o / 0x10000 % 2 == 1) (o % 0x10000)
  else if 0x100000 ≤ o ∧ o < 0x101100 then .cap ((o - 0x100000) / 0x100) (o % 0x100)
  else if 0x300000 ≤ o ∧ o < 0x300400 then .recv ((o - 0x300000) / 4) (o % 4)
  else if 0x400000 ≤ o ∧ o < 0x420000 then .acyc ((o - 0x400000) / 0x10000) (o % 0x10000)
  else .absent

/-- Table 12-3. -/
def physKind (pa : Nat) : PKind :=
  if pa < dramSize then .dram
  else if paShelf ≤ pa ∧ pa < paShelf + 0x1000000 then .shelf ((pa - paShelf) / 0x10000) ((pa - paShelf) % 0x10000)
  else if paRom ≤ pa ∧ pa < paRom + 0x10000 then .rom (pa - paRom)
  else if paImg ≤ pa ∧ pa < paImg + 0x10000000 then imgKind (pa - paImg)
  else .absent

/-- The pair that may stage segments on ring r follows a migration (R378): the taker's number, where one took over. -/
def followTaker (s : State) (m : Nat) : Nat :=
  match (getPair s m).taker with
  | some k => k
  | none => m

/-- Whether engine n, or 256 for another master, may stage on ring r (R378). -/
def mayStage (s : State) (r n : Nat) : Bool :=
  let o := valGet s (cRing r 0x0F)
  decide (n < 256) && decide (o < 128) && pairOf n == o

/-- The right of an access of `n` bytes at `pa` to the byte `pa + i`: 0 allowed, else cause code 0x04. `who` is the engine, 256
for another master and 257 for the debug port, which alone reaches the checkpoint part of bank 7 (R244). -/
def physByteCode (s : State) (store : Bool) (who pa n i : Nat) : Nat :=
  let aligned := pa % n == 0
  match physKind (pa + i) with
  | .dram => 0
  | .shelf b off =>
    if b % 8 = 7 ∧ ((0x4000 ≤ off ∧ who ≠ 257) ∨ (off < 0x4000 ∧ valGet s (cTile (b / 8) 0x41) = 1)) then 4 else 0
  | .rom _ => if store then 4 else 0
  | .image r out off =>
    if store ∧ out = false then 4
    else if off < valGet s (cRing r (if out then 0x0A else 0x09)) then 0 else 4
  | .cap _ off =>
    if store ∨ aligned = false then 4
    else if off < 0x10 ∨ (0x20 ≤ off ∧ off < 0x30) then (if n = 4 ∨ n = 8 then 0 else 4)
    else if 0x10 ≤ off ∧ off < 0x14 then (if n = 4 then 0 else 4)
    else 4
  | .recv _ _ => if store ∧ aligned = true ∧ n = 4 then 0 else 4
  | .acyc r off =>
    if aligned = false then 4
    else if off < 0x100 ∨ (0x200 ≤ off ∧ off < 0x300) then (if store = false ∧ (n = 4 ∨ n = 8) then 0 else 4)
    else if 0x100 ≤ off ∧ off < 0x104 then (if store = false ∧ n = 4 then 0 else 4)
    else if 0x1000 ≤ off ∧ off < 0x1100 then
      (if (n = 4 ∨ n = 8) ∧ (store = false ∨ mayStage s r who = true) then 0 else 4)
    else if 0x1100 ≤ off ∧ off < 0x1104 then
      (if n = 4 ∧ (store = false ∨ mayStage s r who = true) then 0 else 4)
    else 4
  | .absent => 4

/-- The right of a whole physical access: 0 allowed, else 4 (R245). -/
def physCode (s : State) (store : Bool) (who pa n : Nat) : Nat :=
  minCode (((List.range n).map fun i => physByteCode s store who pa n i).filter fun c => c != 0)

/-! ### The engine address map (Table 12-1) -/

/-- Number of the region of Table 12-1 that holds an address, 99 = none. -/
def regionOf (a : Nat) : Nat :=
  if a < 0x10000 then 0
  else if 0x08000000 ≤ a ∧ a < 0x08080000 then 1
  else if 0x10000000 ≤ a ∧ a < 0x11000000 then 2
  else if 0x20000000 ≤ a ∧ a < 0x30000000 then 3
  else if 0x30000000 ≤ a ∧ a < 0x40000000 then 4
  else if 0x40000000 ≤ a ∧ a < 0x4000E000 then 5
  else if 0xE0000000 ≤ a ∧ a < 0xE0004000 then 6
  else if 0xF0000000 ≤ a ∧ a < 0xF8000000 then 7
  else 99

/-- Call number of a control-window offset (R338). -/
def windowCall (off : Nat) : Nat := callNo (off / 2048) (off / 8 % 256)

/-- R340: the entries that task mode may write through the window. -/
def taskWritable (s : State) (call : Nat) : Bool :=
  call == callNo 0x1400 3 || call == callNo 0x1400 4 || (s.cat.folio.any fun e => e.call == call && e.taskw)

/-- Translation of R246: the place of an engine address. -/
def placeOf (s : State) (n a : Nat) (win : Word) : Place :=
  let t := tileOf n
  match regionOf a with
  | 0 => .phys (if valGet s (cTile t 0x40) = 1 then paShelf + t * 0x80000 + a else paRom + a)
  | 1 => .phys (paShelf + t * 0x80000 + (a - 0x08000000))
  | 2 => .phys (paShelf + (a - 0x10000000))
  | 3 => .phys (win.toNat % 32 * 0x10000000 + (a - 0x20000000))
  | 4 => if a / 8 = 0x30200000 / 8 then .ownq (a - 0x30200000) else .phys (paImg + (a - 0x30000000))
  | 5 => .prog (a - 0x40000000)
  | 6 => .phys (paShelf + t * 0x80000 + 0x70000 + (a - 0xE0000000))
  | _ => .cat (a - 0xF0000000)

/-- Table 12-1: the code of the byte at `a + i` of an access of `len` bytes (R113, R242). -/
def engByteCode (s : State) (n : Nat) (store : Bool) (a len : Nat) (super : Bool) (win : Word) (i : Nat) : Nat :=
  let b := a + i
  let phys : Nat :=
    match placeOf s n b win, placeOf s n a win with
    | .phys pb, .phys p0 => if pb = p0 + i then physByteCode s store n p0 len i else 4
    | _, _ => 4
  if regionOf b ≠ regionOf a then 4
  else
    match regionOf b with
    | 0 => if valGet s (cTile (tileOf n) 0x40) = 1 then phys else if super then phys else 5
    | 1 => phys
    | 2 => phys
    | 3 => phys
    | 4 =>
      if b / 8 = 0x30200000 / 8 then (if store = false ∧ len = 4 ∧ a % 4 = 0 then 0 else 4) else phys
    | 5 => if super then 0 else 5
    | 6 => if valGet s (cTile (tileOf n) 0x41) = 1 then (if super then 0 else 5) else 4
    | 7 =>
      if a % len ≠ 0 then 4
      else if store ∧ super = false ∧ taskWritable s (windowCall (a - 0xF0000000)) = false then 5 else 0
    | _ => 4

/-- The address check of an access (R113, R242), for engine n. -/
def accessCheck (s : State) (n : Nat) : AccFn := fun store addr len super win =>
  ⟨minCode (((List.range len).map fun i => engByteCode s n store addr.toNat len super win i).filter fun c => c != 0),
   placeOf s n addr.toNat win⟩

/-! ### Bytes and check bits -/

/-- `n` bytes of memory from a physical address, little-endian (R11). -/
def memRead (s : State) (pa : Nat) : Nat → Nat
  | 0 => 0
  | n + 1 => (kvGet 0#8 s.mem.bytes pa).toNat + 256 * memRead s (pa + 1) n

/-- `n` bytes of a value written from a physical address. -/
def memBytesWrite (m : Kv Byte) (pa : Nat) : Nat → Nat → Kv Byte
  | 0, _ => m
  | n + 1, v => memBytesWrite (kvSet 0#8 m pa (BitVec.ofNat 8 v)) (pa + 1) n (v / 256)

/-- The state after bytes are written to memory. -/
def memWrite (pa n v : Nat) (s : State) : State := { s with mem := { s.mem with bytes := memBytesWrite s.mem.bytes pa n v } }

/-- Bank number of a shelf word, and its tile-relative byte offset. -/
def wordBank (w : Nat) : Nat := (8 * w - paShelf) / 0x10000
/-- Tile-relative byte offset of a shelf word (R250). -/
def wordTileOff (w : Nat) : Nat := (8 * w - paShelf) % 0x80000

/-- Spare columns of a bank that are in use or being filled (R263). -/
def sparesUsed (s : State) (b : Nat) : Nat :=
  (s.mem.cols.filter fun c => c.1 == b).length + (s.mem.fills.filter fun c => c.1 == b).length

/-- A column found faulty, or a spare that stands in for it, begins filling a free spare column, or logs event 0x43 (R264, R265). -/
def columnFault (b c : Nat) (s : State) : State :=
  if s.mem.fills.contains (b, c) then s
  else if sparesUsed s b < 4 then { s with mem := { s.mem with fills := s.mem.fills ++ [(b, c)] } }
  else logEvent 0x43 false b c 0 s

/-- A single-bit error corrected in a shelf word: counted, its column noted (R250, R264). -/
def correctShelf (w c : Nat) (s : State) : State :=
  let b := wordBank w
  let s1 := bump (cTile (b / 8) 0x44) 1 32 s
  let hits := if s1.mem.hits.contains (b, c, w) then s1.mem.hits else s1.mem.hits ++ [(b, c, w)]
  let s2 := { s1 with mem := { s1.mem with hits := hits } }
  if 3 ≤ (hits.filter fun h => h.1 == b && h.2.1 == c).length then columnFault b c s2 else s2

/-- A word is read and its check bits are checked (R250, R267). The Nat is the error code, 0 or 0x0C.
[DESIGN CHOICE, log row 24] -/
def eccWord (w : Nat) (s : State) : Nat × State :=
  let shelf := decide (paShelf ≤ 8 * w)
  let c := kvGet 0 s.mem.one w
  if s.mem.bad.contains w then
    if shelf then
      let b := wordBank w
      (0x0C, logEvent 0x40 false b (wordTileOff w) 0
        (valPut (cTile (b / 8) 0x46) (wordTileOff w) (bump (cTile (b / 8) 0x45) 1 32 s)))
    else
      let s1 := valPut (callNo 0x1900 4) (8 * w) (bump (callNo 0x1900 3) 1 32 s)
      (0x0C, { s1 with mem := { s1.mem with chErr := s1.mem.chErr ++ [(w / 32 % 8, s.up)] } })
  else if c ≠ 0 then
    if shelf then
      let s1 := correctShelf w (c - 1) s
      (0, if s1.mem.wback.contains w then s1 else { s1 with mem := { s1.mem with wback := s1.mem.wback ++ [w] } })
    else
      let s1 := bump (callNo 0x1900 2) 1 32 s
      (0, { s1 with mem := { s1.mem with one := kvSet 0 s1.mem.one w 0 } })
  else (0, s)

/-- The check bits of every word of an access.
[DESIGN CHOICE, log row 24] -/
def eccWords : List Nat → State → Nat × State
  | [], s => (0, s)
  | w :: ws, s =>
    let r := eccWord w s
    let q := eccWords ws r.2
    (max r.1 q.1, q.2)

/-- A word takes fresh check bits (R251, R267). -/
def eccClean (w : Nat) (s : State) : State :=
  { s with mem := { s.mem with bad := s.mem.bad.filter (fun x => x != w), one := kvSet 0 s.mem.one w 0,
                               wback := s.mem.wback.filter fun x => x != w } }

/-- Bytes of a store that fall into word w. -/
def partOf (pa n w : Nat) : Nat := min (pa + n) (8 * w + 8) - max pa (8 * w)

/-- The part of a store that falls into word w: merged after its check bits are read, or written whole without a read; a merge
into an uncorrectable word is not performed (R251, R267). -/
def storeWord (pa n v w : Nat) (s : State) : Nat × State :=
  let lo := max pa (8 * w)
  let k := partOf pa n w
  let r := if k = 8 then (0, s) else eccWord w s
  if r.1 = 0 then (0, memWrite lo k (v / 256 ^ (lo - pa)) (eccClean w r.2)) else r

/-! ### Readiness of a target -/

/-- An access wakes a bank or a domain in retention and waits for it; one that is off answers with an error (R253, R272). 0 ready,
1 waits, 2 error. -/
def bankReady (s : State) (b : Nat) : Nat :=
  if b % 8 = 7 ∧ s.mem.wipe.isSome then 1
  else match kvGet 0 s.mem.bank b with
    | 0 => 0
    | 2 => 2
    | _ => 1

/-- The state after an access meets a bank in retention: it wakes (R253). -/
def wakeBank (b : Nat) (s : State) : State :=
  if kvGet 0 s.mem.bank b = 1 then { s with mem := { s.mem with bank := kvSet 0 s.mem.bank b 3 } } else s

/-- Readiness of DRAM for an address: initialised, its channel in service, its interface on (R268, R269, R272). -/
def dramReady (s : State) (pa : Nat) : Nat :=
  if valGet s (callNo 0x1900 8) = 0 then 1
  else if (valGet s (callNo 0x1900 1)).testBit (pa / 256 % 8) = false then 2
  else match kvGet 0 s.power.dom 4 with
    | 0 => 0
    | 2 => 2
    | _ => 1

/-- The DRAM interface wakes for an access (R272). -/
def wakeDram (s : State) : State :=
  if kvGet 0 s.power.dom 4 = 1 then { s with power := { s.power with dom := kvSet 0 s.power.dom 4 3 } } else s

/-- Readiness of the target of one byte. -/
def byteReady (s : State) (a : Nat) : Nat :=
  match physKind a with
  | .dram => dramReady s a
  | .shelf b _ => bankReady s b
  | .absent => 2
  | _ => 0

/-- The parts of an access, the lower one first: an access that crosses an 8-byte boundary is split there (R115). -/
def accParts (pa n : Nat) : List (Nat × Nat) :=
  if pa / 8 = (pa + n - 1) / 8 then [(pa, n)] else [(pa, 8 - pa % 8), (pa + (8 - pa % 8), n - (8 - pa % 8))]

/-- A part of the access waits for its target. -/
def physWaits (s : State) (pa n : Nat) : Bool := (accParts pa n).any fun p => byteReady s p.1 == 1

/-- The domains an access meets in retention wake. -/
def physWake (pa n : Nat) (s : State) : State :=
  (accParts pa n).foldl (fun a p => match physKind p.1 with | .dram => wakeDram a | .shelf b _ => wakeBank b a | _ => a) s

/-! ### Queue views and images -/

/-- Bytes of a capture record (Table 09-8). -/
def capBytes (q : Nat) (r : Nat × Bool × Nat) : List Byte :=
  leBytes 8 r.1 ++ leBytes 8 ((if r.2.1 then 1 else 0) + 256 * q + 65536 * (r.2.2 % 65536))

/-- What a load of a capture-queue view returns (R248). -/
def capRead (s : State) (q off n : Nat) : Nat :=
  let c := getCap s q
  if off = 0x10 then c.recs.length
  else match c.recs with
    | [] => 0
    | r :: _ => fieldAt (capBytes q r) (off % 0x10) n

/-- Free places for staged segments of ring r (Table 16-11). -/
def stageFree (x : RingSt) : Nat := 16 - (x.txq.filter fun g => g.origin == 0).length

/-- What a load of the acyclic region returns (Table 16-11). -/
def acycRead (s : State) (r off n : Nat) : Nat :=
  let x := getRing s r
  if off < 0x100 then fieldAt (x.rx.headD []) off n
  else if off = 0x100 then x.rx.length
  else if 0x200 ≤ off ∧ off < 0x300 then fieldAt (x.rx.headD []) (off - 0x200) n
  else if off = 0x1100 then stageFree x
  else leNat ((List.range n).map fun i => kvGet 0#8 x.stage (off - 0x1000 + i))

/-- The removal that a load performs (R248, R378). -/
def viewPop (k : PKind) (n : Nat) (s : State) : State :=
  match k with
  | .cap q off =>
    if 0x20 ≤ off ∧ off + n = 0x30 then setCap q { getCap s q with recs := (getCap s q).recs.tail } s else s
  | .acyc r off => if 0x200 ≤ off ∧ off + n = 0x300 then modRing r (fun x => { x with rx := x.rx.tail }) s else s
  | _ => s

/-- A segment waits for a peer: it takes the next XID to it (R374). -/
def queueSeg (r peer : Nat) (bytes : List Byte) (origin : Nat) (s : State) : State :=
  modRing r (fun x =>
    let xid := kvGet 0 x.xidOut peer
    { x with txq := x.txq ++ [⟨peer, bytes, xid, 0, 0, origin⟩], xidOut := kvSet 0 x.xidOut peer ((xid + 1) % 256) }) s

/-- Kinds whose responses a staged segment expects in the receive queue (R378).
[DESIGN CHOICE, log row 36] -/
def expectsAnswer (k : Nat) : Bool := k == 1 || k == 2 || k == 3 || k == 0x10

/-- A store to the transmit word queues the staged segment (R378). -/
def acycTransmit (r dest : Nat) (s : State) : State :=
  let x := getRing s r
  if stageFree x = 0 then bump (cRing r 0x1B) 1 32 s
  else
    let hdr := (List.range 8).map fun i => kvGet 0#8 x.stage i
    let n := min (fieldAt hdr 6 2) 248
    let src := if valGet s (cRing r 1) = 1 then 0 else valGet s (cRing r 5)
    let body := (List.range n).map fun i => kvGet 0#8 x.stage (8 + i)
    let seg := BitVec.ofNat 8 (fieldAt hdr 0 1) :: BitVec.ofNat 8 src :: (hdr.drop 2 ++ body)
    let s1 := queueSeg r dest seg 0 s
    if expectsAnswer (fieldAt hdr 0 1) then
      modRing r (fun y => { y with staged := y.staged ++ [(dest, if fieldAt hdr 0 1 = 0x10 then 16777216 else leNat (body.take 4) % 16777216)] }) s1
    else s1

/-- Targets an access reaches. -/
def targetsOf (p : Place) (n : Nat) : List Nat :=
  match p with
  | .phys a =>
    [a, a + n - 1].filterMap fun b => match physKind b with
      | .shelf k _ => some k
      | .dram => some (1000 + b / 256 % 8)
      | _ => none
  | _ => []

/-! ### Accesses at a physical address -/

/-- What an access answers: `ok` while the target served it, else it waits; the error code and the value. -/
structure AccOut where
  ok : Bool
  err : Nat
  value : Nat
  st : State

/-- An access that an error response answers (R281). -/
def accError (s : State) : AccOut := ⟨true, 0x0D, 0, bump (callNo 0x1920 5) 1 32 s⟩

/-- A part of a read at a target that serves it (R245 to R250, R267). -/
def readPart (pa n : Nat) (s : State) : AccOut :=
  if byteReady s pa = 2 then accError s
  else
    match physKind pa with
    | .dram => let r := eccWord (pa / 8) s; ⟨true, r.1, if r.1 = 0 then memRead s pa n else 0, r.2⟩
    | .shelf _ _ => let r := eccWord (pa / 8) s; ⟨true, r.1, if r.1 = 0 then memRead s pa n else 0, r.2⟩
    | .rom off => ⟨true, 0, leNat ((List.range n).map fun i => Config.rom (off + i)), s⟩
    | .image r out off =>
      let x := getRing s r
      ⟨true, 0, leNat ((List.range n).map fun i => kvGet 0#8 (if out then x.imgOut else x.imgIn) (off + i)), s⟩
    | .cap q off => ⟨true, 0, capRead s q off n, viewPop (.cap q off) n s⟩
    | .acyc r off => ⟨true, 0, acycRead s r off n, viewPop (.acyc r off) n s⟩
    | _ => accError s

/-- A part of a write at a target that serves it, by engine `who`, 257 for the debug port, or 512 + c for transfer channel c. -/
def writePart (who pa n v : Nat) (s : State) : AccOut :=
  if byteReady s pa = 2 then accError s
  else
    let mem : AccOut := let r := storeWord pa n v (pa / 8) s; ⟨true, r.1, 0, r.2⟩
    match physKind pa with
    | .dram => mem
    | .shelf _ _ => mem
    | .image r true off => ⟨true, 0, 0, imageApply r off n v s⟩
    | .recv k _ =>
      let w : XuWord := ⟨min who 256, k, BitVec.ofNat 32 v, none, if 512 ≤ who then some (who - 512) else none⟩
      ⟨true, 0, 0, { s with net := { s.net with flights := s.net.flights ++ [w] } }⟩
    | .acyc r off =>
      if off = 0x1100 then ⟨true, 0, 0, acycTransmit r (v % 256) s⟩
      else ⟨true, 0, 0, modRing r (fun x => { x with stage := memBytesWrite x.stage (off - 0x1000) n v }) s⟩
    | _ => accError s

/-- The parts of a read in order, each performed whether or not another meets an error (R115). -/
def readParts : List (Nat × Nat) → State → AccOut
  | [], s => ⟨true, 0, 0, s⟩
  | p :: t, s =>
    let r := readPart p.1 p.2 s
    let q := readParts t r.st
    ⟨true, max r.err q.err, r.value + 256 ^ p.2 * q.value, q.st⟩

/-- The parts of a write in order, each performed whether or not another meets an error (R115). -/
def writeParts (who : Nat) : List (Nat × Nat) → Nat → State → AccOut
  | [], _, s => ⟨true, 0, 0, s⟩
  | p :: t, v, s =>
    let r := writePart who p.1 p.2 (v % 256 ^ p.2) s
    let q := writeParts who t (v / 256 ^ p.2) r.st
    ⟨true, max r.err q.err, 0, q.st⟩

/-- A read of `n` bytes at a physical address: it waits while a part's target does.
[DESIGN CHOICE, log row 24] -/
def readPhys (pa n : Nat) (s : State) : AccOut :=
  if physWaits s pa n then ⟨false, 0, 0, physWake pa n s⟩
  else
    let r := readParts (accParts pa n) s
    { r with value := if r.err = 0 then r.value else 0 }

/-- A write of `n` bytes at a physical address: it waits while a part's target does.
[DESIGN CHOICE, log row 24] -/
def writePhys (who pa n v : Nat) (s : State) : AccOut :=
  if physWaits s pa n then ⟨false, 0, 0, physWake pa n s⟩ else writeParts who (accParts pa n) v s

end Sys2Proof.Machine
end

