-- ==== Sys2Proof/Machine/Slot.lean ====
section
/-! DEFINITION. Machine/Slot.lean: the checkpoint slots and the input logs as bytes of bank 7 (R222, R223, Tables 11-3 and 11-4). -/

namespace Sys2Proof.Machine

/-! ### Latches, results and load-queue entries as words -/

/-- The latches in the order of LATCH of Table 11-3. -/
def latchList (l : Latches) : List Word :=
  [l.alu0o, l.alu0op, l.alu1o, l.alu1op, l.bfuo, l.bfuop, l.mulo, l.mulop, l.fpuo, l.fpuc, l.fpuop, l.lsua, l.lsuop, l.lsuwin, l.tuat, l.xuto]

/-- Reserved bits of a latch read 0 (R14): the bits that its tables define, by place in LATCH.
[DESIGN CHOICE, log row 40] -/
def latchMask (k : Nat) : Word :=
  match k with
  | 1 => 0x33F#32
  | 3 => 0x33F#32
  | 5 => 0xFFFF1F3F#32
  | 7 => 0xF#32
  | 10 => 0x0007073F#32
  | 12 => 0x1F3F#32
  | 13 => 0x1F#32
  | _ => 0xFFFFFFFF#32

/-- The defined bits of an xu.to value, which follow its KIND (Table 03-4). -/
def xutoMask (v : Word) : Word :=
  match v.toNat / 2 ^ 30 with
  | 0 => 0xE00000FF#32
  | 1 => 0xFC00FFFF#32
  | 2 => 0xE000000F#32
  | _ => 0xE000FFFF#32

/-- Latch k as read.
[DESIGN CHOICE, log row 40] -/
def latchRead (l : Latches) (k : Nat) : Word :=
  if k = 15 then l.xuto &&& xutoMask l.xuto else (latchList l).getD k 0#32 &&& latchMask k

/-- Latch k replaced. -/
def latchWrite (l : Latches) (k : Nat) (v : Word) : Latches :=
  match k with
  | 0 => { l with alu0o := v }
  | 1 => { l with alu0op := v }
  | 2 => { l with alu1o := v }
  | 3 => { l with alu1op := v }
  | 4 => { l with bfuo := v }
  | 5 => { l with bfuop := v }
  | 6 => { l with mulo := v }
  | 7 => { l with mulop := v }
  | 8 => { l with fpuo := v }
  | 9 => { l with fpuc := v }
  | 10 => { l with fpuop := v &&& 0x7FFFFFFF#32 }
  | 11 => { l with lsua := v }
  | 12 => { l with lsuop := v }
  | 13 => { l with lsuwin := v }
  | 14 => { l with tuat := v }
  | 15 => { l with xuto := v }
  | _ => l

/-- Result k in the order of RESULT of Table 11-3, without cu.lnk. -/
def resultRead (r : Results) (k : Nat) : Word :=
  match k with
  | 0 => r.alu0q
  | 1 => r.alu1q
  | 2 => r.bfuq
  | 3 => r.mul.setWidth 32
  | 4 => (r.mul >>> 32).setWidth 32
  | 5 => r.fpuq
  | _ => r.fpust.setWidth 32

/-- Result k replaced. -/
def resultWrite (r : Results) (k : Nat) (v : Word) : Results :=
  match k with
  | 0 => { r with alu0q := v }
  | 1 => { r with alu1q := v }
  | 2 => { r with bfuq := v }
  | 3 => { r with mul := (r.mul &&& 0xFFFFFFFF00000000#64) ||| v.setWidth 64 }
  | 4 => { r with mul := (r.mul &&& 0x00000000FFFFFFFF#64) ||| (v.setWidth 64 <<< 32) }
  | 5 => { r with fpuq := v }
  | 6 => { r with fpust := v.setWidth 5 }
  | _ => r

/-- The load-queue entries of a unit context, oldest first: returned, data or address, WIDTH and SX.
[DESIGN CHOICE, log row 16] -/
def ctxEntries (e : Engine) (ctx : Nat) : List (Bool × Word × Nat) :=
  ((e.ldq.filter fun l => l.ctx == ctx && !l.drop).map fun l =>
    match l.data with
    | some ws => ws.map fun w => (true, w, l.width + 4 * bitAt l.sx 0)
    | none => List.replicate l.left (false, l.addr, l.width + 4 * bitAt l.sx 0)).flatten.take 8

/-! ### A slot's contents (Table 11-3) -/

/-- What a slot records. -/
structure Ckpt where
  capture : Nat
  outseq : Nat
  pc : Nat
  flag : Bool
  super : Bool
  precise : Bool
  mask : Nat
  run : Nat
  /-- vector base, an address -/
  vbase : Nat
  g : List Word
  /-- LATCH and RESULT in the order of the table, cu.lnk last -/
  lat : List Word
  res : List Word
  loop : Option LoopSt
  rep : Option RepSt
  /-- load-queue entries, oldest first: returned, data or address, WIDTH and SX -/
  lq : List (Bool × Word × Nat)
  /-- address, + 8192 when enabled -/
  sysent : List Nat
  irqen : BitVec 32
  irqpend : BitVec 32
  irqlvl : List Nat

/-- What a capture records of an engine at its boundary: no frame is occupied there (R221).
[DESIGN CHOICE, log row 16] -/
def ckptOf (p : Pair) (e : Engine) : Ckpt :=
  { capture := (p.captures + 1) % 2 ^ 32, outseq := p.outseq, pc := e.pos.pc, flag := e.flag, super := e.exc.super, precise := e.exc.precise,
    mask := e.exc.mask, run := e.exc.run, vbase := e.exc.vbase, g := (List.range 24).map fun n => kvGet 0#32 e.g n
    lat := (List.range 16).map fun k => latchRead e.lat k
    res := ((List.range 7).map fun k => resultRead e.res k) ++ [BitVec.ofNat 32 e.lnk]
    loop := e.pos.loop.map fun l => { l with buf := [] }, rep := e.pos.rep, lq := ctxEntries e (ctxDepth e.exc)
    sysent := (List.range 16).map fun k => kvGet 0 e.exc.sysent k, irqen := e.exc.irqen, irqpend := e.exc.irqpend
    irqlvl := (List.range 32).map fun k => kvGet 0 e.exc.irqlvl k }

/-- Words of 32 bits joined, the first one lowest. -/
def joinWords : List Word → Nat
  | [] => 0
  | w :: t => w.toNat + 4294967296 * joinWords t

/-- Bits [2495:0] of a slot (Table 11-3). -/
def ckptBits (c : Ckpt) : Nat :=
  c.capture % 2 ^ 32 + 2 ^ 32 * (c.outseq % 2 ^ 32) + 2 ^ 64 * (c.pc % 8192) + bitAt c.flag 77 + bitAt c.super 78 + bitAt c.precise 79
  + 2 ^ 80 * (c.mask % 32) + 2 ^ 85 * (c.run % 32) + 2 ^ 90 * (c.vbase / 128 % 64)
  + 2 ^ 128 * joinWords c.g + 2 ^ 896 * joinWords c.lat + 2 ^ 1408 * joinWords c.res
  + (match c.loop with
    | some l => 2 ^ 1664 * (l.start % 8192) + 2 ^ 1677 * ((l.len - 1) % 16) + 2 ^ 1681 * (l.rem % 2 ^ 17) + 2 ^ 1698 * (l.pos % 16) + 2 ^ 1702
    | none => 0)
  + (match c.rep with | some r => 2 ^ 1728 * (r.addr % 8192) + 2 ^ 1741 * (r.rem % 8192) + 2 ^ 1754 | none => 0)
  + 2 ^ 1755 * min 8 c.lq.length + 2 ^ 1759 * joinFields 1 8 (fun i => bitAt (c.lq.getD i (false, 0#32, 0)).1 0)
  + 2 ^ 1767 * joinFields 3 8 (fun i => (c.lq.getD i (false, 0#32, 0)).2.2)
  + 2 ^ 1792 * joinFields 32 8 (fun i => (c.lq.getD i (false, 0#32, 0)).2.1.toNat)
  + 2 ^ 2048 * joinFields 16 16 (fun k => c.sysent.getD k 0 % 16384)
  + 2 ^ 2304 * c.irqen.toNat + 2 ^ 2336 * c.irqpend.toNat + 2 ^ 2368 * joinFields 4 32 (fun k => c.irqlvl.getD k 0)

/-- The 320 bytes of a slot, its CRC-32 at [2527:2496]. -/
def ckptBytes (c : Ckpt) : List Byte :=
  let b := leBytes 312 (ckptBits c)
  b ++ leBytes 4 (crc32 b) ++ leBytes 4 0

/-- Words of 32 bits from bit `lo` on. -/
def wordsFrom (v lo n : Nat) : List Word := (List.range n).map fun k => BitVec.ofNat 32 (bits v (lo + 32 * k) 32)

/-- What the bits of a slot say. -/
def ckptRead (v : Nat) : Ckpt :=
  { capture := bits v 0 32, outseq := bits v 32 32, pc := bits v 64 13, flag := v.testBit 77, super := v.testBit 78, precise := v.testBit 79
    mask := bits v 80 5, run := bits v 85 5, vbase := 128 * bits v 90 6
    g := wordsFrom v 128 24, lat := wordsFrom v 896 16, res := wordsFrom v 1408 8
    loop := if v.testBit 1702 then some ⟨bits v 1664 13, bits v 1677 4 + 1, bits v 1681 17, bits v 1698 4, []⟩ else none
    rep := if v.testBit 1754 then some ⟨bits v 1728 13, bits v 1741 13, false⟩ else none
    lq := (List.range (bits v 1755 4)).map fun i => (v.testBit (1759 + i), BitVec.ofNat 32 (bits v (1792 + 32 * i) 32), bits v (1767 + 3 * i) 3)
    sysent := (List.range 16).map fun k => bits v (2048 + 16 * k) 14
    irqen := BitVec.ofNat 32 (bits v 2304 32), irqpend := BitVec.ofNat 32 (bits v 2336 32)
    irqlvl := (List.range 32).map fun k => bits v (2368 + 4 * k) 4 }

/-- A table from the values of the numbers 0, 1, 2 …; an unlisted number reads as `d`. -/
def kvFrom {α : Type} [DecidableEq α] (d : α) (l : List α) : Kv α :=
  (List.range l.length).foldl (fun m k => kvSet d m k (l.getD k d)) []

/-- The loads of a slot's entries, numbered from `q`: a returned entry holds its data, an outstanding one is performed anew from its
address, two entries for a 64-bit load (R225). `skip`: the next entry is the second of a load.
[DESIGN CHOICE, log row 16] -/
def ckptLoads (place : Word → Place) : Nat → Bool → List (Bool × Word × Nat) → List LoadOp
  | _, _, [] => []
  | q, true, _ :: t => ckptLoads place q false t
  | q, false, (ret, w, o) :: t =>
    let wide : Bool := !ret && o % 4 == 3
    ⟨0, w, place w, o % 4, decide (4 ≤ o), false, false, false, if wide then 2 else 1, if ret then some [w] else none,
     if ret then some [w] else none, 0, false, q, none⟩ :: ckptLoads place (q + 1) wide t

/-! ### Where slots and logs lie (R223) -/

/-- First byte of pair m's part of bank 7. -/
def pairArea (m : Nat) : Nat := paShelf + m / 4 * 0x80000 + 0x74000 + m % 4 * 0x3000

/-- First byte of slot 0, or of slot 1. -/
def slotAt (m : Nat) (k : Bool) : Nat := pairArea m + (if k then 0x200 else 0)

/-- First byte of log record i. -/
def logAt (m i : Nat) : Nat := pairArea m + 0x400 + 8 * i

/-- The words of a range take fresh check bits (R251). -/
def scrubWords (pa n : Nat) (s : State) : State := (List.range ((n + 7) / 8)).foldl (fun a i => eccClean (pa / 8 + i) a) s

/-- A capture's words are written to a slot. -/
def putSlot (m : Nat) (k : Bool) (c : Ckpt) (s : State) : State :=
  memWrite (slotAt m k) 320 (leNat (ckptBytes c)) (scrubWords (slotAt m k) 320 s)

/-- The slot's bytes are read with their check bits: none where a word is uncorrectable or the CRC fails (R229). -/
def readSlot (m : Nat) (k : Bool) (s : State) : Option Ckpt × State :=
  let r := eccWords ((List.range 40).map fun i => slotAt m k / 8 + i) s
  let v := memRead s (slotAt m k) 320
  if r.1 = 0 ∧ crc32 (leBytes 312 v) = bits v 2496 32 then (some (ckptRead v), r.2) else (none, r.2)

/-- A record is written to the log. -/
def putRec (m i : Nat) (x : LogRec) (s : State) : State :=
  memWrite (logAt m i) 8 (x.value.toNat + 2 ^ 32 * (x.kind % 256) + 2 ^ 40 * (x.count % 2 ^ 24)) (eccClean (logAt m i / 8) s)

/-- A record of the log as it stands in memory. -/
def recAt (s : State) (m i : Nat) : LogRec :=
  let v := memRead s (logAt m i) 8
  ⟨BitVec.ofNat 32 (bits v 0 32), bits v 32 8, bits v 40 24⟩

/-- The log's records, oldest first, without those whose load was never performed. -/
def logRecs (s : State) (m : Nat) : List LogRec :=
  let p := getPair s m
  ((List.range p.logN).filter fun i => !p.void.contains i).map fun i => recAt s m i

/-- The log's words are read with their check bits (R236). -/
def readLog (m : Nat) (s : State) : List LogRec × Bool × State :=
  let r := eccWords ((List.range (getPair s m).logN).map fun i => logAt m i / 8) s
  (logRecs s m, r.1 == 0, r.2)

/-- A range of bytes copied; its words take fresh check bits. -/
def copyBytes (src dst n : Nat) (s : State) : State := memWrite dst n (memRead s src n) (scrubWords dst n s)

/-- The log holds nothing. -/
def emptyLog (p : Pair) : Pair := { p with logN := 0, void := [], dues := [] }

/-- Records of sampled items join the log of pair m, up to 1,408, and in replay are taken off it; an access to bank 7 during a wipe is
discarded (R217, R223, R257).
[DESIGN CHOICE, log row 16; DESIGN CHOICE, log row 25] -/
def logItems (m : Nat) (xs : List (Nat × Word)) (s : State) : State :=
  let c := (getPair s m).count % 2 ^ 24
  if (match (getPair s m).phase with | .replay _ => true | _ => false) then
    modPair m (fun p => { p with rlog := xs.foldl (fun l x => logDrop x.1 c l) p.rlog }) s
  else if s.mem.wipe.isSome then s
  else xs.foldl (fun a x =>
    let i := (getPair a m).logN
    if 1408 ≤ i then a else modPair m (fun p => { p with logN := i + 1 }) (putRec m i ⟨x.2, x.1, c⟩ a)) s
where
  /-- The log without its oldest record of a kind at a count. -/
  logDrop (k c : Nat) : List LogRec → List LogRec
    | [] => []
    | r :: t => if r.kind = k ∧ r.count = c then t else r :: logDrop k c t

end Sys2Proof.Machine
end

