-- ==== Sys2Proof/Machine/Run.lean ====
section
/-! DEFINITION. Machine/Run.lean: an engine's steps inside the machine: inputs sampled, tokens passed to the checker, comparison and
release, and the restart of a pair (chapters 03, 10 and 11). -/

namespace Sys2Proof.Machine

/-! ### Pairs: what state means -/

/-- The pair counts as checked for R66 (R241). -/
def countsChecked (p : Pair) : Bool :=
  match p.st with
  | .checked => true
  | .restoring => true
  | .handover => true
  | .unchecked => true
  | .debug => true
  | _ => false

/-- Items are compared: every pair that runs, but for one UNCHECKED (R219, R230). -/
def compares (p : Pair) : Bool :=
  match p.st with
  | .checked => true
  | .restoring => p.after != .unchecked
  | .handover => true
  | .debug => p.prev != .unchecked
  | _ => false

/-- The two engines of the pair run apart (R238). -/
def pairSplit (p : Pair) : Bool := p.st == .split

/-- The pair replays its log (R225). -/
def inReplay (p : Pair) : Bool := match p.phase with | .replay _ => true | _ => false

/-- An engine issues of its own accord: the main copy of a running pair, or an engine of a split pair. -/
def issuesItself (s : State) (n : Nat) : Bool :=
  let p := getPair s (pairOf n)
  pairSplit p || (countsChecked p && n % 2 == 0)

/-- engine.state (Table 03-7, R66): the checker of a pair that counts as checked reports FOLLOWING, or its main copy's state (R241).
A tile that wakes from retention has kept its engines (R67, R417): it is RETAINED until it is on; one that leaves off is OFF until then.
[DEDUCED, log row 17] -/
def shownState (s : State) (n : Nat) : EngState :=
  let e := getEng s n
  let t := getTile s (tileOf n)
  let p := getPair s (pairOf n)
  if e.st = .fused then .fused
  else if p.phase ≠ .none then .restoring
  else if t.dom = 2 then .off
  else if t.dom = 3 then (if s.power.filling.contains (512 + tileOf n) then .off else .retained)
  else if t.dom = 1 then .retained
  else if countsChecked p ∧ n % 2 = 1 then
    match (getEng s (n - 1)).st with
    | .armed => .following
    | .running => .following
    | .held => .following
    | .debug => .following
    | x => x
  else e.st

/-- Table 03-7, codes. -/
def engCode : EngState → Nat
  | .off => 0
  | .retained => 1
  | .halted => 2
  | .armed => 3
  | .running => 4
  | .held => 5
  | .debug => 6
  | .following => 7
  | .restoring => 8
  | .fused => 9

/-- The mark of a split or a merge has come, and the boundary or the capture it waits for has not (R238). -/
def waitsCapture (p : Pair) : Bool := p.cmdDue

/-- pair.state (Table 11-10): an IDLE pair that is reserved reads SPARE, and one whose split or merge is in progress
HANDOVER. -/
def pairCode (s : State) (m : Nat) : Nat :=
  match (getPair s m).st with
  | .idle => if waitsCapture (getPair s m) then 3 else if valGet s (cPair m 8) = 1 then 7 else 0
  | .checked => if waitsCapture (getPair s m) then 3 else 1
  | .restoring => 2
  | .handover => 3
  | .unchecked => if waitsCapture (getPair s m) then 3 else 4
  | .split => if waitsCapture (getPair s m) then 3 else 5
  | .debug => 6
  | .out => 8
  | .fused => 9

/-! ### Interrupt sources -/

/-- An event of source `k` sets the pending bit of engine n (R204); a checker's bits are set by its tokens only (R208), and during a
restart the bit waits until live execution resumes (R225). -/
def setPend (n k : Nat) (s : State) : State :=
  if countsChecked (getPair s (pairOf n)) ∧ n % 2 = 1 then s
  else if (getPair s (pairOf n)).phase ≠ .none then modPair (pairOf n) (fun p => { p with defer := p.defer ||| (1#32 <<< k) }) s
  else modEng n (fun e => { e with exc := { e.exc with irqpend := e.exc.irqpend ||| (1#32 <<< k) } }) s

/-- An event of source `k` in every engine (R204). -/
def setPendAll (k : Nat) (s : State) : State := (List.range 256).foldl (fun a n => setPend n k a) s

/-! ### Late launches -/

/-- LATE bit and count of an engine's tile (R176, R183). -/
def countLate (n : Nat) (s : State) : State :=
  let t := tileOf n
  let old := valGet s (cTile t 0x22)
  bump (cTile t 0x23) 1 32 (valPut (cTile t 0x22) (if old.testBit (n % 8) then old else old + 2 ^ (n % 8)) s)

/-! ### Receive queues -/

/-- The engine whose queue takes a word for engine n: the main copy of a running pair, or of the pair that took its work over
(R58, R232). -/
def queueOwner (s : State) (n : Nat) : Nat :=
  let p := getPair s (pairOf n)
  match p.taker with
  | some k => if p.st = .out then mainOf k else n
  | none => if pairSplit p then n else if countsChecked p then mainOf (pairOf n) else n

/-- A word enters a receive queue, or is discarded at a full one (R58, R61, R204). -/
def rqEnter (n : Nat) (w : Word) (s : State) : State :=
  let k := queueOwner s n
  let e := getEng s k
  if 64 ≤ e.rq.words.length then
    let s1 := setEng k { e with rq := { e.rq with ovf := true } } s
    if e.rq.ovf then s1 else setPend k 2 s1
  else
    let s1 := setEng k { e with rq := { e.rq with words := e.rq.words ++ [w] } } s
    if e.rq.words.isEmpty then setPend k 1 s1 else s1

/-! ### Sampled inputs -/

/-- The newest capture of the tile's source, bits [31:0] (R186). -/
def tuCap (s : State) (n : Nat) : Word :=
  BitVec.ofNat 32 ((getCap s (valGet s (cTile (tileOf n) 0x24))).newest.getD 0)

/-- eng.id (Table 03-3, R53).
[DESIGN CHOICE, log row 47] -/
def engId (s : State) (n : Nat) : Word :=
  let p := getPair s (pairOf n)
  let k := if pairSplit p then n else mainOf (pairOf n)
  BitVec.ofNat 32 (k + 256 * pairOf n + (if pairSplit p then 32768 else 0) + 65536 * tileOf n)

/-- xu.lvl (Table 03-6). -/
def xuLvl (q : RecvQ) : Word :=
  BitVec.ofNat 32 (q.words.length + (if q.unf then 1073741824 else 0) + (if q.ovf then 2147483648 else 0))

/-- Late tolerance of a tile in quarter-nanoseconds (R176). -/
def tileTol (s : State) (n : Nat) : Nat := 4 * valGet s (cTile (tileOf n) 0x20)

/-- The pending bits whose level reaches tile.time.wait.irq: those that end a hold (R179).
[DEDUCED, log row 14] -/
def holdEnders (s : State) (n : Nat) (x : ExcSt) : BitVec 32 :=
  (List.range 32).foldl (fun a k =>
    if x.irqpend.getLsbD k ∧ valGet s (cTile (tileOf n) 0x26) ≤ irqLevel x k then a ||| (1#32 <<< k) else a) 0#32

/-- What an RFE may chain (R200) where its frame marks a pending wait: below the threshold an interrupt stays pending (R179).
[DEDUCED, log row 14] -/
def chainPend (s : State) (n : Nat) (x : ExcSt) : Option (BitVec 32) :=
  match x.frames with
  | [] => none
  | f :: _ => if f.wait.isSome then some (holdEnders s n x) else none

/-- The tile releases at all: its follower is locked, or has lost lock while powered (R174). -/
def releases (s : State) (n : Nat) : Bool := let x := getTile s (tileOf n); x.dom == 0 && (x.lock || x.lost)

/-- What engine n samples in a step that starts now and lasts `q` quarter-nanoseconds. The free load-queue entries are those before the bundle: an
entry that it removes is free to the next bundle (R116).
[DESIGN CHOICE, log row 12] -/
def liveInp (s : State) (n q : Nat) : Inp :=
  let e := getEng s n
  { now := s.now, fin := s.now + q, cap := tuCap s n, id := engId s n, estep := BitVec.ofNat 32 e.ctr.steps,
    tol := tileTol s n, lateFault := valGet s (cTile (tileOf n) 0x21) == 1,
    atomicLim := valGet s (cTile (tileOf n) 0x30), lsu := ldqValue e,
    ldFree := 8 - ldqUsed e.ldq, stFree := 4 - e.stb.length,
    xuq := e.rq.words.headD 0#32, xuEmpty := e.rq.words.isEmpty, xulvl := xuLvl e.rq, irqpend := e.exc.irqpend,
    replay := false, imgA := valGet s (cRing 0 0x0A), imgB := valGet s (cRing 1 0x0A), rel := releases s n, waitOn := e.pos.wait.isSome, chain := chainPend s n e.exc }

/-- The oldest log record of a kind at the present count. -/
def logPick (p : Pair) (k : Nat) : Option LogRec := p.rlog.find? fun r => r.kind == k && r.count == p.count % 2 ^ 24

/-- What the log has next at a boundary: an interrupt, an exception or a debugger's write, in the order in which they came (R225). -/
def nextEvent (p : Pair) (c : Nat) : Option LogRec :=
  p.rlog.find? fun r => (r.kind == 0x0B || r.kind == 0x0C || r.kind == 0x0D) && r.count == c % 2 ^ 24

/-- In replay every item of Table 11-1 comes from the log, and every tu.wait passes (R225).
[DESIGN CHOICE, log row 18] -/
def replayInp (p : Pair) (i : Inp) : Inp :=
  let v (k : Nat) (d : Word) : Word := match logPick p k with | some r => r.value | none => d
  let t := (v 0x06 0#32).toNat + 4294967296 * (v 0x07 0#32).toNat
  { i with
    now := if (logPick p 0x06).isSome ∨ (logPick p 0x07).isSome then t else i.now
    cap := v 0x08 i.cap, estep := v 0x09 i.estep
    lsu := match logPick p 0x02, logPick p 0x01 with
      | some r, _ => some (0#32, r.value.toNat)
      | none, some r => some (r.value, 0)
      | none, none => i.lsu
    ldFree := if (logPick p 0x03).isSome then 0 else 8
    stFree := if (logPick p 0x03).isSome then 0 else 4
    xuq := v 0x04 0#32, xuEmpty := (logPick p 0x04).isNone, xulvl := v 0x05 0#32
    replay := true
    chain := some (match nextEvent p (p.count + 1) with
      | some r => if r.kind = 0x0B then 1#32 <<< (r.value.toNat % 32) else 0#32
      | none => 0#32) }

/-- What the engine samples: from the log while its pair replays, else from the machine. -/
def sampleInp (s : State) (n q : Nat) : Inp :=
  let p := getPair s (pairOf n)
  if inReplay p then replayInp p (liveInp s n q) else liveInp s n q

/-! ### Outputs leaving a pair -/

/-- A send leaves: to the exchange router, or towards an image or a pin (R59, R60). -/
def sendLeaves (n : Nat) (o : SendOp) (s : State) : State :=
  if o.xto.toNat / 2 ^ 30 = 0 then
    { s with net := { s.net with flights := s.net.flights ++ [⟨n, o.xto.toNat % 256, o.value, o.stamp, none⟩] } }
  else { s with net := { s.net with outs := s.net.outs ++ [⟨n, o.xto, o.value, o.stamp⟩] } }

/-- The oldest store that is not released becomes released (R220). -/
def releaseFirst : List StoreOp → List StoreOp
  | [] => []
  | t :: ts => if t.released then t :: releaseFirst ts else { t with released := true } :: ts

/-- The oldest store that is not released leaves the buffer without being performed (R225, R228). -/
def dropFirst : List StoreOp → List StoreOp
  | [] => []
  | t :: ts => if t.released then t :: dropFirst ts else ts

/-- The oldest store that is not released. -/
def firstHeld : List StoreOp → Option StoreOp
  | [] => none
  | t :: ts => if t.released then firstHeld ts else some t

/-- An item is bound for a ring output image or a timed pin (R228). -/
def boundOut (s : State) (n : Nat) : OutItem → Bool
  | .send o => o.xto.toNat / 2 ^ 30 != 0
  | .store =>
    match firstHeld (getEng s n).stb with
    | some t => (match t.place with | .phys pa => (match physKind pa with | .image _ _ _ => true | _ => false) | _ => false)
    | none => false

/-- One item leaves the release buffer of engine n (R220): it is discarded when it was released before the reset of a restart (R225),
and held while the declared substitute stands (R228, R229). -/
def releaseItem (n : Nat) (s : State) (o : OutItem) : State :=
  let m := pairOf n
  let p := getPair s m
  let dropIt := decide (0 < p.skip) || ((p.subst || p.held) && boundOut s n o)
  let s1 := setPair m { p with outseq := (p.outseq + 1) % 2 ^ 32, skip := p.skip - 1 } s
  match o with
  | .store => modEng n (fun e => { e with stb := if dropIt then dropFirst e.stb else releaseFirst e.stb }) s1
  | .send x => if dropIt then s1 else sendLeaves n x s1

/-! ### The checker's side (R215 to R218) -/

/-- The checker as a token finds it: pending bits come with the token (R208), and a wait has ended when its main copy's has (R180). -/
def checkerReady (i : Inp) (c : Engine) : Engine :=
  { c with pos := { c.pos with wait := if i.waitOn then c.pos.wait else none, missed := false }, exc := { c.exc with irqpend := i.irqpend } }

/-- The checker performs no load, store or send and does not touch its receive queue (R218). -/
def checkerTidy (old c : Engine) : Engine :=
  { c with rq := old.rq, stb := [], heldLsu := false, heldHeavy := false, ldq := c.ldq.filter fun l => !l.drop }

/-- A stall step of an engine that holds a bundle for lsu.q (R54, R56). -/
def stallStep (e : Engine) : Engine := addSteps 1 { e with ctr := { e.ctr with stallLsu := (e.ctr.stallLsu + 1) % 2 ^ 32 } }

/-- An atomic window that has lasted its n steps closes, and exception 0x06 is due (R209), at a boundary that permits one (R110). -/
def closeWindow (e : Engine) : Engine :=
  match e.exc.atomic with
  | some a =>
    if a.left = 0 ∧ e.pos.ins = 0 then { e with exc := { e.exc with atomic := none, due := e.exc.due ++ [⟨0x06, a.addr, false, false, false⟩] } } else e
  | none => e

/-- An exception that the pair's bundles do not bring about: the checker follows its main copy's (Table 11-1, R180, R217). -/
def outsideDue (d : Due) : Bool := d.code == 0x07 || d.code == 0x0B || ((d.code == 0x0C || d.code == 0x0D) && d.imprecise)

/-- Compared items of an entry: G where it changes, and the vector (Table 11-2). -/
def entryItems (old e : Engine) : List Item := (if old.flag = e.flag then [] else [.flag e.flag]) ++ [.target e.pos.pc]

/-- The checker's step for a token: its new state, its compared items and its activations (R156).
[DEDUCED, log row 17] -/
def checkerStep (t : Token) (c : Engine) : Engine × List Item × Nat :=
  let c0 := checkerReady t.inp c
  match t.kind with
  | .issue =>
    let o := issueStep t.inp (fun store _ _ _ _ => if store then t.st else t.ld) c0
    (checkerTidy c { o.eng with st := .running }, o.items, o.heavy)
  | .stall => (stallStep c, [], 0)
  | .meter => (addSteps 1 c, [], 0)
  | .idle => (c, [], 0)
  | .exc =>
    let c1 := closeWindow c0
    let due := c1.exc.due ++ t.due.filter fun d => !c1.exc.due.contains d
    match lowestDue due with
    | some d => let e := enterExc d { c1 with exc := { c1.exc with due := due } }; (checkerTidy c e, entryItems c0 e, 0)
    | none => (c1, [], 0)
  | .irq k =>
    let e := takeIrq k c0
    (checkerTidy c e, entryItems c0 e, 0)
  | .pop => let e := (popFrame t.inp c0).eng; (checkerTidy c { e with st := .running }, entryItems c0 e, 0)

/-! ### Restart of a pair (R224 to R229, R483) -/

/-- The pair runs unchecked, or will when its restart or its debug session ends (R230, R241). -/
def runsUnchecked (p : Pair) : Bool :=
  p.st == .unchecked || (p.st == .restoring && p.after == .unchecked) || (p.st == .debug && p.prev == .unchecked)

/-- MASK's condition (R32, Table 02-4): no pair runs unchecked, none that could not recover still has its folio, and every DRAM channel is
in service. A pair that is split on command does not count.
[DESIGN CHOICE, log row 54] -/
def maskHolds (s : State) : Bool :=
  ((List.range 128).all fun m =>
    let p := getPair s m
    !runsUnchecked p && !(p.held && s.svc.folios.any fun f => f.owner == m)) && valGet s (callNo 0x1900 1) == 255

/-- MASK is set again once its condition holds (R32). -/
def tryMask (m : Nat) (s : State) : State := if maskHolds s then restorePromise 2 0x31 m (sparesFree s) 0 s else s

/-- MASK is cleared (event 0x31, Table 15-13). -/
def loseMask (m : Nat) (s : State) : State := lapse 2 0x31 m (sparesFree s) 0 s

/-- Engine n makes accesses of its own: the checker of a pair performs no load, store or send (R218). -/
def performs (s : State) (n : Nat) : Bool := pairSplit (getPair s (pairOf n)) || n % 2 == 0

/-- The accesses of a run that ends which still have to be performed: loads whose data is discarded, none of a checker (R63, R64, R218). -/
def pastLoads (acts : Bool) (e : Engine) : List LoadOp :=
  if acts then e.past ++ (e.ldq.filter fun l => l.perf.isNone && l.data.isNone).map fun l => { l with drop := true } else e.past

/-- An engine stops with nothing more to issue (R64): loads in flight complete and their data is discarded. `acts`: it makes accesses of
its own. -/
def haltEngine (acts : Bool) (e : Engine) : Engine :=
  { e with st := .halted, cmd := 0, heldLsu := false, heldHeavy := false, past := pastLoads acts e, ldq := []
           pos := { e.pos with wait := none, relLim := none, late := none, missed := false }, lockN := none, lockOpen := false }

/-- Locks held by an engine are released (R284). -/
def freeLocks (n : Nat) (s : State) : State :=
  { s with xfer := { s.xfer with locks := s.xfer.locks.filter fun l => l.2.1 != n } }

/-- Locks of an engine that a reset breaks are released and counted in matrix.lock.forced (R284). -/
def breakLocks (n : Nat) (s : State) : State :=
  let k := (s.xfer.locks.filter fun l => l.2.1 == n).length
  freeLocks n (if k = 0 then s else bump (callNo 0x1920 7) k 32 s)

/-- Both engines of a pair become HALTED. -/
def haltPair (m : Nat) (s : State) : State := modEng (mainOf m) (haltEngine true) (modEng (checkerOf m) (haltEngine false) s)

/-- Both engines HALTED and the pair OUT, its outputs held (R229, R483). -/
def pairOut (m : Nat) (s : State) : State :=
  let s1 := freeLocks (mainOf m) (haltPair m (modEng (mainOf m) (fun e => { e with stb := e.stb.filter fun t => t.released }) s))
  loseMask m (modPair m (fun p => { p with st := .out, chain := [], phase := .none, held := true, cmd := 0, cmdDue := false,
                                            capDue := false, mig := none }) s1)

/-- DEADLINE of the segment of pair m's folio that runs now, as Sirkan time and in ns after the mark (R228, Table 08-6). -/
def segDeadline (s : State) (m : Nat) : Option (Nat × Nat) :=
  match s.time.mark, s.svc.folios.find? fun f => f.owner == m with
  | some t, some f =>
    (f.segs.find? fun g => decide (t + 4 * g.1 ≤ s.now) && decide (s.now < t + 4 * g.2.1)).map fun g => (t + 4 * g.2.1, g.2.1)
  | _, _ => none

/-- A pair that cannot recover (R229): event 0x23 with its lapse flag, and the segment's DEADLINE where one runs.
[DEDUCED, log row 19] -/
def unrecoverable (m : Nat) (s : State) : State :=
  let d := match (getPair s m).dead with | some x => some x | none => segDeadline s m
  logEvent 0x23 true m ((d.map fun x => x.2).getD 0) 0 (pairOut m s)

/-- Both engines enter RESTORING and the timeline of Table 11-5 begins (R224): everything not compared is discarded, an open locked
sequence of the main copy is broken (R284, R285), and a load that was issued and not performed leaves the log (R225).
[DESIGN CHOICE, log row 18; DEDUCED, log row 19] -/
def beginRestart (m : Nat) (s : State) : State :=
  let p := getPair s m
  let n := mainOf m
  let e := getEng s n
  let s1 := setEng n { e with st := .restoring, cmd := 0, heldLsu := false, heldHeavy := false, stb := e.stb.filter (fun t => t.released), pwb := []
                              ldq := [], marked := none, lockN := none, lockOpen := false } s
  let s2 := modEng (checkerOf m) (fun c => { c with st := .restoring, cmd := 0, heldLsu := false, heldHeavy := false, stb := [], pwb := [], ldq := [], marked := none }) s1
  let s3 := if e.lockN.isSome then { s2 with xfer := { s2.xfer with broken := s2.xfer.broken ++ [n] } } else s2
  let br := match p.phase with
    | .none => p.count
    | .replay b => max b p.count
    | _ => p.count
  breakLocks n (setPair m { p with
    st := .restoring, chain := [], capDue := false, phase := .resetting, count := br
    relBefore := (p.outseq + p.skip) % 2 ^ 32, skip := 0
    toDebug := p.st == .debug || p.toDebug
    after := if runsUnchecked p then .unchecked else p.after
    rlog := [], cmdDue := false
    dead := if p.phase = .none then segDeadline s m else p.dead
    defer := if p.phase = .none then e.exc.irqpend else p.defer
    deferDue := if p.phase = .none then (e.exc.due ++ e.exc.keep).filter outsideDue else p.deferDue
    mig := p.mig.map fun g => { g with armed := g.armed && g.fault } } s3)

/-- 1 s of uptime, in quarter-nanoseconds. -/
def oneSecond : Nat := 4000000000

/-- A second event within 1 s of the first. -/
def within1s (s : State) (t : Option Nat) : Bool := match t with | some u => decide (s.up < u + oneSecond) | none => false

/-- The lowest-numbered free spare of a pair's tile group (R230). -/
def findSpare (s : State) (m : Nat) : Option Nat :=
  ((List.range 16).map fun i => 16 * pairGroup m + i).find? fun k =>
    valGet s (cPair k 8) == 1 && (getPair s k).st == .idle && !((List.range 128).any fun j =>
      match (getPair s j).mig with | some g => g.spare == k | none => false)

/-- A migration is set going: the hand-over mark lies at least 10 µs ahead and at or after `at_` (R231). Without a free spare
the pair runs on UNCHECKED and MASK is cleared (R230). -/
def startMigration (m at_ : Nat) (fault : Bool) (s : State) : State :=
  match findSpare s m with
  | some k => modPair m (fun p => { p with mig := some ⟨k, false, max at_ (s.now + 40000), false, fault, false, 0, []⟩ }) s
  | none =>
    loseMask m (modPair m (fun p =>
      if p.st = .restoring then { p with after := .unchecked }
      else if p.st = .debug then { p with prev := .unchecked }
      else { p with st := .unchecked, prev := .unchecked }) s)

/-- A mismatch (R224, R227, R229, R230): event 0x20, the counter, and the restart. A pair whose log is full or that has no valid
slot cannot recover (R258). A repeat within 1 s sets a migration going, but not between an arming deadline and its mark (R456).
[DEDUCED, log row 19] -/
def mismatch (m : Nat) (armed : Bool) (s : State) : State :=
  let p := getPair s m
  let s1 := bump (cPair m 5) 1 32 (logEvent 0x20 false m p.count p.outseq s)
  if 1408 ≤ p.logN ∨ p.valid = false then unrecoverable m (modPair m (fun p => { p with lastMis := some s.up }) s1)
  else
    let rep := within1s s p.lastMis || p.phase != .none
    let s2 := modPair m (fun p => { p with lastMis := some s.up }) (beginRestart m s1)
    if rep ∧ armed = false ∧ p.mig.isNone then startMigration m 0 false s2 else s2

/-- A third fault, or RESTART when `quiet` (R202, R483). `addr` is the address of the fault. A pair without a valid slot cannot restart
(R258).
[DESIGN CHOICE, log row 54] -/
def thirdFault (n addr : Nat) (quiet : Bool) (s : State) : State :=
  let m := pairOf n
  let p := getPair s m
  if pairSplit p then
    let s1 := freeLocks n (modEng n (haltEngine true) s)
    if quiet then s1 else logEvent 0x22 false m addr 0 s1
  else
    let ev := valGet s (cPair m 6)
    let s0 := if bits ev 24 8 < 255 then valPut (cPair m 6) (ev + 16777216) s else s
    if within1s s p.lastThird then logEvent 0x22 true m addr 0 (pairOut m s0)
    else
      let s1 := modPair m (fun p => { p with lastThird := some s.up }) (if quiet then s0 else logEvent 0x22 false m addr 0 s0)
      if p.valid then beginRestart m s1 else unrecoverable m s1

/-! ### Tokens -/

/-- Every item a token holds leaves the pair. -/
def releaseToken (n : Nat) (t : Token) (s : State) : State := t.outs.foldl (releaseItem n) s

/-- A cut-over that has passed its arming deadline names pair m, or the pair whose work it took, as outgoing (R454, R456). -/
def armedOut (s : State) (m : Nat) : Bool :=
  (List.range 16).any fun j =>
    let b := getJob s j
    b.st == 3 && b.cmd.cmd == 5 && b.checked &&
      ((List.range (fieldAt b.plan 0 1)).any fun i =>
        let x := fieldAt b.plan (16 + 4 * i) 1
        decide (128 ≤ x) && followTaker s (x - 128) == m)

/-- The oldest token reaches the checker: its items are compared and its outputs released, or a mismatch is met (R219, R220).
[DEDUCED, log row 17] -/
def runToken (m : Nat) (t : Token) (s : State) : State :=
  let p := getPair s m
  if compares p then
    let (c, items, heavy) := checkerStep t (getEng s (checkerOf m))
    let s1 := setEng (checkerOf m) { c with actNow := c.actNow + heavy } s
    if items = t.items then releaseToken (mainOf m) t s1 else mismatch m (armedOut s m) s1
  else releaseToken (mainOf m) t s

/-- Tokens more than two steps old leave the delay chain, oldest first (R215).
[DEDUCED, log row 17] -/
def drainChain : Nat → Nat → Nat → State → State
  | 0, _, _, s => s
  | f + 1, m, keep, s =>
    let p := getPair s m
    match p.chain with
    | [] => s
    | t :: ts =>
      if p.chain.length ≤ keep then s
      else drainChain f m keep (runToken m t (setPair m { p with chain := ts } s))

/-- An empty token, for a step in which nothing issues.
[DEDUCED, log row 17] -/
def idleToken (i : Inp) : Token := ⟨.idle, i, AccRes.nil, AccRes.nil, [], [], []⟩

/-- A step's token, and one for each further step of an entry or return, join the delay chain; those two steps old leave it.
[DEDUCED, log row 17] -/
def pushTokens (m : Nat) (t : Token) (extra : Nat) (s : State) : State :=
  let ts := t :: List.replicate extra (idleToken t.inp)
  drainChain 64 m 2 (modPair m (fun p => { p with chain := p.chain ++ ts }) s)

/-! ### The main copy's step -/

/-- The effect of a step on the tile: refusals counted, activations noted for the meter (R116, R154). -/
def noteTile (n : Nat) (o : IssueOut) (a : Nat) (s : State) : State :=
  let s1 := if o.refused = 0 then s else bump (cTile (tileOf n) 0x13) o.refused 32 s
  if o.heavy = 0 then s1
  else modEng n (fun e => { e with actNow := e.actNow + o.heavy, actAddr := a, actFirst := o.first }) s1

/-- Engine n stops at a boundary (STOP, R64, R143): the program write buffer is applied. -/
def stopNow (n : Nat) (s : State) : State := freeLocks n (modEng n (fun e => haltEngine (performs s n) (applyPwb e)) s)

/-- The registers, latches, results and counters that START and RESET set (Table 03-9, R69, R143). Buffered stores and unperformed loads
of the run before still complete (R63), and the activations of the present meter step are kept (R154); engine.pc reads 0 until a bundle
issues.
[DESIGN CHOICE, log row 9] -/
def startValues (acts : Bool) (e : Engine) : Engine :=
  { e with
    g := [], flag := false, lat := Latches.zero, res := Results.zero, lnk := 0, mulP := [], fpuP := [], traps := []
    past := pastLoads acts e, ldq := [], pastSt := e.pastSt ++ e.stb, stb := []
    lockN := none, lockOpen := false, pwb := [], pos := Pos.start e.pos.pc, exc := ExcSt.start
    ctr := ⟨0, 0, 0, 0⟩, cause := 0, heldLsu := false, heldHeavy := false, cmd := 0, marked := none }

/-- Engine n is reset at a boundary (RESET, R63). -/
def resetNow (n : Nat) (s : State) : State :=
  freeLocks n (modEng n (fun e => { startValues (performs s n) e with st := .halted, rq := ⟨[], false, false⟩ }) s)

/-- A waiting engine command takes effect at the present boundary (R65): STOP, HALT, STEP's return to DEBUG, RESET. A precise-mode trigger
and its inserted bundles come first (R110), and the chained entry of an RFE (R200). -/
def applyEngCmd (n : Nat) (s : State) : State :=
  if (getEng s n).pos.ins ≠ 0 ∨ (getEng s n).exc.rfe = true then s
  else match (getEng s n).cmd with
  | 2 => stopNow n s
  | 3 => modEng n (fun e => { e with st := .debug, cmd := 0 }) s
  | 5 => modEng n (fun e => { e with st := .debug, cmd := 0 }) s
  | 6 => resetNow n s
  | _ => s

/-- Loads whose record of KIND 0x0F stood in a log that has restarted write it no more. -/
def forgetRecords (e : Engine) : Engine := { e with ldq := e.ldq.map fun l => { l with logged := none } }

/-- Every engine changed. -/
def modEngs (f : Engine → Engine) (s : State) : State := (List.range 256).foldl (fun a n => modEng n f a) s

/-- A load from a queue address that removes data or clears sticky bits (R225, KIND 0x0F): the load that reads the last bytes of a
removing view, and both words of the own-queue view (R248). -/
def consuming (l : LoadOp) : Bool :=
  match l.place with
  | .ownq _ => true
  | .phys pa =>
    match physKind pa with
    | .cap _ off => decide (0x20 ≤ off ∧ off + 2 ^ l.width = 0x30)
    | .acyc _ off => decide (0x200 ≤ off ∧ off + 2 ^ l.width = 0x300)
    | _ => false
  | _ => false

/-- Loads of the step that its queue views make consuming: their records of KIND 0x0F, one for each 32-bit word, join the log at issue;
in replay their data comes from the log, and they are not performed (R225, R248).
[DESIGN CHOICE, log row 18] -/
def logLoads (n : Nat) (old : Nat) (s : State) : State :=
  let m := pairOf n
  let p := getPair s m
  let e := getEng s n
  match e.ldq.find? fun l => decide (old ≤ l.seq) && consuming l with
  | none => s
  | some l =>
    let put (x : LoadOp) (a : State) : State := setEng n { e with ldq := e.ldq.map fun y => if y.seq = l.seq then x else y } a
    if inReplay p then
      match p.rlog.filter fun r => r.kind == 0x0F && r.count == p.count % 2 ^ 24 with
      | [] => s
      | r :: t =>
        let ws := ((r :: t).take l.left).map fun x => x.value
        put { l with perf := some ws } (logItems m (ws.map fun w => (0x0F, w)) s)
    else if p.logN + l.left ≤ 1408 ∧ s.mem.wipe.isNone then
      put { l with logged := some p.logN } (modPair m (fun q => { q with void := q.void ++ (List.range l.left).map fun k => p.logN + k })
        (logItems m (List.replicate l.left (0x0F, 0#32)) s))
    else s

/-- matrix.outstanding: transactions of engines and transfer channels that have left and are not answered (R280, Table 13-11). An engine's
access to a bank of its own tile, its program window or its own queue does not cross the device matrix. -/
def outstanding (s : State) : Nat :=
  let out (n : Nat) (p : Place) : Bool :=
    match p with
    | .phys _ => !((targetsOf p 1).any fun t => decide (t < 1000) && t / 8 == tileOf n)
    | .cat _ => true
    | _ => false
  s.eng.foldl (fun a x =>
      a + ((if performs s x.1 then x.2.past ++ x.2.ldq else []).filter fun l => l.perf.isNone && l.data.isNone && out x.1 l.place).length
        + ((x.2.pastSt ++ x.2.stb).filter fun t => t.released && out x.1 t.place).length) 0
    + s.xfer.chans.foldl (fun a x => a + (x.2.flight.filter fun f => f.data.isNone || f.dst.isSome).length) 0

/-- matrix.outstanding.peak follows the count. -/
def notePeak (s : State) : State :=
  let n := outstanding s
  if valGet s (callNo 0x1920 4) < n then valPut (callNo 0x1920 4) n s else s

/-- Engine steps of an issue: the bundle's own or the stall's, and those of a chained entry; a bundle that faults at issue uses none (R189). -/
def stepsOf (o : IssueOut) : Nat := (if o.issued || o.stalled then 1 else 0) + o.extra

/-- The pair's part of a main-copy step: counts, log, token (R215, R221). -/
def pairStep (m old : Nat) (i : Inp) (o : IssueOut) (s : State) : State :=
  let s1 := logLoads (mainOf m) old (logItems m o.sampled s)
  let s2 := modPair m (fun p => { p with
    count := if o.issued then p.count + 1 else p.count
    sinceCap := p.sinceCap + stepsOf o
    capDue := p.capDue || o.mark }) s1
  pushTokens m ⟨if o.stalled then .stall else .issue, i, o.ld, o.st, [], o.items, o.outs⟩ o.extra s2

/-- The main copy of a split pair runs towards the capture of MERGE_KEEP, which a MARK or the interval starts (R221, Table 11-8). -/
def mergeWaits (p : Pair) : Bool := pairSplit p && p.cmd == 6 && p.cmdDue

/-- Steps and MARKs of a split pair's main copy count towards that capture. -/
def splitSteps (n k : Nat) (mark : Bool) (s : State) : State :=
  if n = mainOf (pairOf n) then
    modPair (pairOf n) (fun p => { p with sinceCap := p.sinceCap + k, capDue := mergeWaits p && (p.capDue || mark) }) s
  else s

/-- One step of an engine that issues of its own accord (R44), lasting `q` quarter-nanoseconds.
[DESIGN CHOICE, log row 12] -/
def engineStep (n q : Nat) (s : State) : State :=
  let m := pairOf n
  let p := getPair s m
  let e := getEng s n
  let i := sampleInp s n q
  let o := issueStep i (accessCheck s n) e
  -- in replay the queue was read before the restart
  let e0 : Engine := { o.eng with heldHeavy := e.heldHeavy && o.stalled }
  let e1 := if inReplay p then { e0 with rq := e.rq } else e0
  let s1 := noteTile n o e.pos.pc (setEng n e1 s)
  let s2 := if o.late then countLate n s1 else s1
  let s3 := if pairSplit p then splitSteps n (stepsOf o) o.mark (o.outs.foldl (releaseItem n) s2) else pairStep m e.lsuSeq i o s2
  let s4 := if o.restart then thirdFault n e.pos.pc true s3 else s3
  notePeak (if o.stalled then s4 else applyEngCmd n s4)

end Sys2Proof.Machine
end

