-- ==== Sys2Proof/Machine/Boundary.lean ====
section
/-! DEFINITION. Machine/Boundary.lean: what comes next at an engine's bundle boundary: an exception, an interrupt, a capture, a stall or the
next bundle (R44, R55, R179, R189, R190, R205, R206, R221, R225). -/

namespace Sys2Proof.Machine

/-- The engine may issue now: it runs, nothing is due at its boundary and no capture is under way (R190, R209, R222). -/
def mayIssue (s : State) (n : Nat) : Bool :=
  let e := getEng s n
  let p := getPair s (pairOf n)
  issuesItself s n && (e.st == .running || (e.st == .restoring && inReplay p)) && e.exc.due.isEmpty && !e.exc.rfe
    && !(e.pos.ins == 0 && e.exc.atomic.any fun a => a.left == 0)

/-! ### The meter holds a tile (R55, R154) -/

/-- Bundles of the tile may issue: no debt is owed, or the present meter step is a release step.
[DESIGN CHOICE, log row 13] -/
def meterFree (s : State) (t : Nat) : Bool := let x := getTile s t; x.debt == 0 || x.relStep

/-! ### Interrupts at a boundary (R179, R205 to R207) -/

/-- The pending bits that a hold lets through: levels at or above tile.time.wait.irq, but for sources that were pending when it was
written (R179).
[DEDUCED, log row 14] -/
def holdPend (s : State) (n : Nat) (x : ExcSt) (w : WaitSt) : BitVec 32 := holdEnders s n x &&& ~~~w.block

/-- A bundle of engine n is held under R54 or R55: it issues before any entry and any command (R65, R206). -/
def bundleHeld (s : State) (n : Nat) : Bool :=
  (getEng s n).heldLsu || (getEng s n).heldHeavy || !meterFree s (tileOf n)

/-- The present boundary permits an interrupt (R206); a bundle held under R54 or R55, a released one and the first of a handler issue first
(R206, R207).
[DESIGN CHOICE, log row 15] -/
def irqBoundary (s : State) (n : Nat) : Bool :=
  let e := getEng s n
  issuesItself s n && (e.st == .running || e.st == .held || (e.st == .restoring && inReplay (getPair s (pairOf n))))
    && e.exc.due.isEmpty && e.exc.keep.isEmpty && (e.pos.slot.isNone || e.st == .held) && e.pos.kill == 0 && e.pos.ins == 0
    && !(match e.pos.rep with | some r => r.noirq | none => false)
    && e.exc.atomic.isNone && e.exc.dframe.isNone && decide (e.exc.frames.length < 8)
    && !(bundleHeld s n && e.st != .held) && e.pos.relLim.isNone && !(e.exc.fresh.any fun x => x.issued == 0)

/-- A logged interrupt of the present boundary, in replay (R225). -/
def loggedIrq (p : Pair) : Option Nat :=
  match nextEvent p p.count with
  | some r => if r.kind = 0x0B then some (r.value.toNat % 32) else none
  | none => none

/-- The source that an RFE chains at its boundary (R200), among those that may end the hold of a frame that marks a wait (R179). -/
def chainTaken (s : State) (n : Nat) : Option Nat :=
  let e := getEng s n
  match e.exc.frames with
  | [] => none
  | f :: _ =>
    if inReplay (getPair s (pairOf n)) then loggedIrq (getPair s (pairOf n))
    else irqChoice e.exc (if f.wait.isSome then holdEnders s n e.exc else e.exc.irqpend) f.mask f.run

/-- The source that is taken at the present boundary, if one is (R200, R205, R206, R225). -/
def irqTaken (s : State) (n : Nat) : Option Nat :=
  let e := getEng s n
  let p := getPair s (pairOf n)
  if e.exc.rfe then (if issuesItself s n then chainTaken s n else none)
  else if irqBoundary s n = false then none
  else if inReplay p then loggedIrq p
  else
    let pend := match e.pos.wait with | some w => if e.st = .held then holdPend s n e.exc w else e.exc.irqpend | none => e.exc.irqpend
    irqChoice e.exc pend e.exc.mask e.exc.run

/-! ### Exceptions and captures -/

/-- The exceptions that the log has at the present boundary: the oldest records of KIND 0x0C that stand together. -/
def loggedDues (p : Pair) : List Due :=
  match nextEvent p p.count with
  | some r =>
    if r.kind = 0x0C then
      let here := ((p.rlog.filter fun x => (x.kind == 0x0B || x.kind == 0x0C || x.kind == 0x0D) && x.count == p.count % 2 ^ 24).takeWhile
        fun x => x.kind == 0x0C).length
      let left := (p.rlog.filter fun x => x.kind == 0x0C).length
      (p.dues.drop (p.dues.length - left)).take here
    else []
  | none => []

/-- The exceptions due at the present boundary: in replay those from outside come from the log (R225). -/
def dueNow (s : State) (n : Nat) : List Due :=
  let p := getPair s (pairOf n)
  let e := closeWindow (getEng s n)
  if inReplay p then (e.exc.due.filter fun d => !outsideDue d) ++ loggedDues p else e.exc.due

/-- A capture may be taken at the present boundary (R221); none is taken during a wipe (R258). -/
def captureAllowed (s : State) (m : Nat) : Bool :=
  let e := getEng s (mainOf m)
  let p := getPair s m
  (p.st == .checked || p.st == .unchecked || p.st == .handover || p.st == .restoring) && (p.phase == .none || inReplay p)
    && (e.st == .running || e.st == .restoring)
    && e.exc.frames.isEmpty && e.exc.dframe.isNone && e.exc.atomic.isNone && e.exc.due.isEmpty
    && !(match e.pos.rep with | some r => r.noirq | none => false)
    && e.pos.slot.isNone && e.pos.kill == 0 && e.pos.ins == 0 && !e.heldLsu && s.mem.wipe.isNone

/-- A split pair waits for the capture of MERGE_KEEP, and its main copy stands at a boundary that permits it (R221, Table 11-8): a MARK, or
the interval, has made one fall due. -/
def mergeReady (s : State) (m : Nat) : Bool :=
  let p := getPair s m
  let e := getEng s (mainOf m)
  mergeWaits p && p.capDue && e.st == .running && e.exc.frames.isEmpty && e.exc.dframe.isNone && e.exc.atomic.isNone
    && e.exc.due.isEmpty && !(match e.pos.rep with | some r => r.noirq | none => false)
    && e.pos.slot.isNone && e.pos.kill == 0 && e.pos.ins == 0 && !e.heldLsu && s.mem.wipe.isNone

/-- Nothing else comes before the next bundle of engine n: no entry, no due capture, and the meter lets it issue.
[DESIGN CHOICE, log row 12] -/
def bundleNext (s : State) (n : Nat) : Bool :=
  let m := pairOf n
  mayIssue s n && (irqTaken s n).isNone && (dueNow s n).isEmpty && meterFree s (tileOf n)
    && !(!pairSplit (getPair s m) && (getPair s m).capDue && captureAllowed s m) && !(n == mainOf m && mergeReady s m)

end Sys2Proof.Machine
end

