-- ==== Sys2Proof/Machine/Pairs.lean ====
section
/-! DEFINITION. Machine/Pairs.lean: engine and pair commands, captures, restores, migration, split and merge (R63 to R66, R221 to
R241). -/

namespace Sys2Proof.Machine

/-! ### Starting and stopping engines -/

/-- No START is accepted while a tamper stop or a device stop holds (R33, R441). -/
def startBarred (s : State) : Bool := s.boot.tamperStop || s.boot.stopped

/-- The tile's class is confirmed, or it has none (R415, R416). -/
def paceReady (s : State) (t : Nat) : Bool := valGet s (cTile t 0x06) == 0 || (getTile s t).paceOk

/-- A START finds engine n HALTED, in a tile that is on, or in one that leaves retention for it (R417, Table 18-5). -/
def startable (s : State) (n : Nat) : Bool :=
  let x := (getTile s (tileOf n)).dom
  shownState s n == .halted
    || ((x == 1 || (x == 3 && !s.power.filling.contains (512 + tileOf n))) && (getEng s n).st == .halted && (getPair s (pairOf n)).phase == .none)

/-- A START takes effect at once: the tile is on and its class confirmed (R416). -/
def startNow (s : State) (t : Nat) : Bool := (getTile s t).dom == 0 && paceReady s t

/-- An engine of the tile is at work (R154: the window is cleared at START of the tile's first engine). -/
def tileBusy (s : State) (t : Nat) : Bool :=
  (List.range 8).any fun e =>
    match shownState s (8 * t + e) with
    | .off => false
    | .retained => false
    | .halted => false
    | .fused => false
    | _ => true

/-- The meter of a tile whose first engine starts, and the activations it has counted (R154). -/
def freshMeter (t : Nat) (s : State) : State :=
  if tileBusy s t then s
  else (List.range 8).foldl (fun a e => modEng (8 * t + e) (fun x => { x with acts := [], actNow := 0 }) a)
    (modTile t (fun x => { x with window := [], debt := 0 }) s)

/-- START of engine n with the entries of engine `src` (R63, R64, Table 03-9): RUNNING at once where no start time is set or `now` says so,
RUNNING late, or ARMED. -/
def startEngineAt (n src : Nat) (now : Bool) (s : State) : State :=
  let at_ := if now then 0 else valGet s (cEng src 5)
  let late := decide (at_ ≠ 0) && decide (at_ < s.now)
  modEng n (fun e =>
    { startValues (performs s n) e with
      st := if at_ = 0 ∨ late = true then .running else .armed
      slotFetch := valGet s (cEng src 3) == 1
      pos := Pos.start (valGet s (cEng src 4))
      cause := if late then 0x20000000#32 else 0#32 }) (freshMeter (tileOf n) s)

/-- START of engine n by its own entries (Table 03-8). -/
def startEngine (n src : Nat) (s : State) : State := startEngineAt n src false s

/-- A hold of engine n ends in the new time or at the present instant (R65, R188, Table 09-5): late in full, with exception 0x07 under
tile.time.late.fault at the boundary R177 names, or within its tolerance; while the follower cannot release, the engine holds on (R174).
[DESIGN CHOICE, log row 23] -/
def endHold (n : Nat) (w : WaitSt) (late : Bool) (s : State) : State :=
  let e := getEng s n
  if releases s n = false then setEng n { e with st := .held, pos := { e.pos with wait := some { w with late := late }, missed := true } } s
  else
    let fault : Bool := late && valGet s (cTile (tileOf n) 0x21) == 1
    let s1 := setEng n { e with
      st := .running
      pos := { e.pos with
        wait := none, missed := false
        relLim := if fault then none else some (if late then 2 ^ 64 else max s.now (w.target + w.tol))
        late := if fault ∧ e.pos.slot.isSome then some (w.addr, w.first) else none }
      exc := { e.exc with due := e.exc.due ++ (if fault ∧ e.pos.slot.isNone then [⟨0x07, w.addr, false, false, w.first⟩] else []) } } s
    if late then countLate n s1 else s1

/-- A halted wait is taken again at the present instant (R65, Table 09-5).
[DESIGN CHOICE, log row 23] -/
def rejoinWait (n : Nat) (s : State) : State :=
  let e := getEng s n
  match e.pos.wait with
  | none => setEng n { e with st := .running } s
  | some w =>
    if s.now ≤ w.target then setEng n { e with st := .held } s else endHold n w (decide (w.target + w.tol < s.now)) s

/-- A command waits for the boundary after a held bundle, a precise-mode trigger's inserted bundles, or the chained entry of an RFE (R65,
R110, R200). -/
def holdsCommand (s : State) (n : Nat) : Bool :=
  bundleHeld s n || (getEng s n).pos.ins != 0 || (getEng s n).exc.rfe

/-- The pair follows its main copy's stop or halt: everything issued is compared and released first (R64, R239), and the program writes of
both copies are applied (R143). The stop of SPLIT leads to SPLIT (R238). -/
def pairAfter (m : Nat) (s : State) : State :=
  let p := getPair s m
  let e := getEng s (mainOf m)
  if countsChecked p = false ∨ p.st = .restoring then s
  else if e.st = .halted then
    let s1 := drainChain 64 m 0 s
    if (getPair s1 m).st = .restoring ∨ (getPair s1 m).st = .out then s1
    else if p.cmdDue = true ∧ p.cmd = 3 then
      tryMask m (modPair m (fun q => { q with st := .split, chain := [], capDue := false, cmd := 0, cmdDue := false, mig := none })
        (modEng (checkerOf m) (fun c => haltEngine false (applyPwb c)) s1))
    else tryMask m (modPair m (fun q => { q with st := .idle, chain := [], capDue := false, cmd := 0, cmdDue := false, mig := none })
      (modEng (checkerOf m) (fun c => haltEngine false (applyPwb c)) s1))
  else if e.st = .debug ∧ p.st ≠ .debug then
    let s1 := drainChain 64 m 0 s
    if (getPair s1 m).st = .restoring ∨ (getPair s1 m).st = .out then s1
    else modPair m (fun q => { q with st := .debug, prev := q.st }) (modEng (checkerOf m) (fun c => { c with st := .debug }) s1)
  else s


/-- An engine command at a boundary, or waiting for one (R65). -/
def engStopLike (n v : Nat) (s : State) : State :=
  let e := getEng s n
  if e.st = .running ∧ holdsCommand s n = true then setEng n { e with cmd := v } s
  else applyEngCmd n (setEng n { e with cmd := v } s)

/-- SPLIT and MERGE (Table 11-8): both engines stop at the first boundary at or after the mark, after a held bundle (R65), and the pair
enters SPLIT or IDLE. -/
def stopInto (m : Nat) (st : PairState) (s : State) : State :=
  let p := getPair s m
  if countsChecked p then pairAfter m (engStopLike (mainOf m) 2 (setPair m { p with cmdDue := true } s))
  else
    let s1 := if pairSplit p then engStopLike (mainOf m) 2 (engStopLike (checkerOf m) 2 s) else s
    let off (n : Nat) : Bool := (getEng s1 n).cmd == 0
    if off (mainOf m) = true ∧ off (checkerOf m) = true then
      modPair m (fun q => { q with st := st, cmd := 0, cmdDue := false, chain := [], capDue := false, mig := none }) s1
    else modPair m (fun q => { q with cmdDue := true }) s1

/-- MERGE of a pair one of whose engines held a bundle at the mark: both have stopped (R65, R238). -/
def mergeAfter (m : Nat) (s : State) : State :=
  let p := getPair s m
  if pairSplit p = true ∧ p.cmdDue = true ∧ p.cmd = 5 ∧ (getEng s (mainOf m)).cmd = 0 ∧ (getEng s (checkerOf m)).cmd = 0 then stopInto m .idle s
  else s

/-- A step of engine n, with what its pair makes of it. -/
def issueOne (n q : Nat) (s : State) : State := mergeAfter (pairOf n) (pairAfter (pairOf n) (engineStep n q s))

/-- One bundle in DEBUG (STEP of Table 03-8); what comes before it at its boundary, or a stall it must complete, comes first.
[DESIGN CHOICE, log row 22] -/
def engStepOne (n : Nat) (s : State) : State :=
  let s1 := modEng n (fun e => { e with cmd := 5 }) (rejoinWait n s)
  if bundleNext s1 n then issueOne n 1 s1 else s1

/-- A write of engine.cmd: the abort code, 0 = done, and the state (Table 03-8, R63, R66, R241).
[DESIGN CHOICE, log row 21] -/
def engCmdWrite (n v : Nat) (s : State) : Nat × State :=
  let p := getPair s (pairOf n)
  let st := shownState s n
  let live := st == .running || st == .held
  if (v = 3 ∨ v = 4 ∨ v = 5) ∧ valGet s (callNo 0x1510 0x0C) = 0 then (4, s)
  else if countsChecked p ∨ waitsCapture p = true then (8, s)
  else match v with
    | 1 =>
      if startable s n = false ∨ pairSplit p = false ∨ startBarred s = true then (8, s)
      else if startNow s (tileOf n) then (0, startEngine n n s)
      else (0, modTile (tileOf n) (fun t => { t with waiting := t.waiting ++ [⟨n, 0, s.up⟩] }) s)
    | 2 => if live || st == .armed || st == .debug then (0, engStopLike n 2 s) else (8, s)
    | 3 => if live then (0, engStopLike n 3 s) else (8, s)
    | 4 => if st = .debug then (0, rejoinWait n s) else (8, s)
    | 5 => if st = .debug then (0, engStepOne n s) else (8, s)
    | 6 => if live || st == .halted || st == .armed || st == .debug then (0, engStopLike n 6 s) else (8, s)
    | _ => (7, s)

/-! ### Captures and restores (R221 to R225) -/

/-- An engine restored from a slot in 60 steps (R224): loads recorded as outstanding are performed anew from their addresses (R225);
engine.cause, the counters and accesses still under way are kept.
[DESIGN CHOICE, log row 18] -/
def restoreCkpt (place : Word → Word → Place) (c : Ckpt) (e : Engine) : Engine :=
  let z := startValues false e
  let lat := (List.range 16).foldl (fun a k => latchWrite a k (c.lat.getD k 0#32)) Latches.zero
  let lq := ckptLoads (place lat.lsuwin) e.lsuSeq false c.lq
  addSteps 60 { z with
    g := kvFrom 0#32 c.g, flag := c.flag, lat := lat
    res := (List.range 7).foldl (fun a k => resultWrite a k (c.res.getD k 0#32)) Results.zero
    lnk := (c.res.getD 7 0#32).toNat % 8192
    ldq := lq, lsuSeq := e.lsuSeq + lq.length
    ctr := e.ctr, cause := e.cause, stb := e.stb, pastSt := e.pastSt
    pos := { Pos.start c.pc with lastpc := e.pos.lastpc, loop := c.loop, rep := c.rep }
    exc := { ExcSt.start with super := c.super, precise := c.precise, mask := c.mask, run := c.run, vbase := c.vbase
                              sysent := kvFrom 0 c.sysent, irqen := c.irqen, irqpend := c.irqpend, irqlvl := kvFrom 0 c.irqlvl } }

/-- Where a load recorded in a slot goes, by the restored lsu.win. -/
def slotPlace (s : State) (n : Nat) (win a : Word) : Place := placeOf s n a.toNat win

/-- Both engines land what is in flight and spend the 40 steps of a capture (R196, R222); a pair that runs unchecked has one engine at
work. -/
def captureSteps (m : Nat) (s : State) : State :=
  let s1 := modEng (mainOf m) (fun e => addSteps 40 (landAll e)) s
  if compares (getPair s m) then modEng (checkerOf m) (fun e => addSteps 40 (landAll e)) s1 else s1

/-- What a checker's capture records: the pending bits and the data of returned loads are its main copy's, which alone samples them (R208,
R218). -/
def checkerCkpt (p : Pair) (main : Ckpt) (e : Engine) : Ckpt :=
  let c := ckptOf p e
  { c with
    irqpend := main.irqpend
    lq := (List.range c.lq.length).map fun i =>
      let x := c.lq.getD i (false, 0#32, 0)
      match main.lq[i]? with
      | some y => if y.1 then (true, y.2.1, x.2.2) else x
      | none => x }

/-- A field of pair.events grows by one and stays at 255 (Table 11-9).
[DESIGN CHOICE, log row 18] -/
def pairEvent (m lo : Nat) (s : State) : State :=
  let v := valGet s (cPair m 6)
  if bits v lo 8 < 255 then valPut (cPair m 6) (v + 2 ^ lo) s else s

/-- A capture at 1,344 records or more counts as a log capture (R221, Table 11-9).
[DESIGN CHOICE, log row 20] -/
def logCapture (m : Nat) (s : State) : State :=
  if 1344 ≤ (getPair s m).logN ∧ (getPair s m).logKept = false then pairEvent m 16 s else s

/-- The capture's words have compared equal: they are written to the slot that is not current, which becomes current, and the log
restarts empty (R222); after a checker fault slots and log are kept (R233).
[DESIGN CHOICE, log row 20] -/
def acceptCapture (m : Nat) (c : Ckpt) (s : State) : State :=
  let p := getPair s m
  if p.logKept then setPair m { p with capDue := false, sinceCap := 0, captures := p.captures + 1 } s
  else
    let s1 := modEng (mainOf m) forgetRecords (putSlot m (!p.cur) c (logCapture m s))
    modPair m (fun q => { emptyLog q with
      cur := !q.cur
      valid := true, count := 0, sinceCap := 0, capDue := false, captures := q.captures + 1
      phase := match q.phase with | .replay b => .replay (b - q.count) | x => x }) s1

/-- The main copy's receive queue moves ahead of the spare's own words (R232). -/
def moveQueue (a b : Nat) (s : State) : State :=
  let q := (getEng s a).rq
  modEng a (fun e => { e with rq := ⟨[], false, false⟩ })
    (modEng b (fun e => { e with rq := { e.rq with words := (q.words ++ e.rq.words).take 64 } }) s)

/-- The home pair m leaves its work to spare k (R231, R232): the capture `c` is written to the spare's slot 0, event 0x24, the home pair OUT
with MOVED, the spare running checked from it with the main-copy queue moved. -/
def handOver (m k : Nat) (c : Ckpt) (s : State) : State :=
  let p := getPair s m
  let s1 := putSlot k false c (haltPair m s)
  let s2 := moveQueue (mainOf m) (mainOf k) s1
  let run (e : Engine) : Engine := { restoreCkpt (slotPlace s (mainOf k)) c e with st := .running, ctr := ⟨60, 0, 0, 0⟩ }
  let s3 := modEng (mainOf k) run (modEng (checkerOf k) run s2)
  let q : Pair := { Pair.fresh with st := .checked, valid := true, outseq := c.outseq, captures := p.captures + 1
                                    lastThird := p.lastThird }
  let s4 := setPair k q (setPair m { emptyLog p with st := .out, chain := [], phase := .none, capDue := false, mig := none, taker := some k
                                                     cmd := 0, cmdDue := false, subst := false, held := false } s3)
  logEvent 0x24 false m k 0 s4

/-- SPLIT_KEEP at the capture: the main copy runs on unchecked, releasing at issue; the checker is HALTED (Table 11-8). -/
def splitKeep (m : Nat) (s : State) : State :=
  modPair m (fun p => { p with st := .split, cmd := 0, cmdDue := false, chain := [] }) (modEng (checkerOf m) (haltEngine false) s)

/-- MERGE_KEEP at the capture: the checker restores from it while the main copy waits 62 steps, then the pair runs CHECKED. The capture is
written to the slot that is not current. -/
def mergeKeep (m : Nat) (c : Ckpt) (s : State) : State :=
  let main := getEng s (mainOf m)
  let s1 := modEng (checkerOf m) (fun e =>
    { restoreCkpt (slotPlace s (mainOf m)) c { e with pmem := main.pmem, pbad := [], slotFetch := main.slotFetch } with
      st := .running, ldq := main.ldq, ctr := main.ctr, stb := [] }) s
  modPair m (fun p => { emptyLog p with st := .checked, cmd := 0, cmdDue := false, cur := !p.cur, valid := true, captures := p.captures + 1
                                        count := 0, sinceCap := 0, chain := [] })
    (modEng (mainOf m) (fun e => addSteps 62 (forgetRecords e)) (putSlot m (!(getPair s m).cur) c s1))

/-- A due capture is taken at a permitted boundary (R222): what was issued is compared and released, 40 steps pass, the words
compare, and a hand-over, split or merge that waited for the capture follows.
[DESIGN CHOICE, log row 20] -/
def takeCapture (m : Nat) (s : State) : State :=
  let s0 := drainChain 64 m 0 s
  let p := getPair s0 m
  if p.st = .out ∨ (p.st = .restoring ∧ p.phase = .resetting) then s0
  else
    let s1 := captureSteps m s0
    let c := ckptOf p (getEng s1 (mainOf m))
    if compares p ∧ ckptBits c ≠ ckptBits (checkerCkpt p c (getEng s1 (checkerOf m))) then mismatch m (armedOut s m) s1
    else
      match p.mig with
      | some g => if g.armed ∧ g.copied ∧ g.fault = false then handOver m g.spare c s1 else acceptCapture m c s1
      | none => if p.cmdDue ∧ p.cmd = 4 then splitKeep m (acceptCapture m c s1) else acceptCapture m c s1

/-- The capture of the main copy of a split pair that MERGE_KEEP waits for (Table 11-8). -/
def takeMergeCapture (m : Nat) (s : State) : State :=
  let s1 := modEng (mainOf m) (fun e => addSteps 40 (landAll e)) s
  mergeKeep m (ckptOf (getPair s1 m) (getEng s1 (mainOf m))) s1

/-- The engines of a restarting pair are restored from the current slot, and the log is set up for replay (R224, R225). `bad`: a word of
the slot is disturbed beyond correction. A pair whose slot or log has an uncorrectable error, or whose slot's CRC fails, cannot recover
(R229). -/
def restorePair (m : Nat) (bad : Bool) (s : State) : State :=
  let p := getPair s m
  let (slot, s1) := readSlot m p.cur s
  let (recs, good, s2) := readLog m s1
  match (if bad ∨ p.valid = false ∨ good = false then none else slot) with
  | some c =>
    let put (acts : Bool) (e : Engine) : Engine :=
      { restoreCkpt (slotPlace s (mainOf m)) c e with st := .restoring, stb := if acts then e.stb else [] }
    setPair m { p with
      phase := .replay p.count, rlog := recs, count := 0, outseq := c.outseq, sinceCap := 0, chain := []
      skip := (p.relBefore + 2 ^ 32 - c.outseq) % 2 ^ 32 }
      (modEng (mainOf m) (put true) (modEng (checkerOf m) (put false) s2))
  | none => unrecoverable m s2

/-- Replay is complete: the pair runs on live (R225), in DEBUG where it was halted (R240), or UNCHECKED where it ran so before or for want
of a spare. Events and store errors that waited are due now.
[DESIGN CHOICE, log row 18] -/
def replayDone (m : Nat) (s : State) : State :=
  let p := getPair s m
  let st := if p.toDebug then EngState.debug else EngState.running
  let s1 := modEng (mainOf m) (fun e => { e with
    st := st, exc := { e.exc with irqpend := e.exc.irqpend ||| p.defer, due := e.exc.due ++ p.deferDue } })
    (modEng (checkerOf m) (fun e => { e with st := st }) s)
  setPair m { p with
    st := if p.toDebug then .debug
          else if p.mig.isSome ∧ p.after = .checked then (if (p.mig.any fun g => g.armed) then .handover else .checked) else p.after
    prev := p.after, phase := .none, toDebug := false, rlog := [], dead := none, defer := 0, deferDue := [] } s1

/-! ### Pair commands (Table 11-11) -/

/-- START of a pair: both engines start from the main copy's entries (R241); `now`: at once, whatever engine.start.at says (R35). -/
def startPairAt (m : Nat) (now : Bool) (s : State) : State :=
  let s1 := startEngineAt (checkerOf m) (mainOf m) now (startEngineAt (mainOf m) (mainOf m) now s)
  let s2 := setPair m { Pair.fresh with st := .checked, lastMis := (getPair s m).lastMis, lastThird := (getPair s m).lastThird } s1
  { s2 with svc := { s2.svc with cutOut := s2.svc.cutOut.filter fun k => k != m } }

/-- START of a pair (Table 11-11). -/
def startPair (m : Nat) (s : State) : State := startPairAt m false s

/-- The folio that runs on the main copy of a split pair was declared CHECKED (Table 11-8): it is loaded on the pair. -/
def mainRunsChecked (s : State) (m : Nat) : Bool := s.svc.folios.any fun f => f.owner == m

/-- The comparator injection of a pair (R235). `bad` names the lane or stage that fails a step of Table 11-6. -/
def injectPair (m : Nat) (bad : Option Nat) (s : State) : State :=
  match bad with
  | none => s
  | some l => logEvent 0x21 true m l 0 (modPair m (fun p => { p with st := .out }) s)

/-- STOP, HALT of a pair through its main copy. -/
def pairStopLike (m v : Nat) (s : State) : State := pairAfter m (engStopLike (mainOf m) v s)

/-- RESUME of a pair: both engines return to their previous states. -/
def pairResume (m : Nat) (s : State) : State :=
  let s1 := rejoinWait (mainOf m) (modPair m (fun p => { p with st := p.prev }) s)
  modEng (checkerOf m) (fun c => { c with st := .running }) s1

/-- STEP of a pair: one bundle in the main copy and the same in the checker. -/
def pairStepOne (m : Nat) (s : State) : State :=
  let s0 := pairResume m s
  let s1 := modEng (mainOf m) (fun e => { e with cmd := 5 }) s0
  if bundleNext s1 (mainOf m) then issueOne (mainOf m) 1 s1 else s1

/-- A write of pair.cmd: the abort code, 0 = done, and the state (Table 11-11). `bad` is what an injection finds.
[DEDUCED, log row 19; DESIGN CHOICE, log row 21] -/
def pairCmdWrite (m v : Nat) (bad : Option Nat) (s : State) : Nat × State :=
  let p := getPair s m
  let idle := pairCode s m == 0
  if (v = 8 ∨ v = 9 ∨ v = 10) ∧ valGet s (callNo 0x1510 0x0C) = 0 then (4, s)
  else if v = 0 ∨ 11 < v then (7, s)
  else if p.cmd ≠ 0 ∨ (p.mig.any fun g => g.cmd) = true then (8, s)
  else
    let wait : State := setPair m { p with cmd := v, cmdAt := valGet s (cPair m 3), cmdDue := false } s
    match v with
    | 1 =>
      if idle = false ∨ startBarred s = true ∨ startable s (mainOf m) = false ∨ startable s (checkerOf m) = false then (8, s)
      else if startNow s (pairTile m) then (0, startPair m s)
      else (0, modTile (pairTile m) (fun t => { t with waiting := t.waiting ++ [⟨256 + m, 0, s.up⟩] }) s)
    | 2 => if p.st = .checked ∨ p.st = .unchecked ∨ p.st = .debug then (0, pairStopLike m 2 s) else (8, s)
    | 3 => if idle ∨ p.st = .checked then (0, wait) else (8, s)
    | 4 => if p.st = .checked then (0, wait) else (8, s)
    | 5 => if p.st = .split then (0, wait) else (8, s)
    | 6 =>
      if p.st = .split ∧ (getEng s (checkerOf m)).st = .halted ∧ mainRunsChecked s m = true
        ∧ ((getEng s (mainOf m)).st = .running ∨ (getEng s (mainOf m)).st = .held) then (0, wait) else (8, s)
    | 7 => if p.st = .checked ∧ p.mig.isNone then (0, modPair m (fun q => { q with mig := q.mig.map fun g => { g with cmd := true } }) (startMigration m (valGet s (cPair m 3)) false s)) else (8, s)
    | 8 => if p.st = .checked ∨ p.st = .unchecked then (0, pairStopLike m 3 s) else (8, s)
    | 9 => if p.st = .debug then (0, pairResume m s) else (8, s)
    | 10 => if p.st = .debug then (0, pairStepOne m s) else (8, s)
    | _ => if p.st = .idle then (0, injectPair m bad s) else (8, s)

/-- What a period mark does to a pair's waiting command (R237, R238): a pair that restarts waits for the next mark. The capture that
SPLIT_KEEP, MERGE_KEEP or a hand-over waits for is the pair's next one (R221, R231). -/
def pairAtMark (m : Nat) (s : State) : State :=
  let p := getPair s m
  let s1 :=
    if p.cmd ≠ 0 ∧ p.cmdAt ≤ s.now ∧ p.st ≠ .restoring ∧ p.cmdDue = false then
      match p.cmd with
      | 3 => stopInto m .split s
      | 4 => setPair m { p with cmdDue := true } s
      | 5 => stopInto m .idle s
      | 6 => setPair m { p with cmdDue := true } s
      | _ => s
    else s
  let q := getPair s1 m
  match q.mig with
  | some g =>
    if g.fault = false ∧ g.from_ ≤ s1.now ∧ q.phase = .none then
      setPair m { q with st := if q.st = .checked then .handover else q.st, mig := some (if g.armed then g else { g with armed := true, markAt := s1.now, kept := [] }) } s1
    else s1
  | none => s1

/-- SUBST clears at the next period mark (R228). -/
def substAtMark (m : Nat) (s : State) : State := modPair m (fun p => { p with subst := false }) s

/-- The largest HSHARE of any checked folio loaded in a tile group (R230). -/
def groupShare (s : State) (g : Nat) : Nat :=
  ((s.svc.folios.filter fun f => decide (f.owner < 128) && pairGroup f.owner == g).map fun f => f.hshare).foldl max 0

/-- The heavy-unit sum of tile t, its engines in `skip` left out: the shares of its engines, and a pair in SPARE at twice `share`
(R157, R230). -/
def heavySum (s : State) (t share : Nat) (skip : List Nat) : Nat :=
  (List.range 4).foldl (fun a i =>
    let m := 4 * t + i
    if pairCode s m = 7 then a + 2 * share
    else
      let one (n : Nat) : Nat := if skip.contains n then 0 else valGet s (cEng n 0x0B)
      a + one (mainOf m) + one (checkerOf m)) 0

/-- Whether a write of 1 to pair.spare fits (Table 11-9, R230): the spare count and the budget share. -/
def spareFits (s : State) (m : Nat) : Bool :=
  let n := ((List.range 128).filter fun k => valGet s (cPair k 8) == 1).length
  let t := pairTile m
  let share := groupShare s (pairGroup m)
  decide (n < 32) && decide (heavySum s t share [mainOf m, checkerOf m] + 2 * share ≤ valGet s (cTile t 0x10))

end Sys2Proof.Machine
end

