-- ==== Sys2Proof/Machine/Net.lean ====
section
/-! DEFINITION. Machine/Net.lean: words, stamped outputs, timed pins and input captures (R58 to R61, R182 to R186, R399, R400). -/

namespace Sys2Proof.Machine

/-! ### Words to receive queues -/

/-- The domain of a tile: 0 on, 1 retention, 2 off, 3 waking (Table 12-5). -/
def tileDom (s : State) (t : Nat) : Nat := (getTile s t).dom

/-- The wake event a word gives a tile (R58, R417, R419): an entry into retention that has not reached its commit point is given up, one
past it keeps the wake until its save phase ends, a tile in retention begins to wake, and a waking one forgets a request for retention. -/
def wakeTile (t : Nat) (s : State) : State :=
  let k := 512 + t
  let q := s.power
  if kvGet 0 q.entry k = 1 then { s with power := { q with entry := kvSet 0 q.entry k 0 } }
  else if kvGet 0 q.entry k = 2 then (if q.wakeNext.contains k then s else { s with power := { q with wakeNext := q.wakeNext ++ [k] } })
  else if tileDom s t = 1 then modTile t (fun x => { x with dom := 3 }) s
  else if tileDom s t = 3 then { s with power := { q with retNext := q.retNext.filter fun x => x != k } }
  else s

/-- The oldest word of sender `src` to engine `dst`. -/
def flightOf (s : State) (src dst : Nat) : Option XuWord := s.net.flights.find? fun f => f.src == src && f.dst == dst

/-- The words in flight without the oldest of a sender to an engine. -/
def dropFlight (src dst : Nat) : List XuWord → List XuWord
  | [] => []
  | f :: t => if f.src = src ∧ f.dst = dst then t else f :: dropFlight src dst t

/-- A discarded stamped word sets OVERFLOW (R182, R204). -/
def setOverflow (n : Nat) (s : State) : State :=
  let e := getEng s n
  let s1 := setEng n { e with rq := { e.rq with ovf := true } } s
  if e.rq.ovf then s1 else setPend n 2 s1

/-- Late tolerance of a sender, 0 for a transfer channel or the debug port. -/
def senderTol (s : State) (src : Nat) : Nat := if src < 256 then tileTol s src else 0

/-- A stamped output that reaches its destination at or after T + τ counts late for its sender (R183).
[DEDUCED, log row 61] -/
def lateIf (src T : Nat) (s : State) : State :=
  if src < 256 ∧ T + senderTol s src ≤ s.now then countLate src s else s

/-- Insertion by stamp; equal stamps keep their order. -/
def insertBy (w : XuWord) : List XuWord → List XuWord
  | [] => [w]
  | x :: t => if w.stamp.getD 0 < x.stamp.getD 0 then w :: x :: t else x :: insertBy w t

/-- Words in order of stamp, equal stamps in arrival order (R182). -/
def byStamp (l : List XuWord) : List XuWord := l.foldl (fun a w => insertBy w a) []

/-- The stamped words of a queue whose T lies at or before `t` enter it, in order of T (R182). -/
def wordsDue (t dst : Nat) (s : State) : State :=
  let k := queueOwner s dst
  let mine (w : XuWord) : Bool := queueOwner s w.dst == k && decide (w.stamp.getD 0 ≤ t)
  let due := byStamp (s.net.waiting.filter mine)
  due.foldl (fun a w => rqEnter w.dst w.value a) { s with net := { s.net with waiting := s.net.waiting.filter fun w => !mine w } }

/-- Senders whose words arrive in one step, in the order in which the words enter: engines by number, then 256 (R60). -/
def bySender (l : List Nat) : List Nat := ((List.range 257).map fun k => l.filter fun x => x == k).flatten

/-- The oldest word of a sender to engine `dst` arrives (R58, R60, R182): a tile in retention wakes and the word waits; one that
is off discards it; a stamped word that is early waits at the router, at most 8 for each queue. A word for a tile that leaves off and still
fills waits like one for a tile that wakes.
[DESIGN CHOICE, log row 52] -/
def wordArrives (dst : Nat) (s : State) (src : Nat) : State :=
  match flightOf s src dst with
  | none => s
  | some f =>
    let k := queueOwner s dst
    let s1 : State := { s with net := { s.net with flights := dropFlight src dst s.net.flights } }
    match tileDom s (tileOf k) with
    | 2 => s1
    | 0 =>
      let s1 := wordsDue s.now dst (wakeTile (tileOf k) s1)
      match f.stamp with
      | none => rqEnter dst f.value s1
      | some T =>
        if T ≤ s.now then lateIf src T (rqEnter dst f.value s1)
        else if 8 ≤ (s1.net.waiting.filter fun w => queueOwner s1 w.dst == k).length then setOverflow k s1
        else { s1 with net := { s1.net with waiting := s1.net.waiting ++ [f] } }
    | _ => wakeTile (tileOf k) s

/-- Half a nanosecond, in quarter-nanoseconds. -/
def halfNs : Nat := 2

/-- The stamped words of a queue whose T has come, within the ±0.5 ns of R182, enter it. In a tile that is off they are discarded; one in
retention wakes, and they enter once it is on (R58).
[DESIGN CHOICE, log row 52] -/
def stampedEntry (dst : Nat) (s : State) : State :=
  let k := queueOwner s dst
  let due (w : XuWord) : Bool := queueOwner s w.dst == k && decide (w.stamp.getD 0 ≤ s.now + halfNs)
  match tileDom s (tileOf k) with
  | 0 => wordsDue (s.now + halfNs) dst s
  | 2 => { s with net := { s.net with waiting := s.net.waiting.filter fun w => !due w } }
  | _ => wakeTile (tileOf k) s

/-! ### Timed pins (R399, R400) -/

/-- tio.mode of a pin; it takes effect once the catalogue is ready (R435). -/
def tioMode (s : State) (p : Nat) : Nat := if s.cat.ready then valGet s (cTio p 1) else 0

/-- A write to a pin is discarded and counted (R400). -/
def pinDiscard (p : Nat) (s : State) : State := bump (cTio p 7) 1 32 s

/-- A write applied to a pin by its value's bits [1:0] (R400). -/
def pinApply (p v : Nat) (s : State) : State :=
  if (tioMode s p ≠ 1 ∧ tioMode s p ≠ 2) ∨ (s.pins.stop = true ∧ valGet s (cTio p 3) ≠ 3) then pinDiscard p s
  else
    let x := getPin s p
    let y : PinSt := match v % 4 with
      | 0 => { x with drive := some false, lastDriven := false }
      | 1 => { x with drive := some true, lastDriven := true }
      | 2 => { x with drive := some (!x.lastDriven), lastDriven := !x.lastDriven }
      | _ => { x with drive := none }
    valPut (cTio p 9) s.now (setPin p y s)

/-- The level at the ball (Table 17-6): as driven, else as driven from outside. An open-drain pin drives low only. -/
def pinLevel (s : State) (p : Nat) : Bool :=
  let x := getPin s p
  let out : Bool := Config.sensor (cTio p 4) s.drawn % 2 == 1
  match x.drive with
  | some b => if tioMode s p = 1 ∨ (tioMode s p = 2 ∧ b = false) then b else out
  | none => out

/-- A stamped write joins those that wait. Where one of an outgoing pair meets one of a pair that came in at its cut-over with the same T,
the incoming write is applied second (R455). -/
def joinStamped (s : State) (x : Stamped) (l : List Stamped) : List Stamped :=
  let of_ (k : Nat) (ms : List Nat) : Bool := decide (k < 256) && ms.contains (pairOf k)
  if of_ x.src s.svc.cutOut then
    match l.findIdx? fun w => w.at_ == x.at_ && of_ w.src s.svc.cutIn with
    | some i => l.take i ++ x :: l.drop i
    | none => l ++ [x]
  else l ++ [x]

/-- A stamped write waits at a pin, at most 16; one more is discarded, counted and logged as event 0x92 (R184, R405). -/
def pinQueue (p : Nat) (w : Stamped) (s : State) : State :=
  let x := getPin s p
  if 16 ≤ x.pend.length then (let s1 := bump (cTio p 6) 1 32 s; logEvent 0x92 false p (valGet s1 (cTio p 6)) 0 s1) else setPin p { x with pend := joinStamped s w x.pend } s

/-! ### Output images and stamped outputs -/

/-- A write reaches its image or pin and is applied. -/
def outApply (xto value : Word) (s : State) : State :=
  if xto.toNat / 2 ^ 30 = 1 then imageSend xto value (freezeDue (xto.toNat / 2 ^ 28 % 2) s)
  else pinApply (xto.toNat % 16) value.toNat s

/-- The stamped writes of one pin whose T lies at or before `t` take effect (R184). -/
def pinDue (t : Nat) (s : State) (p : Nat) : State :=
  let x := getPin s p
  let due := inOrder (x.pend.filter fun w => decide (w.at_ ≤ t))
  due.foldl (fun a w => outApply w.xto w.value a) (setPin p { x with pend := x.pend.filter fun w => !decide (w.at_ ≤ t) } s)

/-- Every stamped output whose T has come takes effect (R182). -/
def stampedDue (s : State) : State := (List.range 16).foldl (pinDue s.now) (imagesPut (fun w => decide (w.at_ ≤ s.now)) (freezeDue 1 (freezeDue 0 s)))

/-- A write reaches a ring output image or a pin (R23, R182, R183, R184), after the stamped writes whose T has come: unstamped it is
applied; stamped it is queued until its T, or applied at once when T has come. -/
def outArrives (w : OutWrite) (s : State) : State :=
  let a := stampedDue s
  match w.stamp with
  | none => outApply w.xto w.value a
  | some T =>
    if T ≤ s.now then lateIf w.src T (outApply w.xto w.value a)
    else
      let x : Stamped := ⟨T, w.src, w.xto, w.value⟩
      if w.xto.toNat / 2 ^ 30 = 1 then { a with net := { a.net with images := joinStamped a x a.net.images } }
      else pinQueue (w.xto.toNat % 16) x a

/-- The writes without the oldest of a sender. -/
def dropOut (src : Nat) : List OutWrite → List OutWrite
  | [] => []
  | w :: t => if w.src = src then t else w :: dropOut src t

/-- The oldest write of a sender arrives. -/
def outArrival (src : Nat) (s : State) : State :=
  match s.net.outs.find? fun w => w.src == src with
  | none => s
  | some w => outArrives w { s with net := { s.net with outs := dropOut src s.net.outs } }

/-! ### Input captures (R185, R186) -/

/-- An edge selection: 1 rising, 2 falling, 3 both. -/
def edgeSelected (sel : Nat) (rising : Bool) : Bool := sel == 3 || (sel == 1 && rising) || (sel == 2 && !rising)

/-- The source records an edge (R185): the record is dropped at a full queue, but SEQ and the newest capture advance. -/
def recordEdge (q : Nat) (rising : Bool) (s : State) : State :=
  let c := getCap s q
  let seq := (c.seq + 1) % 65536
  if 32 ≤ c.recs.length then setCap q { c with seq := seq, newest := some s.now } s
  else
    let s1 := setCap q { recs := c.recs ++ [(s.now, rising, c.seq)], seq := seq, newest := some s.now } s
    if q < 16 then setPendAll (12 + q) (bump (cTio q 8) 1 32 s1) else setPendAll 28 s1

/-- Two edges less than 4 ns apart give one record, for the first (R185). -/
def tooSoon (last : Option Nat) (up : Nat) : Bool := match last with | some t => decide (up < t + 16) | none => false

/-- Sirkan time at the nearest whole second, less `t`: what a rising edge of SYNC_IN measures (Table 09-2).
[DESIGN CHOICE, log row 23] -/
def secondOffset (t : Nat) : Int :=
  let x := t % 4000000000
  if x ≤ 2000000000 then -(x : Int) else 4000000000 - (x : Int)

/-- A rising edge of SYNC_IN is a measurement where SYNC_IN is the selected source (R171). -/
def syncMeasure (rising : Bool) (s : State) : State :=
  if rising ∧ valGet s (callNo 0x1100 3) = 3 then { s with time := { s.time with meas := some (secondOffset s.now) } } else s

/-- An edge at timed pin p (q < 16) or at SYNC_IN (q = 16). -/
def edgeAt (q : Nat) (rising : Bool) (s : State) : State :=
  if q < 16 then
    let x := getPin s q
    if tioMode s q = 3 ∧ edgeSelected (valGet s (cTio q 2)) rising = true ∧ tooSoon x.lastEdge s.up = false then
      recordEdge q rising (setPin q { x with lastEdge := some s.up } s)
    else s
  else
    let s := syncMeasure rising s
    if edgeSelected (valGet s (callNo 0x1510 6)) rising = true ∧ tooSoon s.pins.syncEdge s.up = false then
      recordEdge 16 rising { s with pins := { s.pins with syncEdge := some s.up } }
    else s

/-- A frame's arrival time is the newest capture of source 17 or 18 (R186). -/
def frameCapture (r : Nat) (t : Nat) (s : State) : State :=
  setCap (17 + r) { getCap s (17 + r) with newest := some t } s

/-! ### Safe stop (R387, R400) -/

/-- The output image with every stop byte at its stop value. -/
def stopBytes (s : State) (r : Nat) (f : Nat → Byte) (j : Nat) : Byte :=
  if ((longGet s (cRing r 0x1E)).getD (j / 8) 0#8).getLsbD (j % 8) then (longGet s (cRing r 0x1D)).getD j 0#8 else f j

/-- A ring goes into safe stop: image and frozen copy take the stop values (R387). -/
def stopRing (r : Nat) (s : State) : State :=
  if valGet s (cRing r 1) = 0 then s
  else
    modRing r (fun x =>
      { x with
        imgOut := (List.range 4096).foldl (fun m j => kvSet 0#8 m j (stopBytes s r (fun k => kvGet 0#8 m k) j)) x.imgOut
        frozen := x.frozen.map fun l => (List.range l.length).map fun j => stopBytes s r (fun k => l.getD k 0#8) j
        stopped := true }) s

/-- An output pin takes its stop value (R400, tio.stop). A pin in mode 0 or 3 drives nothing (R399). -/
def stopPin (s : State) (p : Nat) : State :=
  let x := getPin s p
  if tioMode s p ≠ 1 ∧ tioMode s p ≠ 2 then s
  else match valGet s (cTio p 3) with
    | 0 => setPin p { x with drive := some false, lastDriven := false } s
    | 1 => setPin p { x with drive := some true, lastDriven := true } s
    | 2 => setPin p { x with drive := none } s
    | _ => s

/-- While a safe stop holds, a pin whose mode or stop value changes takes its stop value (R400).
[DEDUCED, log row 59] -/
def pinHolds (p : Nat) (s : State) : State := if s.pins.stop then stopPin s p else s

/-- Every ring and pin in safe stop (R387, R400); event 0x65 where a ring has a role (Table 16-17). -/
def safeStop (s : State) : State :=
  let s0 := stopRing 1 (stopRing 0 s)
  let s1 := if valGet s (cRing 0 1) = 0 ∧ valGet s (cRing 1 1) = 0 then s0 else logEvent 0x65 true 0 0 0 s0
  (List.range 16).foldl stopPin { s1 with pins := { s1.pins with stop := true } }

end Sys2Proof.Machine
end

