-- ==== Sys2Proof/Machine/Time.lean ====
section
/-! DEFINITION. Machine/Time.lean: Sirkan time, its discipline, the tile followers, timed releases, the period grid and refresh
(R20 to R24, R150, R160, R169 to R188, R270, R271). -/

namespace Sys2Proof.Machine

/-! ### Period generator (R21) -/

/-- A new period length at or below the phase replaces the phase by its remainder and journals it (R21). -/
def phaseReduce (s : State) : State :=
  let len := periodLen s
  if len ≠ 0 ∧ len ≤ periodPhase s then valJournal (callNo 0x1110 3) (periodPhase s % len) s else s

/-- A write of time.period.run (R21): marks lie strictly after the instant of a write of 1, and a stopped generator has no period in
progress (R187). -/
def periodRun (v : Nat) (s : State) : State :=
  { s with time := { s.time with runFrom := if v = 1 then s.up else s.time.runFrom, period := s.time.period && v == 1 } }

/-! ### Status and alignment -/

/-- TREE (Table 09-4): every follower of a powered tile is locked, or relocks within its allowance (R174). -/
def treeLocked (s : State) : Bool :=
  (List.range 32).all fun t => let x := getTile s t; x.dom != 0 || x.lock || (x.relock && !x.lost)

/-- time.status (Table 09-4). -/
def timeStatus (s : State) : Nat :=
  let b (x : Bool) (k : Nat) : Nat := if x then 2 ^ k else 0
  b s.time.valid 0 + b s.time.locked 1 + b s.time.holdover 2 + b (treeLocked s) 3 + b s.time.stepped 4
    + b (valGet s (cRing 0 1) == 1) 5 + b (valGet s (cRing 1 1) == 1) 6 + 256 * valGet s (callNo 0x1100 3)

/-- ALIGN_DEV's condition (Table 02-4). -/
def alignHolds (s : State) : Bool := s.time.valid && treeLocked s

/-- ALIGN_DEV follows its condition, with event 0x32 naming `subject` (R40). -/
def alignFollow (subject more : Nat) (s : State) : State :=
  if alignHolds s then restorePromise 3 0x32 subject 0 more s
  else if promiseBit s 3 then lapse 3 0x32 subject 0 more s else s

/-- Ring r is synchronised: it has a cycle, Sirkan time is valid, and a node's time is disciplined to the ring (R37, R171, R172).
[DEDUCED, log row 59] -/
def ringSynced (s : State) (r : Nat) : Bool :=
  ringCycle s r != 0 && s.time.valid
    && (valGet s (cRing r 1) == 1 || (valGet s (callNo 0x1100 3) == r + 1 && (s.time.locked || s.time.holdover)))

/-- ALIGN_RING_A or ALIGN_RING_B follows its condition: the ring is synchronised and its path delays are measured (Table 02-4). -/
def ringFollow (r : Nat) (s : State) : State :=
  if (getRing s r).measured ∧ ringSynced s r = true then restorePromise (4 + r) 0x33 r 0 0 s
  else if promiseBit s (4 + r) then lapse (4 + r) 0x33 r 0 0 s else s

/-- The change `f` of the time root; source 29 is raised in every engine when VALID, LOCKED or TREE changed (R204), and STEPPED is
cleared where VALID becomes 1 (R173). -/
def withStatus (f : State → State) (s : State) : State :=
  let t := f s
  let u : State := if t.time.valid ∧ s.time.valid = false then { t with time := { t.time with stepped := false } }
    else if t.time.valid = false then { t with time := { t.time with period := false } } else t
  ringFollow 1 (ringFollow 0
    (if t.time.valid = s.time.valid ∧ t.time.locked = s.time.locked ∧ treeLocked t = treeLocked s then u else setPendAll 29 u))

/-- How far a release may lie from its target: ±0.5 ns, or ±8 ns from a follower that has lost lock (R174). -/
def releaseTol (s : State) (n : Nat) : Nat := if (getTile s (tileOf n)).lost then 32 else 2

/-- engine.start.at of engine n, or of its pair's main copy. -/
def startAt (s : State) (n : Nat) : Nat := valGet s (cEng (if pairSplit (getPair s (pairOf n)) then n else mainOf (pairOf n)) 5)

/-- The target of a hold or an ARMED start of engine n has passed and nothing has released it: a step of the time, or a follower that was not
locked (R173, R174). It is released at the next opportunity. -/
def noteMissed (n : Nat) (s : State) : State :=
  let e := getEng s n
  let d := releaseTol s n
  let gone : Bool := match e.st, e.pos.wait with
    | .held, some w => decide (w.target + d < s.now)
    | .armed, _ => decide (startAt s n + d < s.now)
    | _, _ => false
  if gone then setEng n { e with pos := { e.pos with missed := true } } s else s

/-- The engines of a tile whose follower begins to release again (R174). -/
def noteTileMissed (t : Nat) (s : State) : State := (List.range 8).foldl (fun a e => noteMissed (8 * t + e) a) s

/-- A held engine in the new time: at or beyond T + τ it is released at once, late in full; otherwise it holds on (Table 09-10). -/
def stepHold (n : Nat) (s : State) : State :=
  let e := getEng s n
  match e.pos.wait with
  | some w => if e.st = .held ∧ w.target + w.tol ≤ s.now then endHold n w true s else noteMissed n s
  | none => noteMissed n s

/-- Two's complement of an offset, as INT64. -/
def int64 (x : Int) : Nat := (x % 2 ^ 64).toNat

/-- A frozen copy whose launch the step has moved beyond the next microsecond is no longer that of the next frame (R23).
[DESIGN CHOICE, log row 22] -/
def stepFreeze (r : Nat) (s : State) : State :=
  match freezeInstant s r with
  | some f => if f ≤ s.now then s else modRing r (fun x => { x with frozen := none }) s
  | none => s

/-- An armed cut-over whose time has been stepped is checked again at its deadline in the new time (R456). -/
def replanned (b : Job) : Job := if b.st = 3 ∧ b.cmd.cmd = 5 then { b with checked := false } else b

/-- Every job in its slot after a step of the time. -/
def replanJobs (s : State) : State := s.svc.jobs.foldl (fun a b => setJob b.1 (replanned b.2) a) s

/-- Sirkan time is stepped in one change (R173): held engines are judged in the new time, and refresh windows are placed in it (R187).
[DESIGN CHOICE, log row 23] -/
def stepTime (instant : Nat) (s : State) : State :=
  let s1 := freezeDue 1 (freezeDue 0 s)
  let s2 : State := { s1 with
    now := instant % 2 ^ 64
    time := { s1.time with stepped := true, stepAt := s1.up }
    xfer := { s1.xfer with quiet := false }
    mem := { s1.mem with refEnd := max s1.mem.refEnd s1.up, refStep := s1.mem.refOpen } }
  stepFreeze 1 (stepFreeze 0 ((List.range 256).foldl (fun a n => stepHold n a) (replanJobs s2)))

/-- A write of time.set: the written value, one change; it makes the time valid (R173).
[DESIGN CHOICE, log row 23] -/
def timeSet (v : Nat) (s : State) : State :=
  let off : Int := (v : Int) - s.now
  withStatus (fun a =>
    alignFollow 0xFFFF 0 (let b := logEvent 0x32 true 0xFFFF 0 (int64 off) (stepTime v a)
                          { b with time := { b.time with valid := true } })) s

/-- A write of time.source: LOCKED clears, the new source is measured from then on, and its TAI − UTC is not known (R175). -/
def timeSource (s : State) : State :=
  withStatus (fun a => { a with time := { a.time with locked := false, good := 0, holdover := false, meas := none } })
    (valPut (callNo 0x1100 9) 0 s)

/-- The offset of a measurement: what a TIME word or an edge of SYNC_IN has given, else what 802.1AS gives for a ring (Table 09-2). -/
def measured (off : Int) (s : State) : Option Int :=
  match s.time.meas, valGet s (callNo 0x1100 3) with
  | _, 0 => none
  | some x, _ => some x
  | none, 3 => none
  | none, _ => some off

/-- A valid measurement of the selected source (R171, R172, R173): offset in quarter-nanoseconds, source minus Sirkan time, and the rate
the discipline chooses, in ppb.
[DESIGN CHOICE, log row 23] -/
def measure (off0 rate : Int) (s : State) : State :=
  match measured off0 s with
  | none => s
  | some off =>
    let s1 := valPut (callNo 0x1100 4) (int64 off) { s with time := { s.time with meas := none } }
    let a := off.natAbs
    if 4 * valGet s (callNo 0x1100 6) < a then
      withStatus (fun x =>
        let y := stepTime (((x.now : Int) + off) % 2 ^ 64).toNat x
        let z : State := { y with time := { y.time with valid := false, locked := false, good := 0, holdover := false } }
        lapse 3 0x32 0xFFFF 0 (int64 off) z) s1
    else
      withStatus (fun x =>
        let good := if a ≤ 16 then min 16 (x.time.good + 1) else 0
        let locked := if good = 16 then true else if 160 < a then false else x.time.locked
        let y : State := { x with time := { x.time with
          good := good, locked := locked, holdover := false, valid := x.time.valid || good == 16
          rate := max (-200000) (min 200000 rate) } }
        alignFollow 0xFFFF 0 y) s1

/-- Eight expected intervals without a valid measurement (R172). -/
def sourceLost (s : State) : State :=
  if valGet s (callNo 0x1100 3) = 0 ∨ s.time.holdover = true then s
  else { s with time := { s.time with holdover := true, holdAt := s.up, good := 0 } }

/-- Holdover has outlasted time.holdover.limit (R172). -/
def holdoverOver (s : State) : State :=
  if s.time.holdover = true ∧ s.time.valid = true ∧ s.time.holdAt + 4000000 * valGet s (callNo 0x1100 7) ≤ s.up then
    withStatus (fun x => alignFollow 0xFFFF 0 { x with time := { x.time with valid := false } }) s
  else s

/-! ### Tile followers (R174) -/

/-- A follower loses lock while its tile is powered. -/
def followerLost (t : Nat) (s : State) : State :=
  if (getTile s t).dom ≠ 0 ∨ (getTile s t).lost = true then s
  else withStatus (fun x => alignFollow t 0 (noteTileMissed t (modTile t (fun y => { y with lock := false, lost := true, relock := false }) x))) s

/-- A follower locks. -/
def followerLock (t : Nat) (s : State) : State :=
  if (getTile s t).dom ≠ 0 then s
  else withStatus (fun x => alignFollow t 0 (noteTileMissed t (modTile t (fun y => { y with lock := true, lost := false, relock := false }) x))) s

/-- A follower that has not relocked 1.0 µs after its tile is on counts as having lost lock. -/
def followerTimeout (t : Nat) (s : State) : State :=
  let x := getTile s t
  if x.dom = 0 ∧ x.lock = false ∧ x.relock = true then followerLost t s else s

/-! ### Releases (R176, R178, R188) -/

/-- A launch of a tile whose follower has lost lock counts late (R174). -/
def lostLate (n : Nat) (s : State) : State := if (getTile s (tileOf n)).lost then countLate n s else s

/-- A release that falls due at `T` may come now, or does so because its instant passed unreleased. -/
def releaseNow (s : State) (n T : Nat) : Bool :=
  let d := releaseTol s n
  releases s n && decide (T ≤ s.now + d) && (decide (s.now ≤ T + d) || (getEng s n).pos.missed)

/-- A held engine's released bundle issues at its target, in a step of `q` quarter-nanoseconds; a meter stall due then is paid from the next
meter step (R36, R176, R188). -/
def waitRelease (n q : Nat) (s : State) : State :=
  let e := getEng s n
  match e.pos.wait with
  | none => s
  | some w =>
    if e.st = .held ∧ releaseNow s n w.target = true then
      let s1 := endHold n w (w.late || (getTile s (tileOf n)).lost) s
      if mayIssue s1 n then issueOne n q s1 else s1
    else s

/-- An ARMED engine, with its checker, issues its first bundle at engine.start.at (R64, R178). -/
def startRelease (n q : Nat) (s : State) : State :=
  let m := pairOf n
  if (getEng s n).st = .armed ∧ issuesItself s n = true ∧ releaseNow s n (startAt s n) = true then
    let s1 := lostLate n (modEng n (fun e => { e with st := .running, pos := { e.pos with missed := false } }) s)
    let s2 := if pairSplit (getPair s m) then s1 else modEng (checkerOf m) (fun c => { c with st := .running }) s1
    if mayIssue s2 n then issueOne n q s2 else s2
  else s

/-! ### Quiet windows and refresh (R24, R150, R160, R187, R270, R271) -/

/-- A window of n commands meets the conditions of R187 at instant x of the period. -/
def refreshFits (s : State) (n x : Nat) : Bool :=
  !quietAt (quietWindows s) x && quietClear (quietWindows s) (periodLen s) x (1600 * n)

/-- Now is the earliest instant of the period for a window of n commands (R187): the mark, the end of the window before or a step of the
time, or the first instant that fits. -/
def refreshFirst (s : State) (n : Nat) : Bool :=
  let x := inPeriod s
  refreshFits s n x && (x == 0 || s.up == s.mem.refEnd || !refreshFits s n (x - 1))

/-- A refresh window begins, with the commands of R270 and the debt carried (R271), in a period whose mark has occurred (R187). One that
finds no place whole is carried.
[DESIGN CHOICE, log row 24] -/
def refreshWindow (s : State) : State :=
  let n := refreshCount (periodLen s) + valGet s (callNo 0x1900 6)
  if marksOccur s = true ∧ s.time.period = true ∧ s.mem.refDone = false ∧ s.mem.refOpen = false ∧ s.mem.refEnd ≤ s.up
      ∧ kvGet 0 s.power.dom 4 = 0 ∧ refreshFirst s n = true ∧ valGet s (callNo 0x1900 8) = 1 then
    valPut (callNo 0x1900 6) 0 { s with mem := { s.mem with refOpen := true, refDone := true, refLeft := n, refStep := false } }
  else s

/-- Commands not issued are carried (R271): event 0x45 when the debt reaches 16. -/
def refreshDebt (n : Nat) (s : State) : State :=
  let d := min 16 (valGet s (callNo 0x1900 6) + n)
  let s1 := valPut (callNo 0x1900 6) d s
  if d = 16 ∧ valGet s (callNo 0x1900 6) < 16 then logEvent 0x45 false 0 d 0 s1 else s1

/-- A refresh command of all channels (R270, R271): in a window its count falls; without marks the debt is paid first. No refresh runs in a
quiet window, but one that a step of the time has moved into it (R24, R187). -/
def refreshCommand (s : State) : State :=
  if s.mem.refOpen then
    if quietNow s = true ∧ s.mem.refStep = false then s
    else
    let left := s.mem.refLeft - 1
    if left = 0 then
      bump (callNo 0x1900 7) 1 32 { s with mem := { s.mem with refLeft := 0, refOpen := false, refEnd := s.up + 1600 } }
    else { s with mem := { s.mem with refLeft := left } }
  else if marksOccur s then s
  else if kvGet 0 s.power.dom 4 ≠ 0 then s
  else valPut (callNo 0x1900 6) (valGet s (callNo 0x1900 6) - 1) s

/-- At a mark, a window that was not placed in the period that ends is carried as debt (R271); none accrues in retention (R272). -/
def refreshAtMark (s : State) : State :=
  let s1 := if s.mem.refDone = false ∧ s.time.period = true ∧ kvGet 0 s.power.dom 4 = 0 then refreshDebt (refreshCount (periodLen s)) s else s
  { s1 with mem := { s1.mem with refDone := false } }

end Sys2Proof.Machine
end

