-- ==== Sys2Proof/Machine/Power.lean ====
section
/-! DEFINITION. Machine/Power.lean: the power request link, pace control, power domains and ratings (chapter 18). -/

namespace Sys2Proof.Machine

/-! ### A fault that ends every promise (R33) -/

/-- Every engine stops as by STOP, at the boundary it stands at. -/
def stopAllEngines (s : State) : State :=
  (List.range 256).foldl (fun a n =>
    let e := getEng a n
    if e.st = .running ∨ e.st = .held ∨ e.st = .armed ∨ e.st = .debug ∨ e.st = .restoring then stopNow n a else a) s

/-- The pairs whose engines were stopped are IDLE. -/
def idleAllPairs (s : State) : State :=
  (List.range 128).foldl (fun a m =>
    if countsChecked (getPair a m) then
      modPair m (fun p => { p with st := .idle, chain := [], phase := .none, capDue := false, cmd := 0, cmdDue := false, mig := none }) a
    else a) s

/-- The event code, subject and detail under which a promise bit's lapse is logged where no single pair, tile or item is at fault (Table 02-1,
Table 15-13). WORK and DURABLE, which the source gives no record of their own for this fault, are logged as 0x30 with stream 0 and an
empty range; 0x31 names no pair.
[DESIGN CHOICE, log row 60] -/
def promiseEvent (s : State) : Nat → Nat × Nat × Nat
  | 2 => (0x31, 0xFFFF, sparesFree s)
  | 3 => (0x32, 0xFFFF, 0)
  | 4 => (0x33, 0, 0)
  | 5 => (0x33, 1, 0)
  | 6 => (0x34, 0xFFFF, 0)
  | _ => (0x30, 0, 0)

/-- The fault of a part that is not single (R33): every bit still set lapses, and the device stops at a boundary. -/
def nonSingleFault (s : State) : State :=
  let s1 := (List.range 7).foldl (fun a i =>
    if promiseBit a i then lapse i (promiseEvent a i).1 (promiseEvent a i).2.1 (promiseEvent a i).2.2 0 a else a) s
  idleAllPairs (stopAllEngines { s1 with boot := { s1.boot with stopped := true } })

/-! ### The power request link (R409 to R411) -/

/-- CRC-8, polynomial 0x07, initial value 0 (R409), over bits of a number, `n` of them, least significant bit first sent. -/
def crc8 : Nat → Nat → Nat → Nat
  | 0, _, c => c
  | n + 1, v, c =>
    let fb := (c / 128 + v) % 2
    let d := c * 2 % 256
    crc8 n (v / 2) (if fb = 1 then d ^^^ 0x07 else d)

/-- The 40 bits of a link request (Table 18-2). -/
def linkFrame (r : LinkReq) : Nat :=
  let w := r.rail + 16 * r.op + 256 * r.seq + 65536 * r.value
  w + 2 ^ 32 * crc8 32 w 0

/-- A request of a rail is outstanding (R409). -/
def railBusy (s : State) (k : Nat) : Bool := s.power.reqs.any fun r => r.rail == k

/-- A request is sent with the next sequence number, at most one outstanding for a rail. -/
def linkSend (k op v : Nat) (s : State) : State :=
  if railBusy s k ∨ s.power.linkLost = true then s
  else { s with power := { s.power with reqs := s.power.reqs ++ [⟨k, op, s.power.seq, v, 0⟩], seq := (s.power.seq + 1) % 256 } }

/-- Target of the last SET on a rail, 650 mV before the first. -/
def railTarget (s : State) (k : Nat) : Nat := kvGet 650 s.power.target k

/-- power.vcore.mv: the value of the last acknowledgement (R410). -/
def railMv (s : State) (k : Nat) : Nat := kvGet 650 s.power.acked k

/-- A SET of a rail (R410). -/
def railSet (k v : Nat) (s : State) : State :=
  if railBusy s k ∨ s.power.linkLost = true then s
  else linkSend k 1 v { s with power := { s.power with target := kvSet 650 s.power.target k v } }

/-- An acknowledgement with good CRC pairs with its request by SEQ (R409, R410). RESULT 0 = done.
[DESIGN CHOICE, log row 37] -/
def linkAck (k seq result data : Nat) (s : State) : State :=
  match s.power.reqs.find? fun r => r.rail == k && r.seq == seq with
  | none => s
  | some r =>
    let s1 : State := { s with power := { s.power with reqs := s.power.reqs.erase r, errRun := 0 } }
    if r.op = 1 then
      if result = 0 then
        bump (cVcore k 5) 1 32 { s1 with power := { s1.power with acked := kvSet 650 s1.power.acked k data } }
      else s1
    else { s1 with power := { s1.power with read := some (k, r.op, data) } }

/-- A link error of a request (R411): sent again with its SEQ; the eighth in a row loses the link. -/
def linkError (k : Nat) (s : State) : State :=
  match s.power.reqs.find? fun r => r.rail == k with
  | none => s
  | some r =>
    if s.power.linkLost then s
    else
      let s1 := bump (callNo 0x1200 0x0A) 1 32 { s with power := { s.power with
        reqs := s.power.reqs.map fun q => if q = r then { q with errors := q.errors + 1 } else q, errRun := s.power.errRun + 1 } }
      if 8 ≤ s.power.errRun + 1 then
        nonSingleFault (logEvent 0x72 true 0 (valGet s1 (callNo 0x1200 0x0A)) 0 { s1 with power := { s1.power with linkLost := true } })
      else s1

/-! ### Pace control (R412 to R416) -/

/-- The tiles of rail k whose domain is on, with their classes and measured rates. -/
def railTiles (s : State) (k : Nat) (rates : List Nat) : List (Nat × Nat × Nat) :=
  (List.range 4).filterMap fun i =>
    let t := 4 * k + i
    if (getTile s t).dom = 0 then some (t, valGet s (cTile t 6), rates.getD i 0) else none

/-- The new target of R412. -/
def paceTarget (s : State) (k : Nat) (ts : List (Nat × Nat × Nat)) : Nat :=
  let up := ts.any fun x => x.2.1 != 0 && decide (x.2.2 < 103 * x.2.1)
  let down := ts.all fun x => x.2.1 == 0 || decide (108 * x.2.1 ≤ x.2.2)
  let last := railTarget s k
  let v := if up then last + 10 else if down then last - 5 else last
  min 950 (max v (valGet s (cVcore k 2)))

/-- Confirmation asked of a tile: one more evaluation with r ≥ 103 × p, or none (R415).
[DESIGN CHOICE, log row 42] -/
def confirmTile (x : Nat × Nat × Nat) (s : State) : State :=
  let n := if 103 * x.2.1 ≤ x.2.2 then min 4 (kvGet 0 s.power.confirm x.1 + 1) else 0
  { s with power := { s.power with confirm := kvSet 0 s.power.confirm x.1 n } }

/-- PACE is set again once every tile holds its class and every rating holds (R414, R422).
[DESIGN CHOICE, log row 42] -/
def tryPace (subject : Nat) (s : State) : State :=
  if s.power.slow.isEmpty && s.power.broken.isEmpty then restorePromise 6 0x34 subject 0 0 s else s

/-- A tile that cannot hold its class with its rail at 0.950 V (R414); one that is not on, or has no class, holds it.
[DESIGN CHOICE, log row 42] -/
def judgeTile (k : Nat) (s : State) (x : Nat × Nat × Nat) : State :=
  if x.2.1 ≠ 0 ∧ x.2.2 < 100 * x.2.1 ∧ railMv s k = 950 then
    if s.power.slow.contains x.1 then s
    else lapse 6 0x34 x.1 (railMv s k) 0 { s with power := { s.power with slow := s.power.slow ++ [x.1] } }
  else if s.power.slow.contains x.1 then
    tryPace x.1 { s with power := { s.power with slow := s.power.slow.erase x.1 } }
  else s

/-- One evaluation of a rail controller (R412, R413, R414), but for what a confirmation sets going.
[DESIGN CHOICE, log row 42] -/
def paceEvaluate (k : Nat) (rates : List Nat) (s : State) : State :=
  let s0 := (List.range 4).foldl (fun a i => valPut (cTile (4 * k + i) 7) (rates.getD i 0) a) s
  if s.power.reqs.any fun r => r.rail == k && r.op == 1 then s0
  else
    let ts := railTiles s k rates
    let v := paceTarget s k ts
    let s1 := if v = railTarget s k then s0 else railSet k v s0
    let high := decide (valGet s (cVcore k 3) < v)
    let s2 := valPut (cVcore k 4) (if high then 1 else 0) s1
    let s3 := if high ∧ valGet s (cVcore k 4) = 0 then logEvent 0x76 false k v (valGet s (cVcore k 3)) s2 else s2
    let s4 := (List.range 4).foldl (fun a i => if (getTile s (4 * k + i)).dom = 0 then a else valPut (cTile (4 * k + i) 8) 0 a)
      (ts.foldl (fun a x => valPut (cTile x.1 8) (if high ∧ x.2.1 ≠ 0 ∧ x.2.2 < 108 * x.2.1 then 1 else 0) (confirmTile x a)) s3)
    ((List.range 4).map fun i => (4 * k + i, (if (getTile s (4 * k + i)).dom = 0 then valGet s (cTile (4 * k + i) 6) else 0), rates.getD i 0)).foldl
      (judgeTile k) s4

/-- A tile's class is confirmed: four consecutive evaluations (R415). -/
def paceConfirmed (s : State) (t : Nat) : Bool := decide (4 ≤ kvGet 0 s.power.confirm t)

/-- The class a tile's loaded folios ask for (R415). -/
def loadedClass (s : State) (t : Nat) : Nat :=
  ((s.svc.folios.filter fun f => (if f.owner < 128 then pairTile f.owner else tileOf (f.owner - 128)) == t).map fun f => f.pace).foldl max 0

/-! ### Domains (R417 to R421) -/

/-- A domain as commands name it. -/
abbrev DomId := Sys2Proof.Dom

/-- The number of a domain in the power controller's lists. -/
def domKey : DomId → Nat
  | .dev d => d.val
  | .bank b => 16 + b.val
  | .tile t => 512 + t.val

/-- State of a domain: 0 on, 1 retention, 2 off, 3 waking (Table 12-5). -/
def domGet (s : State) : DomId → Nat
  | .dev d => kvGet 0 s.power.dom d.val
  | .bank b => kvGet 0 s.mem.bank b.val
  | .tile t => (getTile s t.val).dom

/-- A domain takes a state. A tile that leaves on takes its follower out of TREE (R174, R204), and refresh windows are placed anew from
when the DRAM interface is on (R272). -/
def domPut (d : DomId) (v : Nat) (s : State) : State :=
  match d with
  | .dev d =>
    { s with power := { s.power with dom := kvSet 0 s.power.dom d.val v },
             mem := if d.val = 4 ∧ v = 0 then { s.mem with refEnd := max s.mem.refEnd s.up } else s.mem }
  | .bank b => { s with mem := { s.mem with bank := kvSet 0 s.mem.bank b.val v } }
  | .tile t => withStatus (fun a => alignFollow t.val 0 (modTile t.val (fun x => { x with dom := v }) a)) s

/-- How far an entry into retention has come. -/
def entryGet (s : State) (d : DomId) : Nat := kvGet 0 s.power.entry (domKey d)

/-- The entry's phase replaced. -/
def entryPut (d : DomId) (v : Nat) (s : State) : State :=
  { s with power := { s.power with entry := kvSet 0 s.power.entry (domKey d) v } }

/-- R67: every engine of a tile is HALTED or FUSED. -/
def tileQuiet (s : State) (t : Nat) : Bool :=
  (List.range 8).all fun e => let x := (getEng s (8 * t + e)).st; x == .halted || x == .fused

/-- R254: a pair of the tile keeps bank 7 awake. -/
def bank7Held (s : State) (t : Nat) : Bool := (List.range 4).any fun p => countsChecked (getPair s (4 * t + p))

/-- STATE of a channel that is at work: RUNNING, PAUSED, QUIET or STOPPING (Table 13-7). -/
def chanBusy (x : XfCh) : Bool := x.st == 1 || x.st == 2 || x.st == 3 || x.st == 4

/-- Channels of a transfer unit. -/
def unitChans (u : Nat) : List Nat := (List.range 16).map fun i => 16 * u + i

/-- An armed cut-over holds a tile on until its mark (R453), or the loader's present job reaches it (Table 18-5). -/
def tileHeld (s : State) (t : Nat) : Bool :=
  ((List.range 16).any fun j =>
    let b := getJob s j
    b.st == 3 && b.cmd.cmd == 5 && (List.range (fieldAt b.plan 0 1)).any fun i =>
      128 ≤ fieldAt b.plan (17 + 4 * i) 1 && pairTile (fieldAt b.plan (17 + 4 * i) 1 % 128) == t)
  || (match s.svc.waiting with
      | some j => (getJob s j).cmd.cmd == 1 && pairTile (getJob s j).cmd.subject == t
      | none => false)

/-- Table 18-5: a request for retention, or off, is refused.
[DESIGN CHOICE, log row 42] -/
def domRefused (s : State) (d : DomId) (off : Bool) : Bool :=
  match d with
  | .tile t => !tileQuiet s t.val || tileHeld s t.val
  | .bank b => b.val % 8 == 7 && bank7Held s (b.val / 8)
  | .dev k =>
    if k.val < 4 then valGet s (cRing (k.val / 2) 1) != 0
    else if k.val = 4 then off && (s.ledger.items.any (fun i => i.st != .reported && i.st != .held) || !s.svc.folios.isEmpty)
    else if k.val < 9 then off && (unitChans (k.val - 5)).any fun c => chanBusy (getChan s c)
    else off

/-- Bytes of a bank are lost (Table 12-5).
[DEDUCED, log row 26] -/
def loseBank (b : Nat) (s : State) : State :=
  { s with mem := { s.mem with
      bytes := s.mem.bytes.filter fun c => !(decide (paShelf + 0x10000 * b ≤ c.1) && decide (c.1 < paShelf + 0x10000 * (b + 1)))
      bad := s.mem.bad.filter fun w => !(decide (paShelf ≤ 8 * w) && wordBank w == b)
      one := s.mem.one.filter fun c => !(decide (paShelf ≤ 8 * c.1) && wordBank c.1 == b)
      wback := s.mem.wback.filter fun w => wordBank w != b } }

/-- DRAM contents are lost.
[DEDUCED, log row 26] -/
def loseDram (s : State) : State :=
  { s with mem := { s.mem with
      bytes := s.mem.bytes.filter fun c => decide (paShelf ≤ c.1)
      bad := s.mem.bad.filter fun w => decide (paShelf ≤ 8 * w)
      one := s.mem.one.filter fun c => decide (paShelf ≤ 8 * c.1) } }

/-- The engines of a tile as they are rebuilt (R417): every bundle idle, HALTED; a fused engine stays FUSED. -/
def rebuildTile (t : Nat) (s : State) : State :=
  (List.range 8).foldl (fun a e =>
    modEng (8 * t + e) (fun x => if x.st = .fused then { Engine.fresh with st := .fused } else Engine.fresh) a) s

/-- Requests latched for a domain, without that domain. -/
def unlatch (d : DomId) (l : List Nat) : List Nat := l.filter fun k => k != domKey d

/-- A domain goes off and loses what Table 18-5 names.
[DEDUCED, log row 26] -/
def domOff (d : DomId) (s : State) : State :=
  let s1 := domPut d 2 { entryPut d 0 s with power := { (entryPut d 0 s).power with
    offNext := unlatch d s.power.offNext, wakeNext := unlatch d s.power.wakeNext, retNext := unlatch d s.power.retNext,
    filling := unlatch d s.power.filling } }
  match d with
  | .tile t => rebuildTile t.val s1
  | .bank b => loseBank b.val s1
  | .dev k => if k.val = 4 then loseDram s1 else s1

/-- A domain starts waking. -/
def domWake (d : DomId) (s : State) : State := domPut d 3 s

/-- A wake event of a domain (R419, R421); it ends a request for retention that waits for the domain to be on. -/
def wakeEvent (d : DomId) (s : State) : State :=
  if entryGet s d = 1 then entryPut d 0 s
  else if entryGet s d = 2 then
    (if s.power.wakeNext.contains (domKey d) then s else { s with power := { s.power with wakeNext := s.power.wakeNext ++ [domKey d] } })
  else if domGet s d = 1 then domWake d s
  else if domGet s d = 3 then { s with power := { s.power with retNext := unlatch d s.power.retNext } }
  else s

/-- A domain command (R417, R418, R421): request 0 on, 1 retention, 2 off. The Nat is the abort code. Retention asked for while the domain wakes
is accepted once it is on.
[DESIGN CHOICE, log row 42] -/
def domRequest (d : DomId) (req : Nat) (s : State) : Nat × State :=
  let st := domGet s d
  match req with
  | 0 =>
    if st = 2 then
      (0, domPut d 3 (match d with
        | .dev _ => s
        | _ => { s with power := { s.power with filling := s.power.filling ++ [domKey d] } }))
    else (0, wakeEvent d s)
  | 1 =>
    if domRefused s d false = true then (8, s)
    else if st = 3 then (0, { s with power := { s.power with retNext := unlatch d s.power.retNext ++ [domKey d] } })
    else if st = 0 ∧ entryGet s d = 0 then (0, entryPut d 1 s) else (0, s)
  | _ =>
    if domRefused s d true then (8, s)
    else if entryGet s d ≠ 0 then (0, { s with power := { s.power with offNext := s.power.offNext ++ [domKey d] } })
    else (0, domOff d s)

/-- The quiesce phase ends (R419). -/
def commitPoint (d : DomId) (s : State) : State :=
  if entryGet s d = 1 then domPut d 1 (entryPut d 2 s) else s

/-- The save phase ends: an off command or a wake latched meanwhile follows (R419, R421). -/
def saveComplete (d : DomId) (s : State) : State :=
  if entryGet s d ≠ 2 then s
  else
    let k := domKey d
    let s1 := entryPut d 0 s
    if s.power.offNext.contains k then domOff d s1
    else if s.power.wakeNext.contains k then
      domWake d { s1 with power := { s1.power with wakeNext := s1.power.wakeNext.erase k } }
    else s1

/-- A tile is on again: its follower relocks (R174, R420) and its class must be confirmed before a START (R416). -/
def tileOn (t : Nat) (s : State) : State :=
  let s1 := modTile t (fun x => { x with dom := 0, lock := false, lost := false, relock := true, paceOk := false }) s
  { s1 with power := { s1.power with confirm := kvSet 0 s1.power.confirm t 0 } }

/-- Retention asked for while the domain woke is judged again now that it is on (Table 18-7). -/
def retainNext (d : DomId) (s : State) : State :=
  if s.power.retNext.contains (domKey d) = false then s
  else
    let s1 : State := { s with power := { s.power with retNext := unlatch d s.power.retNext } }
    if domRefused s1 d false then s1 else entryPut d 1 s1

/-- A domain in retention that was woken is on (R420). -/
def wakeComplete (d : DomId) (s : State) : State :=
  if domGet s d ≠ 3 ∨ s.power.filling.contains (domKey d) = true then s
  else retainNext d (match d with
    | .tile t => bump (cTile t.val 0x14) 1 32 (tileOn t.val s)
    | _ => domPut d 0 s)

/-- A tile or bank that left off has been filled (R253, R417).
[DEDUCED, log row 26] -/
def fillComplete (d : DomId) (s : State) : State :=
  if domGet s d ≠ 3 ∨ s.power.filling.contains (domKey d) = false then s
  else
    let s1 : State := { s with power := { s.power with filling := s.power.filling.erase (domKey d) } }
    retainNext d (match d with
    | .tile t => tileOn t.val (rebuildTile t.val s1)
    | .bank b => domPut d 0 (loseBank b.val s1)
    | .dev _ => domPut d 0 s1)

/-- The idle timer setting of a domain in µs; 0 disables it (R418). -/
def idleSetting (s : State) : DomId → Nat
  | .tile t => valGet s (cTile t.val 3)
  | .bank b => valGet s (cTile (b.val / 8) 4)
  | .dev d => valGet s (callNo 0x1220 (3 + d.val))

/-- Table 18-5, Idle while. -/
def domIdle (s : State) (d : DomId) : Bool :=
  match d with
  | .tile t => tileQuiet s t.val && !tileHeld s t.val
  | .bank b => !(b.val % 8 == 7 && bank7Held s (b.val / 8))
  | .dev k =>
    if k.val < 4 then valGet s (cRing (k.val / 2) 1) == 0
    else if k.val = 4 then true
    else if k.val < 9 then (unitChans (k.val - 5)).all fun c => let x := (getChan s c).st; x != 1 && x != 3 && x != 4
    else s.arch.queue.isEmpty && s.arch.prog.isEmpty && !s.arch.weeding && s.arch.st != 0

/-- An idle timer has run out: the domain requests retention (R418). -/
def idleExpiry (d : DomId) (s : State) : State :=
  if idleSetting s d ≠ 0 ∧ domIdle s d = true then (domRequest d 1 s).2 else s

/-! ### Phases, regulators and ratings (R407, R422, R423) -/

/-- The rail a phase serves (Table 18-1): 0 to 7 VCOREk, 8 VMEM, 9 VIO, 10 VPHY.
[DESIGN CHOICE, log row 42] -/
def phaseRail (p : Nat) : Nat := if p ≤ 8 then p - 1 else if p ≤ 10 then 8 else if p = 11 then 9 else 10

/-- A buck phase fails (R407): the spare takes over; a second failure takes its rail out of its band at `mv`. -/
def phaseFailure (p mv : Nat) (s : State) : State :=
  if p = 0 ∨ s.power.failed.contains p then s
  else
    let s1 : State := { s with power := { s.power with failed := s.power.failed ++ [p] } }
    if s.power.failed.isEmpty then logEvent 0x73 false p (phaseRail p) 0 (valPut (callNo 0x1200 5) p s1)
    else nonSingleFault (logEvent 0x77 true (phaseRail p) mv 0 s1)

/-- A fault of a linear regulator (R407): `rail` is 11 VANA, 12 the always-on rail (Table 18-1).
[DESIGN CHOICE, log row 42] -/
def regulatorFault (rail mv : Nat) (s : State) : State := nonSingleFault (logEvent 0x77 true rail mv 0 s)

/-- A rating is broken (R422): `what` is 0 VIN, 1 input power, 2 + t a junction sensor of tile t. -/
def ratingBreach (what value : Nat) (s : State) : State :=
  if s.power.broken.contains what then s
  else
    let s1 : State := { s with power := { s.power with broken := s.power.broken ++ [what] } }
    let code := if what = 0 then 0x70 else if what = 1 then 0x71 else 0x75
    lapse 6 0x34 0xFFFF 0 0 (logEvent code true (what - 2) value 0 s1)

/-- A rating holds again (R422, R423). -/
def ratingRestored (what value : Nat) (s : State) : State :=
  if s.power.broken.contains what = false then s
  else
    let s1 : State := { s with power := { s.power with broken := s.power.broken.erase what } }
    let code := if what = 0 then 0x70 else if what = 1 then 0x71 else 0x75
    tryPace 0xFFFF (logEvent code false (what - 2) value 0 s1)

end Sys2Proof.Machine
end

