-- ==== Sys2Proof/Machine/Access.lean ====
section
/-! DEFINITION. Machine/Access.lean: loads and stores of engines performed at their targets, locked sequences, shelf arbitration, check
bits, shelf-read, repair and wipes (R112 to R120, R191, R247 to R265, R283 to R285). -/

namespace Sys2Proof.Machine

/-! ### Order within an engine (R118, R119, R120) -/

/-- Two places overlap in bytes; a control-window access concerns its whole slot (R118, R339). -/
def overlaps (p : Place) (n : Nat) (q : Place) (k : Nat) : Bool :=
  match p, q with
  | .phys a, .phys b => decide (a < b + k) && decide (b < a + n)
  | .cat a, .cat b => a / 8 == b / 8
  | _, _ => false

/-- The first place covers every byte of the second. -/
def covers (p : Place) (n : Nat) (q : Place) (k : Nat) : Bool :=
  match p, q with
  | .phys a, .phys b => decide (a ≤ b) && decide (b + k ≤ a + n)
  | _, _ => false

/-- A store may be forwarded: not to the process-image region or the control window (R118). -/
def forwardable : Place → Bool
  | .phys a => decide (a < paImg)
  | _ => false

/-- Where a load's data comes from (Table 06-14). -/
inductive LoadPath where
  | blocked
  | forward (v : Nat)
  | target
  deriving DecidableEq, Repr

/-- The youngest of the older stores that overlap a load. -/
def youngestOverlap (l : LoadOp) : List StoreOp → Option StoreOp
  | [] => none
  | t :: ts =>
    match youngestOverlap l ts with
    | some x => some x
    | none => if t.seq < l.seq ∧ overlaps t.place (2 ^ t.width) l.place (2 ^ l.width) = true then some t else none

/-- The stores of an engine that have not been performed, those of an ended run first (R63, R64). -/
def storesOf (e : Engine) : List StoreOp := e.pastSt ++ e.stb

/-- The loads of an engine that have not been performed, in issue order: only the first may be performed (R119, R276).
[DESIGN CHOICE, log row 55] -/
def loadsDue (e : Engine) : List LoadOp := (e.past ++ e.ldq).filter fun l => l.perf.isNone && l.data.isNone

/-- Table 06-14, R119, R120: a locked load and a load with DRAIN wait for every older store. -/
def loadPath (e : Engine) (l : LoadOp) : LoadPath :=
  if l.lock ∨ l.drain then (if (storesOf e).any fun t => decide (t.seq < l.seq) then .blocked else .target)
  else match youngestOverlap l (storesOf e) with
    | none => .target
    | some t =>
      if covers t.place (2 ^ t.width) l.place (2 ^ l.width) ∧ forwardable t.place = true then
        match t.place, l.place with
        | .phys a, .phys b => .forward (t.data.toNat / 256 ^ (b - a) % 256 ^ 2 ^ l.width)
        | _, _ => .blocked
      else .blocked

/-! ### Locked sequences (R120, R283 to R285) -/

/-- The target of an access: a shelf bank or 1000 + a DRAM channel; none for any other region or for two targets. -/
def lockTarget (p : Place) (n : Nat) : Option Nat :=
  let one (a : Nat) : Option Nat :=
    match physKind a with
    | .shelf b _ => some b
    | .dram => some (1000 + a / 256 % 8)
    | _ => none
  match p with
  | .phys a => if one a = one (a + n - 1) then one a else none
  | _ => none

/-- Another master than `n` holds a target of the access (R284). -/
def lockedOut (s : State) (n : Nat) (p : Place) (k : Nat) : Bool :=
  (targetsOf p k).any fun t => s.xfer.locks.any fun l => l.1 == t && l.2.1 != n

/-- Transactions of an access: a split access counts as two (R115). -/
def transactions (p : Place) (n : Nat) : Nat :=
  match p with
  | .phys a => if a / 8 = (a + n - 1) / 8 then 1 else 2
  | _ => 1

/-- The sequence of engine n closes: its last access has been performed. -/
def lockClose (n : Nat) (s : State) : State :=
  freeLocks n (modEng n (fun e => { e with lockN := none }) s)

/-- An error response closes the sequence of engine n: the next access with LOCK = 1 opens another (R120). -/
def lockAbort (n : Nat) (s : State) : State := lockClose n (modEng n (fun e => { e with lockOpen := false }) s)

/-- A locked access reaches its target: false with the sequence closed when it must receive an error response, true with the
sequence opened or continued otherwise (R120, R283, R285). Its target accepts an access when it performs it (R284).
[DESIGN CHOICE, log row 55] -/
def lockStep (n : Nat) (p : Place) (k : Nat) (last : Bool) (s : State) : Bool × State :=
  let tx := transactions p k
  if s.xfer.broken.contains n then
    (false, lockAbort n { s with xfer := { s.xfer with broken := s.xfer.broken.filter fun b => b != n } })
  else match lockTarget p k with
    | none => (false, lockAbort n s)
    | some t =>
      match (getEng s n).lockN with
      | none =>
        if 17 < tx then (false, lockAbort n s)
        else (true, modEng n (fun e => { e with lockN := some (tx, t) })
          { s with xfer := { s.xfer with locks := s.xfer.locks ++ [(t, n, s.up)] } })
      | some (c, u) =>
        if t ≠ u ∨ (if last then 17 < c + tx else 17 ≤ c + tx) then (false, lockAbort n s)
        else (true, modEng n (fun e => { e with lockN := some (c + tx, t) }) s)

/-! ### Faults of memory cells -/

/-- A disturbance of a stored word: 0 none, 1 to 72 one bit, above that two or more bits (R250, R267).
[DESIGN CHOICE, log row 24] -/
def upset (w u : Nat) (s : State) : State :=
  if u = 0 ∨ s.mem.bad.contains w then s
  else
    let old := kvGet 0 s.mem.one w
    if 72 < u ∨ (old ≠ 0 ∧ old ≠ u) then
      { s with mem := { s.mem with bad := s.mem.bad ++ [w], one := kvSet 0 s.mem.one w 0 } }
    else { s with mem := { s.mem with one := kvSet 0 s.mem.one w u } }

/-- The first word a place touches, if it is a word of memory. -/
def firstWord : Place → Option Nat
  | .phys a => match physKind a with | .dram => some (a / 8) | .shelf _ _ => some (a / 8) | _ => none
  | _ => none

/-- A disturbance of the word an access reaches first.
[DESIGN CHOICE, log row 24] -/
def upsetAt (p : Place) (u : Nat) (s : State) : State := match firstWord p with | some w => upset w u s | none => s

/-! ### Loads (R112, R116, R191) -/

/-- The entries a load's value makes in lsu.q: one word extended as it says, or two for 64 bits (R112). -/
def loadWords (l : LoadOp) (v : Nat) : List Word :=
  match l.width with
  | 3 => [BitVec.ofNat 32 v, BitVec.ofNat 32 (v / 4294967296)]
  | 2 => [BitVec.ofNat 32 v]
  | 1 => [if l.sx then (BitVec.ofNat 16 v).signExtend 32 else BitVec.ofNat 32 (v % 65536)]
  | _ => [if l.sx then (BitVec.ofNat 8 v).signExtend 32 else BitVec.ofNat 32 (v % 256)]

/-- The load with its access performed: values, or an error mark with data 0. -/
def loadDone (l : LoadOp) (v err : Nat) : LoadOp :=
  { l with perf := some (if err = 0 then loadWords l v else (loadWords l 0)), err := err }

/-- Program-window bytes as a load sees them: pending writes over program memory (R71, R140). -/
def progByte (e : Engine) (off : Nat) : Byte :=
  let a := off / 7
  let b : BitVec 56 := kvGet idleBundle e.pmem a
  let c : BitVec 56 := match e.pwb.find? fun p => p.addr == a with | some p => overlay b p | none => b
  (c >>> (8 * (off % 7))).setWidth 8

/-- `n` program-window bytes. -/
def progRead (e : Engine) (off n : Nat) : Nat := leNat ((List.range n).map fun i => progByte e (off + i))

/-- How the catalogue serves a window load: call number, offset in the slot, bytes; abort code, value. -/
abbrev CatLoad := Nat → Nat → Nat → Nat → State → Nat × Nat × State

/-- How the catalogue serves a window store: engine, call number, offset in the slot, bytes, value; abort code. -/
abbrev CatStore := Nat → Nat → Nat → Nat → Nat → State → Nat × State

/-- The access of a load at its target (R247, R248, R341). A load from the program window is overlaid with the entries that are pending when it
is performed (R140).
[DESIGN CHOICE, log row 27] -/
def loadAt (rd : CatLoad) (n : Nat) (l : LoadOp) (s : State) : AccOut :=
  let k := 2 ^ l.width
  match l.place with
  | .phys pa => readPhys pa k s
  | .prog off => ⟨true, 0, progRead (getEng s n) off k, s⟩
  | .cat off =>
    let r := rd n (windowCall off) (off % 8) k s
    ⟨true, if r.1 = 0 then 0 else 0x0D, r.2.1, r.2.2⟩
  | .ownq off =>
    let q := (getEng s n).rq
    if off = 0 then ⟨true, 0, (q.words.headD 0#32).toNat, modEng n (fun e => { e with rq := readRq e.rq true false }) s⟩
    else ⟨true, 0, (xuLvl q).toNat, modEng n (fun e => { e with rq := readRq e.rq false true }) s⟩

/-- The entry of the load queue with number `seq` replaced. -/
def putLoad (l : LoadOp) (q : List LoadOp) : List LoadOp := q.map fun x => if x.seq = l.seq then l else x

/-- A performed load of engine n takes its values: one of an ended run is done with; the values of one with a record of KIND 0x0F enter the
log (R225). -/
def putLoaded (n : Nat) (l : LoadOp) (s : State) : State :=
  let s1 := modEng n (fun e => { e with ldq := putLoad { l with logged := none } e.ldq, past := e.past.filter fun x => x.seq != l.seq }) s
  match l.logged, l.perf with
  | some k, some ws =>
    modPair (pairOf n) (fun p => { p with void := p.void.filter fun i => decide (i < k ∨ k + ws.length ≤ i) })
      ((List.range ws.length).foldl (fun a j => memWrite (logAt (pairOf n) (k + j)) 4 (ws.getD j 0#32).toNat a) s1)
  | _, _ => s1

/-- A load from a shelf bank meets two or more bits in error: the reading pair's outputs are held for the period (Table 02-2). -/
def eccSubstitute (n : Nat) (l : LoadOp) (err : Nat) (s : State) : State :=
  if err = 0x0C ∧ pairSplit (getPair s (pairOf n)) = false ∧ (match l.place with | .phys pa => decide (paShelf ≤ pa) | _ => false) = true then
    modPair (pairOf n) (fun p => { p with subst := true }) s
  else s

/-- A load of engine n is performed, if its order and its target allow it now; else the machine may only wake a domain. None is while the
pair replays its log (R225, R285). -/
def performLoad (rd : CatLoad) (n : Nat) (l : LoadOp) (s : State) : State :=
  let e := getEng s n
  let put (v err : Nat) (a : State) : State := eccSubstitute n l err (putLoaded n (loadDone l v err) a)
  if inReplay (getPair s (pairOf n)) then s
  else match loadPath e l with
  | .blocked => s
  | .forward v => put v 0 s
  | .target =>
    if lockedOut s n l.place (2 ^ l.width) then s
    else if l.lock then
      let (ok, s1) := lockStep n l.place (2 ^ l.width) l.last s
      if ok = false then put 0 0x0D (bump (callNo 0x1920 5) 1 32 s1)
      else
        let r := loadAt rd n l s1
        if r.ok = false then { r.st with eng := s.eng, xfer := s.xfer }
        else
          let s2 := put r.value r.err r.st
          if r.err ≠ 0 then lockAbort n s2 else if l.last then lockClose n s2 else s2
    else
      let r := loadAt rd n l s
      if r.ok = false then r.st else put r.value r.err r.st

/-- The oldest load of an engine whose data has not arrived (R116). -/
def nextReturn (e : Engine) : Option LoadOp := e.ldq.find? fun l => l.data.isNone

/-- A performed load's data arrives in its entry, or is discarded; a bundle held on it is released (R54, R116, R195). -/
def arrive (n : Nat) (s : State) : State :=
  let e := getEng s n
  match nextReturn e with
  | none => s
  | some l =>
    match l.perf with
    | none => s
    | some d =>
      if l.drop then setEng n { e with ldq := e.ldq.filter fun x => x.seq != l.seq } s
      else setEng n { e with ldq := putLoad { l with data := some d } e.ldq, heldLsu := false } s

/-- The load of engine n that is performed next, if it makes accesses of its own. -/
def nextLoad (s : State) (n : Nat) : Option LoadOp := if performs s n then (loadsDue (getEng s n)).head? else none

/-- A load's data arrives (R116): the oldest outstanding load is performed if it has not been, then returns. A load of an ended run is
performed before it, and its data discarded (R64). -/
def loadReturn (rd : CatLoad) (n u : Nat) (s : State) : State :=
  let e := getEng s n
  match nextLoad s n, (if performs s n then nextReturn e else none) with
  | some l, some r =>
    if r.perf.isSome then arrive n s
    else
      let t := performLoad rd n l (upsetAt l.place u s)
      if l.seq = r.seq then arrive n t else t
  | some l, none => performLoad rd n l (upsetAt l.place u s)
  | none, some _ => arrive n s
  | none, none => s

/-! ### Stores (R117, R119, R191) -/

/-- A store's error response raises its code at the first boundary, IMPRECISE, with the trigger's address (R191); during a restart it
waits until live execution resumes (R225), and one of an ended run raises nothing. -/
def storeError (n c : Nat) (t : StoreOp) (s : State) : State :=
  let d : Due := ⟨c, t.pc, true, false, false⟩
  if (getPair s (pairOf n)).phase ≠ .none then modPair (pairOf n) (fun p => { p with deferDue := p.deferDue ++ [d] }) s
  else modEng n (fun e => { e with exc := { e.exc with keep := e.exc.keep ++ [d] } }) s

/-- The oldest store leaves the buffer. -/
def popStore (n : Nat) (s : State) : State :=
  modEng n (fun e => if e.pastSt.isEmpty then { e with stb := e.stb.tail } else { e with pastSt := e.pastSt.tail }) s

/-- The access of a store at its target (R247, R248, R341). -/
def storeAt (wr : CatStore) (n : Nat) (t : StoreOp) (s : State) : AccOut :=
  let k := 2 ^ t.width
  match t.place with
  | .phys pa => writePhys n pa k t.data.toNat s
  | .cat off =>
    let r := if t.taken then (0, s) else wr n (windowCall off) (off % 8) k t.data.toNat s
    ⟨true, if r.1 = 0 then 0 else 0x0D, 0, r.2⟩
  | _ => ⟨true, 0, 0, s⟩

/-- A locked load of the engine that is older than a store has not been performed: a locked store waits for it (R120). -/
def lockWaits (e : Engine) (t : StoreOp) : Bool := t.lock && (loadsDue e).any fun l => l.lock && decide (l.seq < t.seq)

/-- The oldest buffered store of engine n is performed at its target and frees its entry, once it is released and its target
serves it (R117, R220). -/
def storePerformed (wr : CatStore) (n : Nat) (s : State) : State :=
  match storesOf (getEng s n) with
  | [] => s
  | t :: _ =>
    let live := (getEng s n).pastSt.isEmpty
    let fail (c : Nat) (a : State) : State := if live then storeError n c t a else a
    if t.released = false ∨ lockWaits (getEng s n) t = true ∨ lockedOut s n t.place (2 ^ t.width) = true then s
    else if t.lock ∧ live = true then
      let (ok, s1) := lockStep n t.place (2 ^ t.width) t.last s
      if ok = false then fail 0x0D (popStore n (bump (callNo 0x1920 5) 1 32 s1))
      else
        let r := storeAt wr n t s1
        if r.ok = false then { r.st with eng := s.eng, xfer := s.xfer }
        else
          let s2 := popStore n r.st
          if r.err ≠ 0 then fail r.err (lockAbort n s2) else if t.last then lockClose n s2 else s2
    else
      let r := storeAt wr n t s
      if r.ok = false then r.st
      else
        let s2 := popStore n r.st
        if r.err = 0 then s2 else fail r.err s2

/-! ### Shelf arbitration (R149, R249) -/

/-- The master served: the first one after the last served, in rising order, that requests (R149). -/
def arbitrate (last : Nat) (reqs : List Nat) : Option Nat :=
  ((List.range 9).map fun i => (last + i) % 9).find? fun m => reqs.contains m

/-- A place lies in a bank. -/
def inBank (p : Place) (b : Nat) : Bool := (targetsOf p 1).contains b

/-- Engine e of the tile has its next access of the bank served: its oldest unperformed load, or its oldest store (R119, R276). -/
def serveEngine (n b : Nat) (s : State) : State :=
  match (nextLoad s n).filter fun l => inBank l.place b with
  | some l => performLoad (fun _ _ _ _ a => (1, 0, a)) n l s
  | none =>
    match storesOf (getEng s n) with
    | t :: _ => if inBank t.place b then storePerformed (fun _ _ _ _ _ a => (1, a)) n s else s
    | [] => s

/-- Losers count the step (R249): engine.conflicts, or tile.port.conflicts for master 8. -/
def countConflict (t served : Nat) (s : State) (m : Nat) : State :=
  if m = served then s
  else if m = 8 then bump (cTile t 0x43) 1 32 s
  else modEng (8 * t + m) (fun e => { e with ctr := { e.ctr with conflicts := (e.ctr.conflicts + 1) % 2 ^ 32 } }) s

/-- Bank b of tile t serves one access in a step. `reqs` are the masters that reach it, 0 to 7 the engines and 8 the tile port;
`u` is a disturbance of the word served. -/
def shelfAccess (t b : Nat) (reqs : List Nat) (u : Nat) (s : State) : State :=
  let k := 8 * t + b
  match arbitrate (kvGet 0 s.mem.rr k) reqs with
  | none => s
  | some m =>
    let s1 := ((List.range 9).filter fun x => reqs.contains x).foldl (countConflict t m) s
    let s2 : State := { s1 with mem := { s1.mem with rr := kvSet 0 s1.mem.rr k ((m + 1) % 9) } }
    if m < 8 then
      let n := 8 * t + m
      let s3 := match (nextLoad s2 n).filter fun l => inBank l.place k with
        | some l => upsetAt l.place u s2
        | none => s2
      serveEngine n k s3
    else s2

/-- A corrected word is written back in an idle step of bank b (R250). -/
def eccWriteback (b : Nat) (s : State) : State :=
  match s.mem.wback.find? fun w => wordBank w == b with
  | some w => eccClean w s
  | none => s

/-! ### Shelf-read (R259 to R262) -/

/-- Regions every bank has completed in this sweep. -/
def sweepDone (s : State) : Nat := (List.range 256).foldl (fun a b => min a (kvGet 0 s.mem.swept b)) 1024

/-- shelfread.position and shelfread.progress follow the sweep (R262). -/
def sweepReport (s : State) : State :=
  let p := 16384 * sweepDone s
  valPut (callNo 0x1910 3) (10000 * p / 16777216) (valPut (callNo 0x1910 4) p s)

/-- The next sweep starts once this one is complete and its time has passed (R261, R262). -/
def sweepRoll (s : State) : State :=
  if sweepDone s = 1024 ∧ s.mem.sweepAt + 4000000 * s.mem.sweepLen ≤ s.now then
    sweepReport (bump (callNo 0x1910 5) 1 32 { s with mem := { s.mem with
      swept := [], hits := [], sweepAt := s.mem.sweepAt + 4000000 * s.mem.sweepLen, sweepLen := valGet s (callNo 0x1910 2) } })
  else s

/-- Region k of every bank is due at this instant (R261). -/
def regionDue (s : State) (k : Nat) : Nat := s.mem.sweepAt + k * (4000000 * s.mem.sweepLen) / 1024

/-- The next region of bank b is tested and restored (R259, R260); `cols` are the columns found faulty. A bank that is not on
passes it untested; bank 7 waits while a wipe runs (R257). -/
def shelfReadRegion (b : Nat) (cols : List Nat) (s0 : State) : State :=
  let s := if valGet s0 (callNo 0x1910 1) = 0 then s0 else sweepRoll s0
  let k := kvGet 0 s.mem.swept b
  if valGet s (callNo 0x1910 1) = 0 ∨ 1024 ≤ k ∨ s.now < regionDue s k ∨ (b % 8 = 7 ∧ s.mem.wipe.isSome) then s
  else
    let adv (a : State) : State := sweepReport { a with mem := { a.mem with swept := kvSet 0 a.mem.swept b (k + 1) } }
    if bankReady s b ≠ 0 then adv s
    else
      let w0 := (paShelf + 0x10000 * b) / 8 + 8 * k
      let s1 := (List.range 8).foldl (fun a i =>
        let r := eccWord (w0 + i) a
        if r.1 = 0 then eccClean (w0 + i) r.2 else r.2) s
      let s2 := if regionDue s k < s.now then bump (callNo 0x1910 7) 1 32 s1 else s1
      adv (cols.foldl (fun a c => columnFault b c a) s2)

/-- A filled spare column replaces the faulty one in an idle step, and the repair is journaled and joins
the repair list (R264, R428).
[DESIGN CHOICE, log row 32] -/
def columnSwap (b c : Nat) (s : State) : State :=
  if s.mem.fills.contains (b, c) = false then s
  else
    let t := b / 8
    let s1 : State := { s with mem := { s.mem with
      fills := s.mem.fills.erase (b, c)
      cols := s.mem.cols ++ [(b, c, false)]
      one := s.mem.one.filter fun x => !(decide (paShelf ≤ 8 * x.1) && wordBank x.1 == b && x.2 == c + 1) } }
    let pend := valGet s (cTile t 0x48)
    let s2 := valPut (cTile t 0x48) (if pend.testBit (b % 8) then pend else pend + 2 ^ (b % 8)) s1
    let s3 : State := { s2 with boot := { s2.boot with repairList := s2.boot.repairList ++ [(b, c)] } }
    logEvent 0x42 false b c 0 (bump (callNo 0x1910 6) 1 32 (journal 0x08 false (t + 256 * (b % 8) + 65536 * c) [] s3))

/-- tile.repair.columns (Table 12-8). -/
def repairColumns (s : State) (t : Nat) : Nat :=
  (List.range 8).foldl (fun a b => a + 16 ^ b * (s.mem.cols.filter fun c => c.1 == 8 * t + b).length) 0

/-! ### Wipes (R255 to R258) -/

/-- A pair loses its slots' validity and its log (R258).
[DESIGN CHOICE, log row 25] -/
def wipePair (p : Pair) : Pair := { emptyLog p with valid := false, rlog := [] }

/-- A pair that is replaying has lost its log, and cannot recover (R229, R258).
[DESIGN CHOICE, log row 25] -/
def wipeReplay (m : Nat) (s : State) : State := if inReplay (getPair s m) then unrecoverable m s else s

/-- A wipe of every bank 7 is triggered, unless one runs (R256, R441): bank 7 in retention is woken.
[DESIGN CHOICE, log row 25] -/
def startWipe (cause : Nat) (s : State) : State :=
  if s.mem.wipe.isSome then s
  else
    let s0 : State := { s with pair := (List.range 128).foldl (fun m k => kvSet Pair.fresh m k (wipePair (kvGet Pair.fresh m k))) s.pair }
    let s1 := (List.range 128).foldl (fun a m => wipeReplay m a) (modEngs forgetRecords s0)
    (List.range 32).foldl (fun a t => wakeBank (8 * t + 7) a) { s1 with mem := { s1.mem with wipe := some cause } }

/-- Every bank 7 holds zero.
[DESIGN CHOICE, log row 25] -/
def wipeBanks (s : State) : State := (List.range 32).foldl (fun a t => loseBank (8 * t + 7) a) s

/-- A place lies in a bank 7. -/
def inBank7 (p : Place) : Bool := match p with | .phys a => (match physKind a with | .shelf b _ => b % 8 == 7 | _ => false) | _ => false

/-- The parts of a write that do not lie in bank 7 are performed (R115, R257). -/
def writeOutside (who : Nat) : List (Nat × Nat) → Nat → State → State
  | [], _, s => s
  | p :: t, v, s =>
    writeOutside who t (v / 256 ^ p.2) (if inBank7 (.phys p.1) then s else (writePart who p.1 p.2 (v % 256 ^ p.2) s).st)

/-- A store of an engine that waits for a wipe is discarded, but for a part outside bank 7 (R257). -/
def wipeStore (n : Nat) (s : State) : State :=
  match storesOf (getEng s n) with
  | t :: _ =>
    match t.place with
    | .phys pa =>
      if t.released = true ∧ ((accParts pa (2 ^ t.width)).any fun p => inBank7 (.phys p.1)) = true then
        popStore n (writeOutside n (accParts pa (2 ^ t.width)) t.data.toNat s)
      else s
    | _ => s
  | [] => s

/-- A load of an engine that waits for a wipe returns zero (R257). -/
def wipeLoad (n : Nat) (s : State) : State :=
  match nextLoad s n with
  | some l => if inBank7 l.place ∧ inReplay (getPair s (pairOf n)) = false then putLoaded n (loadDone l 0 0) s else s
  | none => s

/-- A transfer transaction that waits for a wipe reads zero, or its write is discarded and counts as performed (R257). -/
def wipeTxns (x : XfCh) : XfCh :=
  let read (t : XfTxn) : XfTxn := if t.data.isNone && inBank7 (.phys t.src) then { t with data := some 0 } else t
  { x with flight := (x.flight.map read).filter fun t => !(match t.dst with | some a => inBank7 (.phys a) | none => false) }

/-- A debug access that waits for a wipe completes: a read returns zero, a write is discarded (R257). -/
def wipeDebug (s : State) : State :=
  match s.tap.want with
  | some (w, pa, v) => if inBank7 (.phys pa) then { s with tap := { s.tap with want := none, status := 0, data := if w then v else 0 } } else s
  | none => s

/-- The wipe ends (R256, Table 12-6).
[DESIGN CHOICE, log row 25] -/
def wipeComplete (s : State) : State :=
  match s.mem.wipe with
  | none => s
  | some c =>
    let s1 := wipeBanks { s with mem := { s.mem with wipe := none } }
    let s2 := wipeDebug ((List.range 64).foldl (fun a c => setChan c (wipeTxns (getChan a c)) a)
      ((List.range 256).foldl (fun a n => wipeLoad n (wipeStore n a)) s1))
    let s3 := valJournal (callNo 0x1911 3) c (valJournal (callNo 0x1911 2) s.now
      (valJournal (callNo 0x1911 1) ((valGet s (callNo 0x1911 1) + 1) % 2 ^ 32) s2))
    logEvent 0x44 false 0 c 0 s3

/-- Offsets 0x0000 to 0x3FFF of a tile's bank 7 are wiped before tile.stacks.enable changes (R255). -/
def wipeStacks (t : Nat) (s : State) : State :=
  let a := paShelf + 0x10000 * (8 * t + 7)
  { s with mem := { s.mem with
      bytes := s.mem.bytes.filter fun c => !(decide (a ≤ c.1) && decide (c.1 < a + 0x4000))
      bad := s.mem.bad.filter fun w => !(decide (a ≤ 8 * w) && decide (8 * w < a + 0x4000))
      one := s.mem.one.filter fun c => !(decide (a ≤ 8 * c.1) && decide (8 * c.1 < a + 0x4000)) } }

/-- A DRAM channel goes out of service (R269): an unrecoverable link error, or 16 uncorrectable errors within 1 s. -/
def channelErrors (s : State) (c : Nat) : Nat :=
  (s.mem.chErr.filter fun x => x.1 == c && decide (s.up < x.2 + oneSecond)).length

/-- The channel's bit clears; event 0x41 and MASK (Table 02-2). -/
def channelOut (c : Nat) (s : State) : State :=
  let w := valGet s (callNo 0x1900 1)
  if w.testBit c then
    loseMask 0xFFFF (logEvent 0x41 true c (channelErrors s c) 0 (valPut (callNo 0x1900 1) (w - 2 ^ c) s))
  else s

end Sys2Proof.Machine
end

