-- ==== Sys2Proof/Machine/Xfer.lean ====
section
/-! DEFINITION. Machine/Xfer.lean: the device matrix and the transfer channels (chapter 13, R278 to R300). -/

namespace Sys2Proof.Machine

/-! ### Locked sequences: forced release (R284) -/

/-- An open locked sequence has reached matrix.lock.limit: it is released by force and is broken at its engine. -/
def lockExpire (target : Nat) (s : State) : State :=
  match s.xfer.locks.find? fun l => l.1 == target with
  | none => s
  | some l =>
    if l.2.2 + 4 * valGet s (callNo 0x1920 6) ≤ s.up then
      bump (callNo 0x1920 7) 1 32 { s with xfer := { s.xfer with
        locks := s.xfer.locks.filter fun k => k.1 != target
        broken := if s.xfer.broken.contains l.2.1 then s.xfer.broken else s.xfer.broken ++ [l.2.1] } }
    else s

/-! ### The fields of a channel's set-up (Tables 13-6 and 13-8) -/

/-- xf.ctl without EN. -/
def xfCtl (s : State) (c : Nat) : Nat := valGet s (cXf c 4)
/-- Transaction size, 4 or 8 bytes (W64). -/
def xfSize (s : State) (c : Nat) : Nat := if (xfCtl s c).testBit 3 then 8 else 4
/-- PACED. -/
def xfPaced (s : State) (c : Nat) : Bool := (xfCtl s c).testBit 1
/-- SMODE. -/
def xfSmode (s : State) (c : Nat) : Nat := bits (xfCtl s c) 4 2
/-- DMODE. -/
def xfDmode (s : State) (c : Nat) : Nat := bits (xfCtl s c) 6 2
/-- xf.count. -/
def xfCount (s : State) (c : Nat) : Nat := valGet s (cXf c 3)
/-- KIND of xf.pace. -/
def xfKind (s : State) (c : Nat) : Nat := bits (valGet s (cXf c 7)) 8 2
/-- INDEX of xf.pace. -/
def xfIndex (s : State) (c : Nat) : Nat := bits (valGet s (cXf c 7)) 0 8
/-- Entry size E of the bound queue (R288, R378). -/
def xfEntry (s : State) (c : Nat) : Nat := match xfKind s c with | 0 => 16 | 1 => 4 | 2 => 256 | _ => 0
/-- Capacity of the bound queue (R288, R378). -/
def xfCapacity (s : State) (c : Nat) : Nat := match xfKind s c with | 0 => 32 | 1 => 64 | 2 => 64 | _ => 0

/-- Bytes in flight whose read has not been performed. -/
def unread (x : XfCh) (t : Nat) : Nat := t * (x.flight.filter fun f => f.data.isNone).length

/-- The level of the bound queue (R288): a source's entries that no read of the channel has claimed, a destination's free
places that no write of it has claimed. -/
def xfLevel (s : State) (c : Nat) : Nat :=
  let x := getChan s c
  let t := xfSize s c
  match xfKind s c with
  | 0 => (getCap s (xfIndex s c)).recs.length - (x.claim + unread x t + 15) / 16
  | 1 =>
    let k := queueOwner s (xfIndex s c)
    let coming := (s.net.flights.filter fun f => f.chan == some c).length
    64 - (getEng s k).rq.words.length - coming - (x.claim + t * x.flight.length + 3) / 4
  | 2 => (getRing s (xfIndex s c)).rx.length - (x.claim + unread x t + 255) / 256
  | _ => 0

/-- Quiet windows hold the channels, from 600 ns before one opens until it closes (R293): not while no period marks occur. -/
def xfQuiet (s : State) : Bool := marksOccur s && (s.xfer.quiet || quietSoon s)

/-- The pseudocode of R292, as far as the state goes: 1 RUNNING, 2 PAUSED. -/
def paceState (s : State) (c st : Nat) : Nat :=
  let lv := xfLevel s c
  let p := valGet s (cXf c 7)
  let a := if st = 2 ∧ bits p 16 8 ≤ lv then 1 else st
  if a = 1 ∧ lv ≤ bits p 24 8 then 2 else a

/-- STATE as xf.status shows it (Table 13-7). -/
def xfShown (s : State) (c : Nat) : Nat :=
  let x := getChan s c
  if xfQuiet s ∧ (x.st = 1 ∨ x.st = 2) then
    (if xfPaced s c = false ∨ 0 < x.claim ∨ paceState s c x.st = 1 then 3 else 2)
  else x.st

/-- xf.status (Table 13-7). -/
def xfStatus (s : State) (c : Nat) : Nat :=
  let x := getChan s c
  xfShown s c + (if x.done then 8 else 0) + 256 * x.err

/-- xf.ctl as read: EN reads 1 while RUNNING, PAUSED or QUIET. -/
def xfCtlRead (s : State) (c : Nat) : Nat :=
  let k := xfShown s c
  xfCtl s c + (if k = 1 ∨ k = 2 ∨ k = 3 then 1 else 0)

/-! ### Start and stop (R289, R296) -/

/-- A transaction size divides an address that increments or wraps (R289 condition 1). -/
def sideAligned (mode a t : Nat) : Bool := mode == 2 || mode == 3 || a % t == 0

/-- Condition 2 of R289 for one side: `bound` says that PACED binds it. -/
def sideMode (mode n e t : Nat) (bound : Bool) : Bool :=
  match mode with
  | 0 => true
  | 1 => decide (6 ≤ n) && decide (n ≤ 24)
  | 2 => bound && e % t == 0
  | _ => false

/-- The start checks of R289, in order: 0 = passed, else the code of Table 13-7. -/
def xfCheck (s : State) (c : Nat) : Nat :=
  let x := getChan s c
  let t := xfSize s c
  let e := xfEntry s c
  let k := xfKind s c
  let v := xfCtl s c
  let p := valGet s (cXf c 7)
  let paced := xfPaced s c
  if xfCount s c % t ≠ 0 ∨ sideAligned (xfSmode s c) x.src t = false ∨ sideAligned (xfDmode s c) x.dst t = false
      ∨ bits v 18 2 = 3 then 1
  else if sideMode (xfSmode s c) (bits v 8 5) e t (paced && (k == 0 || k == 2)) = false
      ∨ sideMode (xfDmode s c) (bits v 13 5) e t (paced && k == 1) = false then 2
  else if paced = true ∧ (k = 3 ∨ (k = 0 ∧ 16 < xfIndex s c) ∨ (k = 2 ∧ 1 < xfIndex s c)
      ∨ bits p 16 8 ≤ bits p 24 8 ∨ xfCapacity s c < bits p 16 8) then 3
  else if paced = true ∧ xfCount s c % e ≠ 0 then 1
  else 0

/-- The channel starts, or enters ERROR with the first condition that fails (R289). -/
def xfStart (c : Nat) (s : State) : State :=
  let x := getChan s c
  let code := xfCheck s c
  let y : XfCh := { x with
    done := false, err := code, rem := xfCount s c, src0 := x.src, dst0 := x.dst, claim := 0, flight := [], issued := 0
    st := if code ≠ 0 then 5 else if xfPaced s c then 2 else 1 }
  let s1 := setChan c y s
  if code = 0 then s1 else bump (callNo (0x1930 + c / 16) 3) 1 32 s1

/-- The channel's completion interrupt (R294): source 8 + u in the engine of xf.irq, or the main copy of its pair. -/
def xfIrq (c : Nat) (s : State) : State :=
  let n := valGet s (cXf c 8)
  if (xfCtl s c).testBit 2 ∧ n < 256 then
    setPend (if countsChecked (getPair s (pairOf n)) then mainOf (pairOf n) else n) (8 + c / 16) s
  else s

/-- What the end of a transaction or a stop leads to (R294, R295, R296): an error, completion, or the end of STOPPING, once
nothing is in flight. -/
def xfSettle (c : Nat) (s : State) : State :=
  let x := getChan s c
  if chanBusy x = false ∨ x.flight ≠ [] then s
  else if x.err ≠ 0 then
    xfIrq c (bump (callNo (0x1930 + c / 16) 3) 1 32 (setChan c { x with st := 5, done := false, claim := 0 } s))
  else if xfCount s c ≠ 0 ∧ x.rem = 0 then xfIrq c (setChan c { x with st := 0, done := true, claim := 0 } s)
  else if x.st = 4 ∧ x.claim = 0 then setChan c { x with st := 0, done := false } s
  else s

/-- A write of xf.ctl: the abort code and the state (Table 13-6, R289, R296, R297).
[DESIGN CHOICE, log row 27] -/
def xfCtlWrite (c v : Nat) (s : State) : Nat × State :=
  let x := getChan s c
  let f := v % 2 ^ 20 / 2 * 2
  if chanBusy x then
    if f ≠ xfCtl s c then (8, s)
    else if v % 2 = 0 ∧ x.st ≠ 4 then (0, xfSettle c (setChan c { x with st := 4 } s))
    else (0, s)
  else
    let s1 := valPut (cXf c 4) f s
    if v % 2 = 1 ∧ valGet s (callNo (0x1930 + c / 16) 1) = 0 then (0, xfStart c s1) else (0, s1)

/-! ### Issue (R290, R292) -/

/-- The next address on a side (R290). -/
def xfAdvance (mode n e start a t : Nat) : Nat :=
  match mode with
  | 1 => a - a % 2 ^ n + (a + t) % 2 ^ n
  | 2 => start + (a - start + t) % e
  | _ => (a + t) % 2 ^ 40

/-- The channel has bytes of its count left to issue. -/
def xfLeft (s : State) (c : Nat) : Bool := xfCount s c == 0 || decide ((getChan s c).issued < xfCount s c)

/-- Pacing is evaluated before an entry is claimed (R292). -/
def xfPace (s : State) (c : Nat) : State :=
  let x := getChan s c
  if xfPaced s c = true ∧ x.claim = 0 ∧ (x.st = 1 ∨ x.st = 2) ∧ x.err = 0 ∧ xfLeft s c = true then
    setChan c { x with st := paceState s c x.st } s
  else s

/-- The channel can issue a read (R280, R292, R293, R296). -/
def xfReads (s : State) (c : Nat) : Bool :=
  let x := getChan s c
  x.err == 0 && decide (x.flight.length < 64) && (decide (0 < x.claim) || (x.st == 1 && xfLeft s c)) && (x.st == 1 || x.st == 2 || x.st == 4)

/-- Data has been read whose write is not issued: the oldest of it is written next (R290). -/
def xfWrites (x : XfCh) : Bool := x.err == 0 && chanBusy x && x.flight.any fun f => f.data.isSome && f.dst.isNone

/-- The channel can issue a transaction. -/
def xfCanIssue (s : State) (c : Nat) : Bool := xfWrites (getChan s c) || xfReads s c

/-- The first transaction whose write is not issued goes to `a`. -/
def issueWrite (a : Nat) : List XfTxn → List XfTxn
  | [] => []
  | f :: fs => if f.dst.isSome then f :: issueWrite a fs else { f with dst := some a } :: fs

/-- The next transaction of channel c, a write where data waits for one, else a read after a claim where one is needed.
[DESIGN CHOICE, log row 27] -/
def xfIssueOne (c : Nat) (s : State) : State :=
  let x := getChan s c
  let t := xfSize s c
  let v := xfCtl s c
  let e := xfEntry s c
  notePeak (setChan c (
    if xfWrites x then
      { x with flight := issueWrite x.dst x.flight, dst := xfAdvance (xfDmode s c) (bits v 13 5) e x.dst0 x.dst t }
    else
      { x with
        flight := x.flight ++ [⟨x.src, none, none⟩]
        src := xfAdvance (xfSmode s c) (bits v 8 5) e x.src0 x.src t
        claim := (if x.claim ≠ 0 then x.claim else if xfPaced s c then e else t) - t
        issued := x.issued + t }) s)

/-- Transfer unit u issues its next transaction: round robin among its channels that can issue (R292). -/
def xfIssue (u : Nat) (s : State) : State :=
  if xfQuiet s then s
  else
    let s1 := (unitChans u).foldl xfPace s
    let last := kvGet 0 s1.xfer.rr u
    match ((List.range 16).map fun i => 16 * u + (last + i) % 16).find? (xfCanIssue s1) with
    | none => s1
    | some c => xfIssueOne c { s1 with xfer := { s1.xfer with rr := kvSet 0 s1.xfer.rr u ((c + 1) % 16) } }

/-! ### Transactions performed (R281, R291, R294, R295) -/

/-- SWAP on one 32-bit word (R291). -/
def swapWord (m w : Nat) : Nat :=
  match m with
  | 1 => bits w 24 8 + 256 * bits w 16 8 + 65536 * bits w 8 8 + 16777216 * bits w 0 8
  | 2 => bits w 16 16 + 65536 * bits w 0 16
  | _ => w % 4294967296

/-- SWAP on the data of a transaction. -/
def swapData (m t v : Nat) : Nat :=
  if t = 8 then swapWord m v + 4294967296 * swapWord m (v / 4294967296) else swapWord m v

/-- Another master's locked sequence holds the target (R284). -/
def xfBlocked (s : State) (pa t : Nat) : Bool := lockedOut s 256 (.phys pa) t

/-- The first transaction whose read is not performed, filled or removed. -/
def fillRead (d : Option Nat) : List XfTxn → List XfTxn
  | [] => []
  | f :: fs => if f.data.isSome then f :: fillRead d fs else match d with | some v => { f with data := some v } :: fs | none => fs

/-- What is in flight of a channel that has failed: data that waits for its write is never written (R295). -/
def openTxns (l : List XfTxn) : List XfTxn := l.filter fun f => f.data.isNone || f.dst.isSome

/-- The source of the first transaction whose write is not issued. -/
def firstUnwritten (x : XfCh) : Nat :=
  match x.flight.find? fun f => f.dst.isNone with | some f => f.src | none => x.src

/-- The oldest read of channel c is performed. After a failing read, xf.src names the first transaction whose data is not written, and xf.dst
does so as it stands; a read in flight behind a failure completes and its data is dropped (R295). -/
def xfRead (c u : Nat) (s0 : State) : State :=
  match (getChan s0 c).flight.find? fun f => f.data.isNone with
  | none => s0
  | some f =>
    let t := xfSize s0 c
    if xfBlocked s0 f.src t then s0
    else
      let s := upsetAt (.phys f.src) u s0
      let r := if physCode s false 256 f.src t ≠ 0 then accError s else readPhys f.src t s
      let x := getChan r.st c
      if r.ok = false then r.st
      else if x.err ≠ 0 then xfSettle c (setChan c { x with flight := fillRead none x.flight } r.st)
      else if r.err ≠ 0 then
        xfSettle c (setChan c { x with
          err := if r.err = 0x0C then 6 else 5, src := firstUnwritten x, flight := openTxns (fillRead none x.flight) } r.st)
      else setChan c { x with flight := fillRead (some (swapData (bits (xfCtl s c) 18 2) t r.value)) x.flight } r.st

/-- xf.remaining after a write of `t` bytes: bytes not yet written, or bytes written for a count of 0 (Table 13-5). -/
def remAfter (count rem t : Nat) : Nat := if count = 0 then (rem + t) % 2 ^ 32 else rem - t

/-- The oldest write of channel c in flight is performed. A failing write names its transaction; later writes in flight complete and change
nothing of what it names (R295). -/
def xfWrite (c u : Nat) (s0 : State) : State :=
  match (getChan s0 c).flight with
  | [] => s0
  | f :: fs =>
    match f.data, f.dst with
    | some v, some a =>
      let t := xfSize s0 c
      if xfBlocked s0 a t then s0
      else
        let s := upsetAt (.phys a) u s0
        let r := if physCode s true 256 a t ≠ 0 then accError s else writePhys (512 + c) a t v s
        let x := getChan r.st c
        if r.ok = false then r.st
        else if r.err ≠ 0 then
          xfSettle c (setChan c
            (if x.err = 4 then { x with flight := fs } else { x with err := 4, src := f.src, dst := a, flight := openTxns fs }) r.st)
        else
          let s1 := bump (callNo (0x1930 + c / 16) 2) t 64 r.st
          xfSettle c (setChan c { x with
            flight := fs, rem := if x.err = 4 then x.rem else remAfter (xfCount s c) x.rem t } s1)
    | _, _ => s0

/-! ### Quiet windows (R293) -/

/-- 600 ns before a quiet window opens the channels stop issuing. -/
def quietLead (s : State) : State :=
  if quietSoon s then
    { s with xfer := { s.xfer with quiet := true } }
  else s

/-- A quiet window closes: no window is open and none opens within 600 ns. -/
def quietClose (s : State) : State :=
  if quietSoon s then s
  else { s with xfer := { s.xfer with quiet := false } }

/-! ### Dropping a unit (R297) -/

/-- Each write in flight of channel c is performed whole or not at all; which is undefined. One that the matrix refuses is answered with an
error response (R281), one whose target cannot serve it now is not performed, and what is written counts in xfu.bytes (R300).
[DESIGN CHOICE, log row 27] -/
def dropWrite (c t : Nat) (s : State) (f : XfTxn) : State :=
  match f.data, f.dst with
  | some v, some a =>
    let b := Config.free s.drawn % 2
    let s1 : State := { s with drawn := s.drawn + 1 }
    if b = 0 ∨ xfBlocked s1 a t = true ∨ physWaits s1 a t = true then s1
    else
      let r := if physCode s1 true 256 a t ≠ 0 then accError s1 else writePhys (512 + c) a t v s1
      if r.err = 0 then bump (callNo (0x1930 + c / 16) 2) t 64 r.st else r.st
  | _, _ => s

/-- A channel is dropped: its addresses and count are undefined (R15, R297). A channel that has set DONE keeps its outcome
(Table 13-10).
[DESIGN CHOICE, log row 27] -/
def dropChan (s : State) (c : Nat) : State :=
  let x := getChan s c
  if x.done then s
  else
    let s1 := x.flight.foldl (dropWrite c (xfSize s c)) s
    let d := s1.drawn
    setChan c { x with
      st := 6, done := false, err := 0, src := Config.free d % 2 ^ 40, dst := Config.free (d + 1) % 2 ^ 40
      rem := Config.free (d + 2) % 2 ^ 32, claim := 0, flight := [] } { s1 with drawn := d + 3 }

/-- A write of 1 to xfu.disable.
[DESIGN CHOICE, log row 27] -/
def xfuDisable (u : Nat) (s : State) : State :=
  valPut (callNo (0x1930 + u) 1) 1 ((unitChans u).foldl dropChan s)

/-- A write of 0 to xfu.disable: every channel of a disabled unit returns to IDLE.
[DESIGN CHOICE, log row 27] -/
def xfuReenable (u : Nat) (s : State) : State :=
  if valGet s (callNo (0x1930 + u) 1) = 0 then s
  else valPut (callNo (0x1930 + u) 1) 0
    ((unitChans u).foldl (fun a c => let x := getChan a c; if x.st = 6 then setChan c { x with st := 0 } a else a) s)

end Sys2Proof.Machine
end

