-- ==== Sys2Proof/Machine/Archive.lean ====
section
/-! DEFINITION. Machine/Archive.lean: the journal of the archive die: page programs, erases, weeding, retired blocks and replay
(R317 to R326). -/

namespace Sys2Proof.Machine

/-! ### Records -/

/-- Bytes a record takes: its header and its payload padded to 16 bytes (R318). -/
def recSize (r : JRec) : Nat := 32 + (r.payload.length + 15) / 16 * 16

/-- Two records stand for the same key: the item kinds 0x03 to 0x06 and 0x0B share the item's key, every other kind has its own
(Table 14-8). -/
def itemKind (k : Nat) : Bool := (decide (3 ≤ k) && decide (k ≤ 6)) || k == 0x0B

/-- Same key. -/
def sameKey (a b : JRec) : Bool := a.key == b.key && (a.kind == b.kind || (itemKind a.kind && itemKind b.kind))

/-- Every record the archive has taken, programmed or not. -/
def allRecs (s : State) : List JRec := s.arch.journal ++ s.arch.prog ++ s.arch.queue

/-- A record of a group takes effect with the COMMIT that names the group's first SEQ (R320): the records of a group carry successive
numbers up to its COMMIT. -/
def committed (l : List JRec) (r : JRec) : Bool :=
  !r.group || l.any fun c => c.kind == 0x09 && decide (c.key ≤ r.seq) && decide (r.seq < c.seq)

/-- The record of a list with the highest SEQ among those `p` selects. -/
def newest (p : JRec → Bool) (l : List JRec) : Option JRec :=
  l.foldl (fun a r => if p r then (match a with | none => some r | some b => if b.seq < r.seq then some r else a) else a) none

/-- The checks of a record's payload and header hold (R322). -/
def recGood (r : JRec) : Bool :=
  r.pcrc == crc32 r.payload && r.hcrc == crc32 (recHead r.kind r.group r.payload.length r.seq r.key r.pcrc)

/-- A record of the same key with a higher SEQ stands in a list and has taken effect. -/
def superseded (l : List JRec) (r : JRec) : Bool := l.any fun x => sameKey x r && decide (r.seq < x.seq) && committed l x

/-- The record that tells N of stream k after a power-on: the newest one of its highest accession number (R306). A record that ends
an item no acknowledgement ever left for has no payload and tells nothing.
[DEDUCED, log row 56] -/
def lastItem (l : List JRec) (k : Nat) : Option JRec :=
  (l.filter fun r => itemKind r.kind && r.key % 256 == k && !r.payload.isEmpty && !superseded l r).foldl (fun a r => match a with
    | none => some r
    | some b => if b.key < r.key then some r else a) none

/-- A record of the journal is live: no record of its key with a higher SEQ has taken effect. One that ends a key, and a COMMIT, live
while another record that they govern stands in the journal; the newest record of a stream's last durable item lives (R306); a WEED
record and an unreadable one do not.
[DEDUCED, log row 57] -/
def liveRec (s : State) (r : JRec) : Bool :=
  let l := s.arch.journal
  if r.kind = 0x0A ∨ recGood r = false then false
  else if r.kind = 0x09 then l.any fun m => m.group && decide (r.key ≤ m.seq) && decide (m.seq < r.seq)
  else
    let top := !superseded l r && committed (allRecs s) r
    if r.kind = 0x06 ∨ r.kind = 0x0B then
      top && ((l.any fun x => sameKey x r && decide (x.seq < r.seq)) || lastItem l (r.key % 256) == some r)
    else top

/-- The live records of block b. -/
def liveIn (s : State) (b : Nat) : List JRec := s.arch.journal.filter fun r => r.block == b && liveRec s r

/-- Live bytes of a block. -/
def liveBytes (s : State) (b : Nat) : Nat := ((liveIn s b).map recSize).foldl (· + ·) 0

/-! ### Blocks (R317, R321) -/

/-- A block stands for block `b` of the journal: it is one of the 3,072, or a replacement of one, and has not been retired itself. -/
def inService (s : State) (b : Nat) : Bool :=
  (decide (b < 3072) || s.arch.retired.any fun x => x.by_ == some b && !x.fw)
    && !(s.arch.retired.any fun x => x.block == b || (x.by_ == some b && x.fw))

/-- A block holds a part of a firmware image slot. -/
def fwBlock (s : State) (b : Nat) : Bool :=
  ((decide (3072 ≤ b) && decide (b < 3584)) || s.arch.retired.any fun x => x.by_ == some b && x.fw)
    && !(s.arch.retired.any fun x => x.block == b)

/-- Journal blocks in service (R323): 3,072 less those removed without replacement.
[DESIGN CHOICE, log row 31] -/
def blocksInService (s : State) : Nat :=
  3072 - (s.arch.retired.filter fun x => match x.by_ with | none => true | some b => x.fw && decide (b < 3072)).length

/-- Blocks in service, other than the head, that hold a live record. -/
def liveBlocks (s : State) : List Nat :=
  ((s.arch.journal.filter fun r => r.block != s.arch.head && inService s r.block && liveRec s r).map (·.block)).eraseDups

/-- archive.free (Table 14-11). -/
def archiveFree (s : State) : Nat := blocksInService s - 1 - (liveBlocks s).length

/-- archive.wear.max. -/
def wearMax (s : State) : Nat := s.arch.erases.foldl (fun a x => max a x.2) 0

/-- The header of a block whose first record has SEQ `first` (R317). -/
def headOf (s : State) (b first : Nat) : BlockHead :=
  let n := kvGet 0 s.arch.erases b
  ⟨first, n, crc32 (leBytes 8 first ++ leBytes 4 n)⟩

/-- A block header passes its check. -/
def headGood (h : BlockHead) : Bool := h.crc == crc32 (leBytes 8 h.first ++ leBytes 4 h.erases)

/-! ### Low and ready (R325) -/

/-- The archive's state follows its free blocks: low at eight, ready again above sixteen.
[DESIGN CHOICE, log row 31] -/
def archiveFollow (s : State) : State :=
  if s.arch.st = 1 ∧ archiveFree s ≤ 8 then
    lapse 1 0x52 0 (archiveFree s) 0 { s with arch := { s.arch with st := 2 } }
  else if (s.arch.st = 2 ∨ s.arch.st = 3) ∧ 16 < archiveFree s then
    restorePromise 1 0x52 0 (archiveFree s) 0 { s with arch := { s.arch with st := 1 } }
  else s

/-! ### Page programs (R319) -/

/-- The records that one page of 4,096 bytes takes, and the rest (R317: no record crosses a page). -/
def pageTake : Nat → List JRec → List JRec × List JRec
  | _, [] => ([], [])
  | n, r :: t =>
    if recSize r ≤ n then let q := pageTake (n - recSize r) t; (r :: q.1, q.2) else ([], r :: t)

/-- The blocks that can become the head: in service, without a live record, and not being weeded. -/
def headable (s : State) : List Nat :=
  let live := liveBlocks s
  (List.range 4096).filter fun b =>
    inService s b && b != s.arch.head && s.arch.victim != some b && !live.contains b && !(s.arch.prog.any fun r => r.block == b)

/-- The free block with the lowest erase count, the lowest number first (R321). -/
def nextHead (s : State) : Option Nat :=
  (headable s).foldl (fun a b => match a with
    | none => some b
    | some c => if kvGet 0 s.arch.erases b < kvGet 0 s.arch.erases c then some b else a) none

/-- A full head block gives way to the next one, which is erased first where it still holds records. With no free block left, the
archive has failed and DURABLE is cleared.
[DESIGN CHOICE, log row 31] -/
def takeHead (s : State) : State :=
  if s.arch.headUsed < 63 then s
  else match nextHead s with
    | some b =>
      if s.arch.erasing.contains b then s
      else if s.arch.free.contains b then { s with arch := { s.arch with head := b, headUsed := 0, free := s.arch.free.erase b } }
      else { s with arch := { s.arch with erasing := s.arch.erasing ++ [b] } }
    | none => if s.arch.st = 3 then s else lapse 1 0x52 0 (archiveFree s) 0 { s with arch := { s.arch with st := 3 } }

/-- A page program is due: none runs, and the page is full or 100 µs have passed since its first record was queued. -/
def programDue (s : State) : Bool :=
  s.arch.prog.isEmpty && (match s.arch.queue with
    | [] => false
    | r :: _ => !(pageTake 4096 s.arch.queue).2.isEmpty || decide (r.at_ + 400000 ≤ s.up)
      || decide (4096 ≤ (s.arch.queue.map recSize).foldl (· + ·) 0))

/-- The waiting records go into a page program. -/
def programStart (s : State) : State :=
  if programDue s then
    let s1 := takeHead s
    if s1.arch.headUsed < 63 then
      let q := pageTake 4096 s1.arch.queue
      { s1 with arch := { s1.arch with
          prog := q.1.map fun r => { r with block := s1.arch.head }
          queue := q.2, headUsed := s1.arch.headUsed + 1 } }
    else s1
  else s

/-- A record of the journal replaced by a copy of the same SEQ (R318: a copy keeps its number). -/
def addRecs (l rs : List JRec) : List JRec := (l.filter fun r => !(rs.any fun x => x.seq == r.seq)) ++ rs

/-! ### Weeding (R323, R324) -/

/-- Free blocks at the threshold plus 200, in 0.01 % of the blocks in service. -/
def weedTarget (s : State) : Nat :=
  ((valGet s (callNo 0x1300 3) + 200) * blocksInService s + 9999) / 10000

/-- The goal of a run; `asked` when WEED was written. -/
def weedGoal (s : State) (asked : Bool) : Nat :=
  let g := weedTarget s - archiveFree s
  if asked ∧ g = 0 then
    ((s.arch.journal.map (·.block)).eraseDups.filter fun b => inService s b && decide (2 * liveBytes s b < 262144)).length
  else g

/-- First SEQ of a block, as its header tells it. -/
def firstSeq (s : State) (b : Nat) : Nat := match kvGet none s.arch.heads b with | some h => h.first | none => s.arch.nextSeq

/-- The blocks that hold records, other than the head and those being erased. -/
def usedBlocks (s : State) : List Nat :=
  (s.arch.journal.map (·.block)).eraseDups.filter fun b => b != s.arch.head && inService s b && !s.arch.erasing.contains b

/-- The block with the fewest live bytes, other than the head; ties go to the lowest first SEQ. -/
def weedVictim (s : State) : Option Nat :=
  (usedBlocks s).foldl (fun a b => match a with
    | none => some b
    | some c =>
      if liveBytes s b < liveBytes s c ∨ (liveBytes s b = liveBytes s c ∧ firstSeq s b < firstSeq s c) then some b else a) none

/-- A record put into a list in SEQ order. -/
def insertRec (r : JRec) : List JRec → List JRec
  | [] => [r]
  | x :: t => if r.seq < x.seq then r :: x :: t else x :: insertRec r t

/-- The records that are copied to the head, in SEQ order, as they wait from now on. -/
def copies (l : List JRec) (s : State) : List JRec := (l.foldl (fun a r => insertRec r a) []).map fun r => { r with at_ := s.up }

/-- The next block of a run: its live records are queued at the head, unchanged, and a WEED record names it. -/
def weedNext (s : State) : State :=
  match weedVictim s with
  | none => { s with arch := { s.arch with weeding := false } }
  | some v =>
    let live := liveIn s v
    let n := (live.map recSize).foldl (· + ·) 0
    let s1 : State := { s with arch := { s.arch with queue := s.arch.queue ++ copies live s, victim := some v } }
    journal 0x0A false v [] (bump (callNo 0x1300 6) n 64 s1)

/-- A weeding run starts (R324): a goal of 0 completes at once at 10,000. -/
def weedStart (asked : Bool) (s : State) : State :=
  let g := weedGoal s asked
  let s1 := valPut (callNo 0x1300 6) 0 (valPut (callNo 0x1300 5) (if g = 0 then 10000 else 0) s)
  if g = 0 then s1
  else weedNext { s1 with arch := { s1.arch with weeding := true, weedGoal := g, weedDone := 0 } }

/-- Weeding starts by itself when the free share falls below its threshold (R323). -/
def weedAuto (s : State) : State :=
  if s.arch.weeding = false ∧ (s.arch.st = 1 ∨ s.arch.st = 2) ∧
      10000 * archiveFree s / blocksInService s < valGet s (callNo 0x1300 3) then weedStart false s
  else s

/-- archive.cmd WEED, or the threshold: a run starts where none is in progress (R323).
[DESIGN CHOICE, log row 37] -/
def weed (asked : Bool) (s : State) : State := if s.arch.weeding then s else if asked then weedStart true s else weedAuto s

/-- The WEED record of the block being weeded is durable: the block is erased. -/
def eraseVictim (s : State) : State :=
  match s.arch.victim with
  | none => s
  | some v =>
    if !s.arch.erasing.contains v && (s.arch.journal.any fun r => r.kind == 0x0A && r.key == v)
        && !((s.arch.queue ++ s.arch.prog).any fun q => q.kind == 0x0A && q.key == v) then
      { s with arch := { s.arch with erasing := s.arch.erasing ++ [v] } }
    else s

/-- The header of a block is programmed before its first records (R317). -/
def headWritten (s : State) : State :=
  match s.arch.prog with
  | [] => s
  | r :: _ =>
    if (kvGet none s.arch.heads r.block).isSome then s
    else { s with arch := { s.arch with heads := kvSet none s.arch.heads r.block (some (headOf s r.block r.seq)) } }

/-- A page program completes: its records are durable (R319). -/
def programDone (s : State) : State :=
  if s.arch.prog.isEmpty then s
  else
    let s0 := headWritten s
    let s1 : State := { s0 with arch := { s0.arch with journal := addRecs s0.arch.journal s0.arch.prog, prog := [] } }
    weedAuto (archiveFollow (eraseVictim s1))

/-- The block that was being weeded has joined the free blocks: the run counts it and goes on. -/
def weedStep (s : State) : State :=
  let s1 : State := { s with arch := { s.arch with victim := none } }
  if s1.arch.weeding then
    let d := s1.arch.weedDone + 1
    let x := valPut (callNo 0x1300 5) (10000 * d / s1.arch.weedGoal) { s1 with arch := { s1.arch with weedDone := d } }
    if s1.arch.weedGoal ≤ d then { x with arch := { x.arch with weeding := false } } else weedNext x
  else s1

/-- A block erase completes: the block joins the free blocks, and a run that weeded it goes on (R323). -/
def eraseDone (b : Nat) (s : State) : State :=
  if s.arch.erasing.contains b = false then s
  else
    let s1 : State := { s with arch := { s.arch with
      erasing := s.arch.erasing.erase b, free := s.arch.free ++ [b]
      erases := kvSet 0 s.arch.erases b (kvGet 0 s.arch.erases b + 1)
      heads := kvSet none s.arch.heads b none
      journal := s.arch.journal.filter fun r => r.block != b } }
    archiveFollow (if s1.arch.victim = some b then weedStep s1 else s1)

/-! ### Retired blocks (R321) -/

/-- The block that replaces block `b`: a replacement block, or an erased block of the journal for one of the firmware slots. -/
def replacement (s : State) (fw : Bool) : Option Nat :=
  match s.arch.spares with
  | n :: _ => some n
  | [] => if fw then (s.arch.free.filter fun b => decide (b < 3072)).getLast? else none

/-- The blocks of firmware slot k, each with those that have replaced it (R317, R321). -/
def slotBlocks (s : State) (k : Nat) : List Nat :=
  (List.range 256).map fun i => s.arch.retired.foldl (fun a x => if x.block = a then x.by_.getD a else a) (3072 + 256 * k + i)

/-- Blocks are erased: their erase counts grow (R324). -/
def countErases (bs : List Nat) (s : State) : State :=
  { s with arch := { s.arch with erases := bs.foldl (fun m b => kvSet 0 m b (kvGet 0 m b + 1)) s.arch.erases } }

/-- Journal block `b` is retired in favour of block `n`: its live records are copied there, and a program under way is made there; an
erase that failed leaves an erased block. -/
def replaceBlock (b n : Nat) (s : State) : State :=
  let mv (x : Nat) : Nat := if x = b then n else x
  let keep := s.arch.journal.filter fun r => r.block != b || liveRec s r
  let erased := s.arch.erasing.contains b
  let s1 : State := { s with arch := { s.arch with
    head := mv s.arch.head
    journal := keep.map fun r => { r with block := mv r.block }
    prog := s.arch.prog.map fun r => { r with block := mv r.block }
    free := if erased then s.arch.free ++ [n] else s.arch.free.map mv
    erasing := s.arch.erasing.erase b
    heads := kvSet none (match kvGet none s.arch.heads b with
      | some h => if erased then s.arch.heads else kvSet none s.arch.heads n (some (headOf s n h.first))
      | none => s.arch.heads) b none } }
  if s1.arch.victim = some b then (if erased then weedStep s1 else weedNext { s1 with arch := { s1.arch with victim := none } }) else s1

/-- Journal block `b` is retired without replacement: its live records are written at the head again, a program under way too. -/
def shrinkJournal (b : Nat) (s : State) : State :=
  let live := liveIn s b
  let atHead : Bool := s.arch.head == b
  let s1 : State := { s with arch := { s.arch with
    journal := s.arch.journal.filter fun r => r.block != b || liveRec s r
    queue := (if atHead then s.arch.prog else []) ++ s.arch.queue ++ copies live s
    prog := if atHead then [] else s.arch.prog
    headUsed := if atHead then 63 else s.arch.headUsed
    free := s.arch.free.erase b, erasing := s.arch.erasing.erase b
    heads := kvSet none s.arch.heads b none } }
  archiveFollow (if s1.arch.victim = some b then weedNext { s1 with arch := { s1.arch with victim := none } } else s1)

/-- Block `b` fails a program or an erase and is retired: a replacement block takes its place. With none left a block of the journal
shrinks it.
[DESIGN CHOICE, log row 31] -/
def blockFailure (b : Nat) (s : State) : State :=
  let fw := fwBlock s b
  if fw = false ∧ inService s b = false then s
  else
    let r := replacement s fw
    let s0 := valJournal (callNo 0x1300 10) (min 512 (valGet s (callNo 0x1300 10) + 1)) s
    let s1 : State := { s0 with arch := { s0.arch with
      retired := s0.arch.retired ++ [⟨b, r, fw⟩], spares := s0.arch.spares.tail
      free := match r with | some n => s0.arch.free.erase n | none => s0.arch.free } }
    match r with
    | some n => logEvent 0x51 false 0 b n (if fw then s1 else replaceBlock b n s1)
    | none => shrinkJournal b (logEvent 0x51 false 0 b (Config.free s1.drawn) { s1 with drawn := s1.drawn + 1 })

/-! ### Replay (R322) -/

/-- The records whose check fails, as the command tells it. -/
def markBad (bad : List Nat) (l : List JRec) : List JRec :=
  l.map fun r => if bad.contains r.seq ∧ recGood r = true then { r with hcrc := (r.hcrc + 1) % 2 ^ 32 } else r

/-- An unreadable record that is no torn tail: a later one is valid. -/
def reported (l : List JRec) (r : JRec) : Bool := !recGood r && l.any fun x => recGood x && decide (r.seq < x.seq)

/-- Event 0x50 for each record that is unreadable and no torn tail. -/
def reportBad (l : List JRec) (s : State) : State :=
  (l.filter (reported l)).foldl (fun a r => logEvent 0x50 false 0 r.block r.seq a) s

/-- The readable records, whole groups only (R320, R322). -/
def readable (l : List JRec) : List JRec :=
  let g := l.filter recGood
  g.filter fun r => committed g r

/-- An unreadable record of key `p` has no newer readable one: what it held is lost (R322). -/
def lostKey (p : JRec → Bool) (l : List JRec) : Bool :=
  l.any fun r => p r && reported l r && !((readable l).any fun x => p x && decide (r.seq < x.seq))

/-- Bytes of the newest value of a key, its segments joined in order of their offset (R320). -/
def keyBytes (kind key : Nat) (l : List JRec) : Option (List Byte) :=
  match newest (fun r => r.kind == kind && r.key % 2 ^ 32 == key) l with
  | none => none
  | some r =>
    if r.group = false then some r.payload
    else
      -- the members of the newest committed group, in order of SEQ
      let first := (newest (fun c => c.kind == 0x09 && decide (c.key ≤ r.seq) && decide (r.seq < c.seq)) l).map (·.key)
      match first with
      | none => none
      | some f => some ((l.filter fun x => x.group && x.kind == kind && x.key % 2 ^ 32 == key && decide (f ≤ x.seq) && decide (x.seq ≤ r.seq)).foldl
          (fun a x => a ++ x.payload) [])

/-- The journaled value of an entry, if its record has the entry's type and size (R344). One whose newest record is lost has none.
[DESIGN CHOICE, log row 32] -/
def entryRecord (s : State) (call type size : Nat) : Option (List Byte) :=
  if lostKey (fun r => r.kind == 0x01 && r.key % 2 ^ 32 == call) (allRecs s) then none
  else match keyBytes 0x01 call (readable (allRecs s)) with
    | none => none
    | some p => if fieldAt p 0 1 = type ∧ fieldAt p 1 2 = size then some (p.drop 3) else none

/-- One device-defined entry takes its journaled value. -/
def restoreEntry (s : State) (call : Nat) : State :=
  match deviceDesc call with
  | none => s
  | some d =>
    if d.jrn = false then s
    else match entryRecord s call d.type d.size with
      | none => s
      | some v => if shortType d.type then valPut call (leNat v) s else longPut call v s

/-- Every journaled entry takes the value of its record. -/
def restoreEntries (s : State) : State :=
  (((readable s.arch.journal).filter fun r => r.kind == 0x01).map fun r => r.key % 2 ^ 32).eraseDups.foldl restoreEntry s

/-- The stored folios are found again (R445). -/
def restoreFolios (s : State) : State :=
  let l := readable s.arch.journal
  let ids := ((l.filter fun r => r.kind == 0x02).map fun r => r.key % 2 ^ 32).eraseDups
  ids.foldl (fun a i =>
    if lostKey (fun r => r.kind == 0x02 && r.key % 2 ^ 32 == i) s.arch.journal then a
    else match keyBytes 0x02 i l with
      | some b => { a with svc := { a.svc with stored := kvSet [] a.svc.stored i b } }
      | none => a) s

/-- Bytes of journal in use. -/
def journalBytes (l : List JRec) : Nat := (l.map recSize).foldl (· + ·) 0

end Sys2Proof.Machine
end

