-- ==== Sys2Proof/Machine/Ledger.lean ====
section
/-! DEFINITION. Machine/Ledger.lean: the accession ledger: submissions, acknowledgements, dispatch, completion, reports, lost ranges and
hand-over (R301 to R316, R482). -/

namespace Sys2Proof.Machine

/-! ### Stream records (Table 14-1) -/

/-- A stream record as its fields. -/
structure StreamRec where
  src : Nat
  dur : Bool
  srcid : Nat
  consumer : Nat
  dlog : Nat
  slog : Nat
  maxin : Nat
  dring : Nat
  sring : Nat
  deriving DecidableEq, Repr

/-- Call number of ledger.streams. -/
def cStreams : Nat := callNo 0x1400 1

/-- Record k of a table. -/
def recOf (l : List Byte) (k : Nat) : StreamRec :=
  let v := fieldAt l (16 * k) 8
  { src := bits v 0 3, dur := v.testBit 3, srcid := bits v 8 8, consumer := bits v 16 7, dlog := bits v 24 4, slog := bits v 28 4
    maxin := bits v 32 16, dring := fieldAt l (16 * k + 8) 4, sring := fieldAt l (16 * k + 12) 4 }

/-- The record of stream k. -/
def streamRec (s : State) (k : Nat) : StreamRec := recOf (longGet s cStreams) k

/-- The ledger's own state of stream k. -/
def getStream (s : State) (k : Nat) : LStream := kvGet LStream.fresh s.ledger.streams k
/-- Stream k replaced. -/
def setStream (k : Nat) (x : LStream) (s : State) : State :=
  { s with ledger := { s.ledger with streams := kvSet LStream.fresh s.ledger.streams k x } }

/-- In flight (R307): from acceptance until the item enters reported. -/
def itemOpen (i : LItem) : Bool := i.st == .accepted || i.st == .dispatched || i.st == .done

/-- ledger.inflight, of every stream. -/
def inflightAll (s : State) : Nat := (s.ledger.items.filter itemOpen).length
/-- Items in flight on stream k. -/
def inflightOn (s : State) (k : Nat) : Nat := (s.ledger.items.filter fun i => itemOpen i && i.stream == k).length

/-- ledger.stopped as its 32 bytes: bit k = stream k stopped. -/
def stoppedBytes (s : State) : List Byte :=
  leBytes 32 ((List.range 256).foldl (fun a k => if (getStream s k).lost.isEmpty then a else a + 2 ^ k) 0)

/-- An item changed. -/
def putItem (i : LItem) (s : State) : State :=
  { s with ledger := { s.ledger with items := s.ledger.items.map fun x => if x.stream = i.stream ∧ x.acc = i.acc then i else x } }
/-- An item removed. -/
def dropItem (i : LItem) (s : State) : State :=
  { s with ledger := { s.ledger with items := s.ledger.items.filter fun x => !(x.stream == i.stream && x.acc == i.acc) } }

/-! ### A write of ledger.streams (R301) -/

/-- The reserved bits of a table read 0 (R14). -/
def maskStreams (l : List Byte) : List Byte :=
  (List.range l.length).map fun j =>
    let b := l.getD j 0#8
    match j % 16 with
    | 0 => b &&& 0x0F#8
    | 2 => b &&& 0x7F#8
    | 6 => 0#8
    | 7 => 0#8
    | _ => b

/-- The rings of a used stream, as address ranges in units of 256 bytes. -/
def recRings (r : StreamRec) : List (Nat × Nat) :=
  if r.src = 0 then []
  else (r.dring, r.dring + 2 ^ r.dlog) :: (if r.src = 4 then [(r.sring, r.sring + 2 ^ r.slog)] else [])

/-- Two rings of a table overlap. -/
def ringsOverlap : List (Nat × Nat) → Bool
  | [] => false
  | a :: t => (t.any fun b => decide (a.1 < b.2) && decide (b.1 < a.2)) || ringsOverlap t

/-- A reserved value of a used stream's fields. -/
def recReserved (r : StreamRec) : Bool :=
  r.src != 0 && (decide (4 < r.src) || decide (r.dlog < 2) || decide (12 < r.dlog)
    || (r.src == 4 && (decide (r.slog < 2) || decide (12 < r.slog) || decide (127 < r.srcid))))

/-- The abort code of a write of ledger.streams, 0 = accepted. -/
def streamsCode (s : State) (l : List Byte) : Nat :=
  let recs := (List.range 256).map (recOf l)
  if recs.any recReserved ∨ ringsOverlap ((recs.map recRings).flatten) = true then 7
  else if (List.range 256).any fun k => bytesAt l (16 * k) 16 != bytesAt (longGet s cStreams) (16 * k) 16 && decide (0 < inflightOn s k) then 8
  else 0

/-- The newest journaled ceiling of stream k in a list of records (R305). -/
def ceilingIn (l : List JRec) (k : Nat) : Option Nat := (newest (fun r => r.kind == 0x07 && r.key == k) l).map fun r => fieldAt r.payload 0 8

/-- A ceiling of stream k is journaled. -/
def journalCeiling (k c : Nat) (s : State) : State := journal 0x07 false k (leBytes 8 c) s

/-- The table takes a value, journaled as a group (R320). The archive keeps a ceiling for each stream in use, from 0 on (R305).
[DEDUCED, log row 56] -/
def putStreams (l : List Byte) (s : State) : State :=
  let s1 := (List.range 256).foldl (fun a k =>
    if (recOf l k).src ≠ 0 ∧ ceilingIn (allRecs a) k = none then journalCeiling k 0 a else a) s
  journalEntry cStreams l (longPut cStreams l s1)

/-! ### Messages to a source (R304, R311, R377, R393) -/

/-- The device's own address on ring r (Table 16-9). -/
def ownAddr (s : State) (r : Nat) : Nat := if valGet s (cRing r 1) = 1 then 0 else valGet s (cRing r 5)

/-- A segment with its header, LAST set; ACKV and ACKXID are filled in when it is sent (Table 16-9). -/
def segOf (kind src off : Nat) (last : Bool) (p : List Byte) : List Byte :=
  BitVec.ofNat 8 kind :: BitVec.ofNat 8 src :: (if last then 1#8 else 0#8) :: 0#8 :: (leBytes 2 off ++ leBytes 2 p.length ++ p)

/-- The acknowledgement of Table 14-4. -/
def ackBytes (stream status tag acc : Nat) : List Byte :=
  leBytes 1 stream ++ leBytes 1 status ++ leBytes 2 0 ++ leBytes 4 tag ++ leBytes 6 acc ++ leBytes 2 0

/-- The host port can take one more frame (R395). -/
def hostRoom (s : State) : Bool := decide (s.host.queue.length < 32)

/-- A response frame of the host port. -/
def hostFrame (kind seq : Nat) (p : List Byte) : HFrame :=
  { kind := kind, seq := seq, last := false, status := 0, arg := 0, offset := 0, payload := p }

/-- DRAM bytes written by the ledger, word by word: a part of a word is merged, and not performed where the word cannot be read
(R267). -/
def dramWrite (pa : Nat) (bs : List Byte) (s : State) : State :=
  (List.range ((pa % 8 + bs.length + 7) / 8)).foldl (fun a i => (storeWord pa bs.length (leNat bs) (pa / 8 + i) a).2) s

/-- Whether the DRAM channel of an address serves the ledger: 0 yes, 1 it waits for initialisation, a wake or a lock of another master,
2 it answers with an error (R268, R269, R272, R284). Every slot lies on one channel. -/
def ledgerReady (s : State) (pa : Nat) : Nat :=
  match dramReady s pa with
  | 0 => if lockedOut s 258 (.phys pa) 1 then 1 else 0
  | c => c

/-- The ledger writes into a slot: it waits behind its older accesses while the channel does not serve. -/
def slotWrite (pa : Nat) (bs : List Byte) (s : State) : State :=
  if s.ledger.waits.isEmpty = false ∨ ledgerReady s pa = 1 then
    wakeDram { s with ledger := { s.ledger with waits := s.ledger.waits ++ [.write pa bs] } }
  else if ledgerReady s pa = 2 then (accError s).st
  else dramWrite pa bs s

/-- First address of a slot of a ring. -/
def slotAddr (ring log n : Nat) : Nat := 256 * ring + 256 * (n % 2 ^ log)

/-- A message leaves for a source: `slot` is the submission slot of a pair, the SEQ of a host request. -/
def sendTo (src srcid sring slog slot kind at_ : Nat) (p : List Byte) (s : State) : State :=
  match src with
  | 1 => queueSeg 0 srcid (segOf kind (ownAddr s 0) 0 true p) 2 s
  | 2 => queueSeg 1 srcid (segOf kind (ownAddr s 1) 0 true p) 2 s
  | 3 => hostPush (hostFrame kind slot p) s
  | 4 => slotWrite (slotAddr sring slog slot + at_) p s
  | _ => s

/-- A message to the source of stream k. -/
def sendStream (k slot kind at_ : Nat) (p : List Byte) (s : State) : State :=
  let r := streamRec s k
  sendTo r.src r.srcid r.sring r.slog slot kind at_ p s

/-- The route can take a message for a slot now. -/
def sourceRoom (s : State) (k slot : Nat) : Bool :=
  let r := streamRec s k
  match r.src with
  | 3 => hostRoom s
  | 4 => s.ledger.waits.isEmpty && ledgerReady s (slotAddr r.sring r.slog slot) != 1
  | _ => true

/-! ### Item records of the journal (R307, Table 14-8) -/

/-- Key of an item's records. -/
def itemKey (i : LItem) : Nat := i.stream + 256 * i.acc

/-- The submission header of an item (Table 14-2). -/
def headerBytes (i : LItem) : List Byte :=
  leBytes 1 i.stream ++ leBytes 1 (if i.durable then 1 else 0) ++ leBytes 1 i.payload.length ++ leBytes 1 0 ++ leBytes 4 i.tag
    ++ leBytes 2 i.type ++ leBytes 6 0

/-- A step of a durable item is journaled: its record holds the whole item, so that the newest record of the key restores it.
[DESIGN CHOICE, log row 28] -/
def journalItem (kind : Nat) (i : LItem) (s : State) : State :=
  journal kind false (itemKey i)
    (headerBytes i ++ i.payload ++ leBytes 4 i.rstatus.toNat ++ leBytes 4 i.rvalue.toNat ++ leBytes 2 i.slot) s

/-- A record of an item has been taken by the archive.
[DESIGN CHOICE, log row 28] -/
def recorded (s : State) (kind : Nat) (i : LItem) : Bool := (allRecs s).any fun r => r.kind == kind && r.key == itemKey i
/-- A record of an item is durable.
[DESIGN CHOICE, log row 28] -/
def durableRec (s : State) (kind : Nat) (i : LItem) : Bool := s.arch.journal.any fun r => r.kind == kind && r.key == itemKey i

/-! ### Submission (R302, R303) -/

/-- What Table 14-3 decides. -/
inductive Verdict where
  /-- an acknowledgement at once -/
  | answer (status tag acc : Nat)
  /-- a repeat joins a held submission -/
  | joined
  /-- taken: its accession number, and whether it is RESTORED -/
  | taken (acc : Nat) (restored : Bool)
  deriving DecidableEq, Repr

/-- Reserved fields of a submission header (Table 14-2). -/
def headerReserved (h : List Byte) : Bool := fieldAt h 1 1 / 2 != 0 || fieldAt h 3 1 != 0 || fieldAt h 10 6 != 0

/-- The first row of Table 14-3: the submission is refused. -/
def refusedRow (s : State) (src srcid : Nat) (h : List Byte) (bad : Bool) : Bool :=
  let r := streamRec s (fieldAt h 0 1)
  bad || headerReserved h || decide (208 < fieldAt h 2 1) || r.src != src || r.src == 0 || r.srcid != srcid
    || ((fieldAt h 1 1).testBit 0 && !r.dur)

/-- Table 14-3, its rows in order.
[DESIGN CHOICE, log row 28] -/
def judge (s : State) (src srcid : Nat) (h : List Byte) (bad : Bool) : Verdict :=
  let k := fieldAt h 0 1
  let tag := fieldAt h 4 4
  let x := getStream s k
  if refusedRow s src srcid h bad then .answer 0x13 tag 0
  else match s.ledger.items.find? fun i => i.stream == k && i.tag == tag with
    | some i => if i.st = .held then .joined else .answer 0x01 tag i.acc
    | none =>
      match x.tags.find? fun t => t.1 == tag with
      | some t => .answer 0x01 tag t.2
      | none =>
        if !x.lost.isEmpty then
          match x.lost.find? fun l => l.2.1 == tag with
          | some l => .taken l.1 true
          | none => .answer 0x12 tag 0
        else
          let d := (tag + 4294967296 - x.n.getD tag) % 4294967296
          if d = 0 then
            let m := (streamRec s k).maxin
            if 65536 ≤ inflightAll s ∨ (m ≠ 0 ∧ m ≤ inflightOn s k) then .answer 0x11 tag 0 else .taken x.next false
          else if 2147483648 ≤ d then .answer 0x02 (x.n.getD 0) 0
          else .answer 0x10 (x.n.getD 0) 0

/-- A new accession number is fixed. A new ceiling is journaled 65,536 higher once half of the block above the newest one is used
(R305).
[DESIGN CHOICE, log row 28] -/
def takeNumber (k : Nat) (s : State) : State :=
  let x := getStream s k
  let c := (ceilingIn (allRecs s) k).getD 0
  let s1 := setStream k { x with next := x.next + 1 } s
  if c + 32768 ≤ x.next + 1 then journalCeiling k (c + 65536) s1 else s1

/-- WORK is set again once no stream is stopped (R312). -/
def tryWork (k : Nat) (s : State) : State :=
  if (List.range 256).all fun j => (getStream s j).lost.isEmpty then restorePromise 0 0x30 k 0 0 s else s

/-- A submission is taken (R482): its item is held until it is acknowledged, N advances, and a durable one is journaled while
DURABLE holds. A RESTORED one stays in its lost range until it is accepted (R304, R312). -/
def takeItem (k acc slot : Nat) (restored : Bool) (h p : List Byte) (s : State) : State :=
  let x := getStream s k
  let tag := fieldAt h 4 4
  let i : LItem := { stream := k, acc := acc, tag := tag, durable := (fieldAt h 1 1).testBit 0, type := fieldAt h 8 2
                     payload := bytesAt p 0 (fieldAt h 2 1), st := .held, copyA := none, copyB := none, rstatus := 0, rvalue := 0
                     handed := false, resumed := false, slot := slot, sent := none, restored := restored }
  let s1 :=
    if restored then s
    else takeNumber k (setStream k { x with n := some ((tag + 1) % 4294967296) } s)
  let s2 : State := { s1 with ledger := { s1.ledger with items := s1.ledger.items ++ [i] } }
  if i.durable ∧ promiseBit s2 1 = true then journalItem 0x03 i s2 else s2

/-- A submission is judged and answered (R303, R304). Before the ledger is ready it is dropped.
[DEDUCED, log row 30] -/
def submit (src srcid slot : Nat) (bytes : List Byte) (bad : Bool) (s : State) : State :=
  if s.ledger.ready = false then s
  else
    let h := bytesAt bytes 0 16
    let k := fieldAt h 0 1
    match judge s src srcid h bad with
    | .joined => s
    | .taken acc restored => takeItem k acc slot restored h (bytes.drop 16) s
    | .answer status tag acc =>
      let s1 := if status = 0x01 then bump (callNo 0x1400 9) 1 32 s else s
      let r := streamRec s1 k
      sendTo src srcid r.sring r.slog slot 0x11 16 (ackBytes k status tag acc) s1

/-- The announced slot is read, with its check bits, and judged (R302). The tag of a slot that cannot be read is not known. -/
def submitServe (m v : Nat) (s : State) : State :=
  let k := v % 256
  let slot := v / 256 % 4096
  let r := streamRec s k
  let a := slotAddr r.sring r.slog slot
  let refuse (tag : Nat) (x : State) : State := slotWrite (a + 16) (ackBytes k 0x13 tag 0) x
  let unread (x : State) : State := refuse (Config.free x.drawn % 2 ^ 32) { x with drawn := x.drawn + 1 }
  if ledgerReady s a = 2 then unread (accError s).st
  else
    let n := min 208 (memRead s (a + 2) 1)
    let q0 := eccWord (a / 8) s
    let q := eccWords ((List.range ((16 + n + 7) / 8 - 1)).map fun i => a / 8 + 1 + i) q0.2
    let bytes := leBytes (16 + n) (memRead q.2 a (16 + n))
    if q0.1 ≠ 0 then unread q.2
    else if q.1 ≠ 0 ∨ fieldAt bytes 0 1 ≠ k ∨ r.srcid ≠ m then refuse (fieldAt bytes 4 4) q.2
    else submit 4 m slot bytes false q.2

/-- A pair announces a slot of its submission ring; it waits while the slot's channel does not serve. `m` is the pair, 255 for a
writer that is none. A slot outside the ring is none of the stream's.
[DEDUCED, log row 30] -/
def submitPair (m v : Nat) (s : State) : State :=
  let r := streamRec s (v % 256)
  let slot := v / 256 % 4096
  if s.ledger.ready = false ∨ r.src ≠ 4 ∨ 2 ^ r.slog ≤ slot then s
  else if s.ledger.waits.isEmpty = false ∨ ledgerReady s (slotAddr r.sring r.slog slot) = 1 then
    wakeDram { s with ledger := { s.ledger with waits := s.ledger.waits ++ [.submit m v] } }
  else submitServe m v s

/-! ### Acknowledgement (R304, R308) -/

/-- DRAM channel c is in service (R269). -/
def channelUp (s : State) (c : Nat) : Bool := (valGet s (callNo 0x1900 1)).testBit c

/-- The channel of a mirror copy: `c`, or the next one in service, another than `other` where there is one (R308).
[DEDUCED, log row 56] -/
def pickChan (s : State) (c : Nat) (other : Option Nat) : Option Nat :=
  let l := ((List.range 8).map fun j => (c + j) % 8).filter fun d => channelUp s d
  match l.find? fun d => other != some d with
  | some d => some d
  | none => l.head?

/-- An item with both copies written anew, on channels c and (c + 4) mod 8 that rotate with its accession number (R308).
[DEDUCED, log row 56] -/
def mirrorItem (s : State) (i : LItem) : LItem :=
  let a := pickChan s (i.acc % 8) none
  { i with copyA := a, copyB := pickChan s ((i.acc + 4) % 8) a }

/-- A change of an item is written to both copies (R308). -/
def moveItem (i : LItem) (s : State) : State := putItem (mirrorItem s i) s

/-- The mirror area serves: a channel is in service, the DRAM is initialised, and its interface is on. -/
def mirrorReady (s : State) : Bool :=
  match pickChan s 0 none with
  | some c => ledgerReady s (256 * c) == 0
  | none => false

/-- The held submission of stream k whose acknowledgement is next: they are sent in the order of their tags (R482). -/
def nextAck (s : State) (k : Nat) : Option LItem :=
  let mine := s.ledger.items.filter fun i => i.stream == k && i.st == .held
  mine.find? fun i => mine.all fun j => decide (i.acc ≤ j.acc)

/-- An accession number lies below the durable ceiling of its stream + 65,536; the first ceiling of a stream is 0 (R305).
[DEDUCED, log row 56] -/
def numberCovered (s : State) (k acc : Nat) : Bool := decide (acc < (ceilingIn s.arch.journal k).getD 0 + 65536)

/-- A submission is acknowledged and its item accepted (R304). One that is RESTORED leaves the lost range (R312). -/
def acceptItem (i : LItem) (s : State) : State :=
  let s1 := sendStream i.stream i.slot 0x11 16 (ackBytes i.stream (if i.restored then 0x03 else 0x00) i.tag i.acc)
    (moveItem { i with st := .accepted } s)
  if i.restored then
    let x := getStream s1 i.stream
    tryWork i.stream (setStream i.stream { x with lost := x.lost.filter fun l => l.1 != i.acc } s1)
  else s1

/-- The next held submission of stream k is acknowledged once both mirror copies can be written and, where it is durable, its ACCEPT
record is durable; while DURABLE is clear a durable one stays held (R304). -/
def acknowledge (k : Nat) (s : State) : State :=
  match nextAck s k with
  | none => s
  | some i =>
    if s.ledger.ready = false then s
    else if mirrorReady s = false ∨ sourceRoom s k i.slot = false then wakeDram s
    else if numberCovered s k i.acc = false then s
    else if i.durable then
      if promiseBit s 1 = false then s
      else if durableRec s 0x03 i then acceptItem i s
      else if recorded s 0x03 i then s
      else journalItem 0x03 i s
    else acceptItem i s

/-! ### Dispatch (R309, Table 14-6) -/

/-- The flag byte of a slot: LIVE, HANDED, RESUMED. -/
def slotFlags (i : LItem) (live : Bool) : Byte :=
  BitVec.ofNat 8 ((if live then 1 else 0) + (if i.handed then 2 else 0) + (if i.resumed then 4 else 0))

/-- The 256 bytes of a dispatch slot; RSTATUS and RVALUE are the consumer's and hold no stated value yet.
[DESIGN CHOICE, log row 29] -/
def slotBytes (i : LItem) (open_ : Nat) : List Byte :=
  headerBytes i ++ leBytes 6 i.acc ++ [slotFlags i true, 0#8] ++ leBytes 8 open_ ++ bytesAt i.payload 0 208 ++ leBytes 16 0

/-- Address of an item's dispatch slot. -/
def dispatchAddr (s : State) (i : LItem) : Nat := let r := streamRec s i.stream; slotAddr r.dring r.dlog i.acc

/-- An item's slot is written (R309). -/
def writeSlot (i : LItem) (s : State) : State :=
  slotWrite (dispatchAddr s i) (slotBytes i (Config.free s.drawn % 2 ^ 64)) { s with drawn := s.drawn + 1 }

/-- Interrupt source 7 in a consumer's main copy. -/
def raiseLedger (m : Nat) (s : State) : State := setPend (mainOf m) 7 s

/-- The next item of a stream to be dispatched: every earlier one has been, the stream is not stopped and the slot's previous
occupant is done.
[DESIGN CHOICE, log row 29] -/
def nextDispatch (s : State) (k : Nat) : Option LItem :=
  let mine := s.ledger.items.filter fun i => i.stream == k
  if (getStream s k).lost.isEmpty = false then none
  else match mine.find? fun i => i.st == .accepted && mine.all fun j => decide (i.acc ≤ j.acc) || j.st == .dispatched || j.st == .done
      || j.st == .reported with
    | none => none
    | some i =>
      let n := 2 ^ (streamRec s k).dlog
      if mine.any fun j => j.st == .dispatched && j.acc % n == i.acc % n then none else some i

/-- DISPATCH of stream k: the DISPATCH record of a durable item is durable first; the slot's channel must serve. A slot on a channel
out of service halts the stream's dispatch there (R316). -/
def dispatch (k : Nat) (s : State) : State :=
  match nextDispatch s k with
  | none => s
  | some i =>
    if i.durable ∧ durableRec s 0x04 i = false then (if recorded s 0x04 i then s else journalItem 0x04 i s)
    else if s.ledger.waits.isEmpty = false then s
    else match ledgerReady s (dispatchAddr s i) with
      | 0 => raiseLedger (streamRec s k).consumer (writeSlot i (moveItem { i with st := .dispatched } s))
      | 1 => wakeDram s
      | _ => (accError s).st

/-! ### Completion (R310) -/

/-- The result of the dispatched item with accession number `acc` of stream k is read and LIVE is cleared. A result that cannot be read
is not defined.
[DEDUCED, log row 30] -/
def doneServe (k acc : Nat) (s : State) : State :=
  match s.ledger.items.find? fun i => i.stream == k && i.st == .dispatched && i.acc == acc with
  | none => bump (callNo 0x1400 5) 1 32 s
  | some i =>
    let a := dispatchAddr s i
    let q : Nat × State := if ledgerReady s a = 2 then (0x0D, (accError s).st) else eccWord (a / 8 + 3) s
    let res := if q.1 = 0 then memRead q.2 (a + 24) 8 else Config.free q.2.drawn % 2 ^ 64
    let s1 : State := if q.1 = 0 then q.2 else { q.2 with drawn := q.2.drawn + 1 }
    let j : LItem := { i with st := .done, rstatus := BitVec.ofNat 32 res, rvalue := BitVec.ofNat 32 (res / 4294967296) }
    let s2 := slotWrite (a + 22) [slotFlags i false] (moveItem j s1)
    if i.durable then journalItem 0x05 j s2 else s2

/-- A consumer's ledger.done write: taken from the stream's present consumer for a LIVE slot, else discarded and counted. A write that
is taken waits while the slot's channel does not serve.
[DEDUCED, log row 30] -/
def ledgerDone (m v : Nat) (s : State) : State :=
  let k := v % 256
  let r := streamRec s k
  match s.ledger.items.find? fun i => i.stream == k && i.st == .dispatched && i.acc % 2 ^ 24 == v / 256 % 2 ^ 24 with
  | none => bump (callNo 0x1400 5) 1 32 s
  | some i =>
    if r.src = 0 ∨ r.consumer ≠ m then bump (callNo 0x1400 5) 1 32 s
    else if s.ledger.waits.isEmpty = false ∨ ledgerReady s (dispatchAddr s i) = 1 then
      wakeDram { s with ledger := { s.ledger with waits := s.ledger.waits ++ [.done k i.acc] } }
    else doneServe k i.acc s

/-! ### Accesses that waited for their channel -/

/-- The address an access that waits goes to. -/
def waitAddr (s : State) : LWait → Nat
  | .write pa _ => pa
  | .submit _ v => let r := streamRec s (v % 256); slotAddr r.sring r.slog (v / 256 % 4096)
  | .done k acc => let r := streamRec s k; slotAddr r.dring r.dlog acc

/-- An access whose channel serves. -/
def waitServe (w : LWait) (s : State) : State :=
  match w with
  | .write pa bs => if ledgerReady s pa = 2 then (accError s).st else dramWrite pa bs s
  | .submit m v => submitServe m v s
  | .done k acc => doneServe k acc s

/-- The accesses that wait, oldest first, as far as their channels serve. -/
def drainWaits : List LWait → State → State
  | [], s => s
  | w :: t, s =>
    if ledgerReady s (waitAddr s w) = 1 then { s with ledger := { s.ledger with waits := (w :: t) ++ s.ledger.waits } }
    else drainWaits t (waitServe w s)

/-- The ledger's waiting accesses go on. -/
def ledgerDrain (s : State) : State :=
  if s.ledger.waits.isEmpty then s else drainWaits s.ledger.waits { s with ledger := { s.ledger with waits := [] } }

/-! ### Reports (R311) -/

/-- When a report falls due again: 64 cycles of its ring, or host.report.retry (R377, R393). -/
def retryDue (s : State) (k : Nat) : Nat :=
  match (streamRec s k).src with
  | 1 => (getRing s 0).cycle + 64
  | 2 => (getRing s 1).cycle + 64
  | _ => s.up + 4000000 * valGet s (callNo 0x1500 0x0A)

/-- An item enters reported and its tag joins the last 1,024; a volatile one is released from flight at once, a durable one once
its REPORTED record is durable (R307). -/
def itemReported (i : LItem) (s : State) : State :=
  let x := getStream s i.stream
  let s1 := setStream i.stream { x with tags := ((i.tag, i.acc) :: x.tags).take 1024 } s
  if i.durable then journalItem 0x06 i (moveItem { i with st := .reported, sent := none } s1) else dropItem i s1

/-- A report of item i is sent: to a ring or the host it waits for its acknowledgement, a pair's is written into its slot. -/
def sendReport (i : LItem) (s : State) : State :=
  let k := i.stream
  if (streamRec s k).src = 4 then
    itemReported i (sendStream k i.slot 0x12 32 (leBytes 4 i.rstatus.toNat ++ leBytes 4 i.rvalue.toNat) s)
  else
    sendStream k 0 0x12 0 (ackBytes k 0x00 i.tag i.acc ++ leBytes 4 i.rstatus.toNat ++ leBytes 4 i.rvalue.toNat)
      (putItem { i with sent := some (retryDue s k) } s)

/-- The item whose report may be sent: done, with every earlier item of its stream reported and none lost before it. -/
def nextReport (s : State) (k : Nat) : Option LItem :=
  let mine := s.ledger.items.filter fun i => i.stream == k && i.st != .reported
  match mine.find? fun i => mine.all fun j => decide (i.acc ≤ j.acc) with
  | none => none
  | some i => if i.st = .done ∧ ((getStream s k).lost.all fun l => decide (i.acc < l.1)) = true then some i else none

/-- REPORT of stream k. -/
def report (k : Nat) (s : State) : State :=
  match nextReport s k with
  | none => s
  | some i =>
    if i.sent.isSome ∨ sourceRoom s k i.slot = false ∨ (i.durable ∧ durableRec s 0x05 i = false) then s else sendReport i s

/-- A source acknowledges a report, on the route and from the address of its stream (R301, R311). -/
def reportAck (src srcid k acc : Nat) (s : State) : State :=
  let r := streamRec s k
  if r.src ≠ src ∨ r.srcid ≠ srcid then s
  else match s.ledger.items.find? fun i => i.stream == k && i.acc == acc && i.st == .done && i.sent.isSome with
    | some i => itemReported i s
    | none => s

/-- A report that is not acknowledged falls due again. -/
def reportRetry (k : Nat) (s : State) : State :=
  match nextReport s k with
  | none => s
  | some i =>
    match i.sent with
    | none => s
    | some due =>
      let r := (streamRec s k).src
      let now := match r with | 1 => (getRing s 0).cycle | 2 => (getRing s 1).cycle | _ => s.up
      let alive := match r with | 1 => ringCycle s 0 != 0 | 2 => ringCycle s 1 != 0 | _ => hostRoom s
      if due ≤ now ∧ alive = true then sendReport i s else s

/-- The REPORTED records that have become durable release their items from flight (R307). -/
def releaseReported (s : State) : State :=
  { s with ledger := { s.ledger with items := s.ledger.items.filter fun i => !(i.st == .reported && durableRec s 0x06 i) } }

/-! ### Lost items (R29, R312) -/

/-- First and last accession number of a lost range. -/
def lostFirst (l : List (Nat × Nat × Nat)) : Nat := match l with | [] => 0 | x :: t => t.foldl (fun a y => min a y.1) x.1
/-- The last one. -/
def lostLast (l : List (Nat × Nat × Nat)) : Nat := l.foldl (fun a y => max a y.1) 0

/-- An item joins its stream's lost range: dispatch stops, WORK is cleared and event 0x30 names the range, the run of accession
numbers from the first item lost to the last (R312). -/
def loseItem (k acc tag slot : Nat) (s : State) : State :=
  let x := getStream s k
  let lost := (x.lost.filter fun l => l.1 != acc) ++ [(acc, tag, slot)]
  lapse 0 0x30 k (lostLast lost - lostFirst lost + 1) (lostFirst lost) (setStream k { x with lost := lost } s)

/-- Both copies of an item have become unreadable: a durable one is rebuilt from the journal and both copies are written anew, a
volatile one is lost. -/
def itemLost (k acc : Nat) (s : State) : State :=
  match s.ledger.items.find? fun i => i.stream == k && i.acc == acc && itemOpen i with
  | none => s
  | some i => if i.durable then moveItem i s else loseItem k acc i.tag i.slot (dropItem i s)

/-- A copy lies on channel c, or nowhere. -/
def copyGone (c : Nat) (x : Option Nat) : Bool := x == none || x == some c

/-- DRAM channel c has gone out of service: an item with one copy left has the other written anew, one with none is lost (R308). -/
def mirrorFollow (c : Nat) (s : State) : State :=
  (s.ledger.items.filter fun i => itemOpen i && (copyGone c i.copyA || copyGone c i.copyB)).foldl (fun a i =>
    if copyGone c i.copyA && copyGone c i.copyB then itemLost i.stream i.acc a else moveItem i a) s

/-- RELEASE: every item of the lost range that has not been restored is reported with RSTATUS 0xFFFF_FFFF and ends; its RVALUE is
not stated. A durable item's key ends with a RELEASE record.
[DESIGN CHOICE, log row 29] -/
def releaseItems (k : Nat) : List (Nat × Nat × Nat) → State → State
  | [], s => s
  | l :: t, s =>
    let i : LItem := mirrorItem s { stream := k, acc := l.1, tag := l.2.1, durable := false, type := 0, payload := [], st := .done
                                    copyA := none, copyB := none, rstatus := 0xFFFFFFFF#32, rvalue := BitVec.ofNat 32 (Config.free s.drawn)
                                    handed := false, resumed := false, slot := l.2.2, sent := none, restored := false }
    let s1 : State := { s with drawn := s.drawn + 1, ledger := { s.ledger with items := s.ledger.items ++ [i] } }
    releaseItems k t (if (allRecs s).any fun r => itemKind r.kind && r.key == itemKey i then journal 0x0B false (itemKey i) (headerBytes i) s1
      else s1)

/-- The lost range of a stopped stream is released, but for the items whose RESTORED submission came first (R316). -/
def releaseRange (k : Nat) (s : State) : State :=
  let x := getStream s k
  let held (l : Nat × Nat × Nat) : Bool := s.ledger.items.any fun i => i.stream == k && i.acc == l.1 && i.st == .held
  tryWork k (setStream k { x with lost := x.lost.filter held } (releaseItems k (x.lost.filter fun l => !held l) s))

/-! ### Hand-over (R313, R315) -/

/-- Fields of record k replaced in a table. -/
def setConsumer (l : List Byte) (k m : Nat) : List Byte := overlayBytes l (16 * k + 2) [BitVec.ofNat 8 m]

/-- The store is a pair's write of a ledger entry that has been released and not taken yet. -/
def ledgerStore (t : StoreOp) (call : Nat) : Bool :=
  t.released && !t.taken && (match t.place with | .cat off => windowCall off == call && off % 8 == 0 && t.width == 2 | _ => false)

/-- The store with number `seq` has been taken. -/
def markTaken (n seq : Nat) (s : State) : State :=
  let mark (l : List StoreOp) : List StoreOp := l.map fun t => if t.seq = seq then { t with taken := true } else t
  modEng n (fun e => { e with stb := mark e.stb, pastSt := mark e.pastSt }) s

/-- The writes of ledger.submit and ledger.done that engine n has released and that wait in its store buffer are taken, those that `p`
selects (R315). -/
def flushLedger (p : Nat → Bool) (n : Nat) (s : State) : State :=
  (storesOf (getEng s n)).foldl (fun a t =>
    if ledgerStore t (callNo 0x1400 4) ∧ p t.data.toNat = true then markTaken n t.seq (ledgerDone (pairOf n) (t.data.toNat % 2 ^ 32) a)
    else if ledgerStore t (callNo 0x1400 3) ∧ p t.data.toNat = true then markTaken n t.seq (submitPair (pairOf n) (t.data.toNat % 2 ^ 32) a)
    else a) s

/-- Both engines of a pair. -/
def flushPair (p : Nat → Bool) (m : Nat) (s : State) : State := flushLedger p (checkerOf m) (flushLedger p (mainOf m) s)

/-- A stream goes to a new consumer: the outgoing pair's released ledger.done writes are taken, HANDED in every LIVE slot, CONSUMER,
and source 7 in the new pair. -/
def handStream (k m : Nat) (s : State) : State :=
  let s0 := flushPair (fun v => v % 256 == k) (streamRec s k).consumer s
  let live := s0.ledger.items.filter fun i => i.stream == k && i.st == .dispatched
  let s1 := live.foldl (fun a i =>
    let j : LItem := { i with handed := true }
    slotWrite (dispatchAddr a j + 22) [slotFlags j true] (moveItem j a)) s0
  raiseLedger m (putStreams (setConsumer (longGet s1 cStreams) k m) s1)

/-- A HANDOVER to a pair whose migration has the same mark names the final consumer (R316). -/
def keepHanded (k m : Nat) (s : State) : State :=
  modPair m (fun p => { p with mig := p.mig.map fun g => if g.armed ∧ g.markAt = s.now then { g with kept := k :: g.kept } else g }) s

/-- The HANDOVERs whose mark has come. -/
def handoversAtMark (s : State) : State :=
  let due := s.ledger.handovers.filter fun h => decide (h.2.2 ≤ s.now)
  due.foldl (fun a h => keepHanded h.1 h.2.1 (handStream h.1 h.2.1 a))
    { s with ledger := { s.ledger with handovers := s.ledger.handovers.filter fun h => !decide (h.2.2 ≤ s.now) } }

/-- One record after pair m's work moved to pair k, the streams in `kept` left with their consumer (R313, R316). -/
def migrateRec (m k : Nat) (kept : List Nat) (l : List Byte) (j : Nat) : List Byte :=
  let r := recOf l j
  let l1 := if r.src ≠ 0 ∧ r.consumer = m ∧ kept.contains j = false then setConsumer l j k else l
  if r.src = 4 ∧ r.srcid = m then overlayBytes l1 (16 * j + 1) [BitVec.ofNat 8 k] else l1

/-- The streams of a home pair follow its migration: its released writes are taken first, and its announced slots stay those of the
work that moved. -/
def streamsFollow (m k : Nat) (kept : List Nat) (s : State) : State :=
  let s0 := flushPair (fun _ => true) m s
  let l := longGet s0 cStreams
  let t := (List.range 256).foldl (migrateRec m k kept) l
  let s1 : State := { s0 with ledger := { s0.ledger with waits := s0.ledger.waits.map fun w => match w with
    | .submit a v => .submit (if a = m then k else a) v
    | x => x } }
  if t = l then s1 else putStreams t s1

/-- N of stream k as the journal tells it, unset where it holds no durable item of the stream (R306). -/
def journaledN (l : List JRec) (k : Nat) : Option Nat := (lastItem l k).map fun r => (fieldAt r.payload 4 4 + 1) % 4294967296

/-- A write of ledger.cmd: the abort code and the state (Table 14-11). -/
def ledgerCmd (v : Nat) (s : State) : Nat × State :=
  let k := bits v 8 8
  match v % 256 with
  | 1 => (0, { s with ledger := { s.ledger with handovers := s.ledger.handovers ++ [(k, bits v 16 7, valGet s (callNo 0x1400 7))] } })
  | 2 => if (getStream s k).lost.isEmpty then (8, s) else (0, releaseRange k s)
  | 3 => if 0 < inflightOn s k then (8, s) else (0, setStream k { getStream s k with n := journaledN s.arch.journal k } s)
  | _ => (7, s)

/-! ### Resets and replay (R28, R305, R306, R322, R482) -/

/-- Records taken out of the queue: the numbers of those that were never written close up (R318). -/
def unqueue (drop : JRec → Bool) (s : State) : State :=
  let copied (r : JRec) : Bool := (s.arch.journal ++ s.arch.prog).any fun x => x.seq == r.seq
  let gone := (s.arch.queue.filter fun r => drop r && !copied r).map (·.seq)
  let shift (n : Nat) : Nat := n - (gone.filter fun g => decide (g < n)).length
  let again (r : JRec) : JRec :=
    if copied r then r
    else { mkRec r.kind r.group (if r.kind = 0x09 then shift r.key else r.key) (shift r.seq) r.payload r.at_ with block := r.block }
  { s with arch := { s.arch with
      queue := (s.arch.queue.filter fun r => !(drop r && !copied r)).map again
      nextSeq := s.arch.nextSeq - gone.length } }

/-- A held submission is dropped: N and the accession numbers of its stream return to it. A RESTORED one is still in its lost range. A
record of it that has been programmed, or is being, is ended by another. -/
def dropOne (s : State) (i : LItem) : State :=
  let x := getStream s i.stream
  let s1 := if i.restored then s else setStream i.stream { x with n := some i.tag, next := i.acc } s
  if (s.arch.journal ++ s.arch.prog).any fun r => r.kind == 0x03 && r.key == itemKey i then journal 0x0B false (itemKey i) [] s1 else s1

/-- A reset other than power-on drops the held submissions, the earliest of each stream last (R304, R482). -/
def dropHeld (s : State) : State :=
  let held := s.ledger.items.filter fun i => i.st == .held
  let s1 := held.reverse.foldl dropOne (unqueue (fun r => r.kind == 0x03 && held.any fun i => itemKey i == r.key) s)
  { s1 with ledger := { s1.ledger with
      items := (s1.ledger.items.filter fun i => i.st != .held).map fun i => { i with sent := none }
      waits := s1.ledger.waits.filter fun w => match w with | .write _ _ => true | .done _ _ => true | .submit _ _ => false } }

/-- An item as its record tells it. -/
def itemOf (r : JRec) : LItem :=
  let h := r.payload
  let n := fieldAt h 2 1
  { stream := r.key % 256, acc := r.key / 256 % 2 ^ 48, tag := fieldAt h 4 4, durable := true, type := fieldAt h 8 2
    payload := bytesAt h 16 n, st := if r.kind = 0x03 then .accepted else if r.kind = 0x04 then .dispatched else .done
    copyA := none, copyB := none, rstatus := BitVec.ofNat 32 (fieldAt h (16 + n) 4), rvalue := BitVec.ofNat 32 (fieldAt h (20 + n) 4)
    handed := false, resumed := r.kind == 0x04, slot := fieldAt h (24 + n) 2, sent := none, restored := false }

/-- Records that keep an item in flight.
[DESIGN CHOICE, log row 28] -/
def itemRec (r : JRec) : Bool := r.kind == 0x03 || r.kind == 0x04 || r.kind == 0x05

/-- The item records that replay finds unreadable with no newer one of their key: their items are lost (R322). -/
def lostItems (all good : List JRec) : List JRec :=
  all.filter fun r => itemKind r.kind && reported all r && !(good.any fun x => sameKey x r && decide (r.seq < x.seq))

/-- The durable items that replay restores: each from the newest record of its key, unless that record ends the key or is lost. -/
def restoredItems (all good : List JRec) (s : State) : List LItem :=
  (((good.filter itemRec).filter fun r => !superseded good r).filter fun r =>
    !((lostItems all good).any fun x => sameKey x r && decide (r.seq < x.seq))).map fun r => mirrorItem s (itemOf r)

/-- N, the ceiling and the next number of stream k after a power-on: it continues above its journaled ceiling + 65,536, and that is
its ceiling from then on (R305). -/
def restoreStream (l : List JRec) (s : State) (k : Nat) : State :=
  match ceilingIn l k with
  | none => s
  | some c => journalCeiling k (c + 65536) (setStream k { LStream.fresh with next := c + 65536, n := journaledN l k } s)

/-- A lost item record stops its stream (R322).
[DESIGN CHOICE, log row 28] -/
def loseRecord (s : State) (r : JRec) : State :=
  loseItem (r.key % 256) (r.key / 256 % 2 ^ 48) (fieldAt r.payload 4 4) (fieldAt r.payload (24 + fieldAt r.payload 2 1) 2) s

/-- The ledger after replay of the journal at power-on. `all` holds every record, `good` the readable ones. -/
def restoreLedger (all good : List JRec) (s : State) : State :=
  let s1 := (List.range 256).foldl (restoreStream good) s
  (lostItems all good).foldl loseRecord { s1 with ledger := { s1.ledger with items := restoredItems all good s1 } }

/-- Items that were dispatched before a power loss return to their slots with LIVE and RESUMED set (R322). -/
def resumeSlots (s : State) : State :=
  (s.ledger.items.filter fun i => i.st == .dispatched && i.resumed).foldl (fun a i => writeSlot i a) s

/-- Archive replay: the blocks in the order of their first sequence numbers, then every record. `bad` are the SEQs of the records whose check fails. After a power-on every key takes its newest record; a
device reset finds entries and items as they stand. A block whose header fails its check is erased again. DURABLE is set (R322, R323).
[DESIGN CHOICE, log row 31] -/
def archiveReplay (bad : List Nat) (powerOn : Bool) (s : State) : State :=
  let l := markBad bad s.arch.journal
  let good := readable l
  let s1 : State := if powerOn then
      let kept := l.filter fun r => recGood r || reported l r
      let torn := (s.arch.heads.filterMap fun h => match h.2 with | some x => if headGood x then none else some h.1 | none => none)
      restoreLedger l good (restoreFolios (restoreEntries (reportBad l { s with arch := { s.arch with
        journal := kept, erasing := s.arch.erasing ++ torn } })))
    else s
  let s2 : State := { s1 with arch := { s1.arch with st := if s1.arch.st = 0 then 1 else s1.arch.st } }
  archiveFollow (restorePromise 1 0x52 0 (archiveFree s2) 0
    (valPut (callNo 0x1300 7) 10000 (valPut (callNo 0x1300 8) (journalBytes l) s2)))

end Sys2Proof.Machine
end

