-- ==== Sys2Proof/Machine/Frame.lean ====
section
/-! DEFINITION. Machine/Frame.lean: Ramnas frames and telegrams, the descriptors of a ring, its links and its expected return (R353,
R357 to R362, R366 to R368, R380). -/

namespace Sys2Proof.Machine

/-! ### Ports and links (R351, R352, R380) -/

/-- In-port of ring r. -/
def inPort (r : Nat) : Nat := 2 * r
/-- Out-port of ring r. -/
def outPort (r : Nat) : Nat := 2 * r + 1
/-- Ring of port q. -/
def portRing (q : Nat) : Nat := q / 2
/-- port.link: 1 or 2 while the link serves the ring. -/
def linkUp (s : State) (q : Nat) : Bool := let v := valGet s (cPort q 1); v == 1 || v == 2

/-- A byte time in quarter-nanoseconds: 80 ns at 100BASE-TX, else 8 ns (R352). -/
def byteTime (s : State) (r : Nat) : Nat :=
  if valGet s (cPort (inPort r) 1) = 1 ∨ valGet s (cPort (outPort r) 1) = 1 then 320 else 32

/-- port.link.delay as it enters CORR: an unmeasured link adds nothing.
[DEDUCED, log row 35] -/
def corrDelay (s : State) (q : Nat) : Nat := let v := valGet s (cPort q 0x0A); if v = 0xFFFFFFFF then 0 else v

/-- The delay of a port's link as it enters L: 500 ns until it is measured (R380). -/
def linkDelay (s : State) (q : Nat) : Nat := let v := valGet s (cPort q 0x0A); if v = 0xFFFFFFFF then 2000 else v

/-- Call number of ring.topo of hop h. -/
def cTopo (r h : Nat) : Nat := callNo (0x1602 + 0x100 * r) h

/-- ring.hops. -/
def ringHops (s : State) (r : Nat) : Nat := valGet s (cRing r 0x18)

/-- The hops E counts with: ring.nodes, or 64, before the first scan completes (R382). -/
def countedHops (s : State) (r : Nat) : Nat :=
  if ringHops s r ≠ 0 then ringHops s r else if valGet s (cRing r 6) ≠ 0 then valGet s (cRing r 6) else 64

/-- The delays of the hops + 1 links, from the out-port on: measured ones from ring.topo and the in-port. -/
def linkDelays (s : State) (r : Nat) : List Nat :=
  let h := countedHops s r
  (List.range h).map (fun i =>
      let d := valGet s (cTopo r (i + 1)) / 65536
      if d ≠ 0 then d else if i = 0 then linkDelay s (outPort r) else 2000)
    ++ [linkDelay s (inPort r)]

/-- A list without its element `i`. -/
def dropAt {α : Type} (l : List α) (i : Nat) : List α := l.take i ++ l.drop (i + 1)

/-- E − launch of a frame of `n` bytes, in quarter-nanoseconds (R380). -/
def returnTime (s : State) (r n : Nat) (loop : Bool) : Nat :=
  let h := countedHops s r
  let d := (8 + n) * byteTime s r
  let f := 4 * valGet s (cRing r 8)
  let ls := linkDelays s r
  if loop then d + (2 * h - 1) * f + 2 * (dropAt ls (valGet s (cRing r 0x19))).foldl (· + ·) 0
  else d + h * f + ls.foldl (· + ·) 0

/-! ### Descriptors (Tables 16-5 and 16-6) -/

/-- Descriptors of ring r up to the first whose SERVICE is 0, in master role. -/
def telsMaster (s : State) (r : Nat) : List Nat :=
  ((List.range 64).map fun i => valGet s (cTel r i 1)).takeWhile fun v => bits v 8 8 != 0
/-- As in node role. -/
def telsNode (s : State) (r : Nat) : List Nat :=
  ((List.range 64).map fun i => valGet s (cTel r i 1)).takeWhile fun v => bits v 16 8 != 0

/-- Fields of a master descriptor: ADDR. -/
def telAddr (v : Nat) : Nat := bits v 0 8
/-- SERVICE. -/
def telSvc (v : Nat) : Nat := bits v 8 8
/-- DLEN. -/
def telLen (v : Nat) : Nat := bits v 16 11
/-- OOFF. -/
def telOoff (v : Nat) : Nat := bits v 32 12
/-- IOFF. -/
def telIoff (v : Nat) : Nat := bits v 44 12
/-- ESERVE. -/
def telServe (v : Nat) : Nat := bits v 56 8

/-- Fields of a node descriptor: LOFF. -/
def winLoff (v : Nat) : Nat := bits v 0 16
/-- SERVICE. -/
def winSvc (v : Nat) : Nat := bits v 16 8
/-- WLEN. -/
def winLen (v : Nat) : Nat := bits v 24 11
/-- IOFF. -/
def winIoff (v : Nat) : Nat := bits v 40 12
/-- OOFF. -/
def winOoff (v : Nat) : Nat := bits v 52 12

/-- A master descriptor beyond the first meets R367. -/
def telFits (s : State) (r v : Nat) : Bool :=
  let d := telLen v
  let oin := decide (telIoff v + d ≤ valGet s (cRing r 9))
  let oout := decide (telOoff v + d ≤ valGet s (cRing r 0x0A))
  let node := decide (1 ≤ telAddr v) && decide (telAddr v ≤ 64)
  decide (d ≤ 1482) && match telSvc v with
    | 0x01 => node && oin
    | 0x02 => node && oout
    | 0x03 => node && oin && oout
    | 0x04 => telAddr v == 0xFF && oin && oout && telServe v != 0
    | 0x10 => decide (telAddr v ≤ 64) && d == valGet s (cRing r 0x0C)
    | _ => false

/-- LENGTH of the cyclic frame: its telegrams. -/
def telsLength (vs : List Nat) : Nat := (vs.map fun v => telLen v + 10).foldl (· + ·) 0

/-- The descriptor checks of a master (R367). -/
def masterFits (s : State) (r : Nat) : Bool :=
  match telsMaster s r with
  | [] => false
  | v :: vs => telSvc v == 0x20 && telAddr v == 0xFF && telLen v == 30 && vs.all (telFits s r) && decide (telsLength (v :: vs) ≤ 1492)

/-- A window uses the input image. -/
def winTakes (svc : Nat) : Bool := svc == 2 || svc == 3 || svc == 4
/-- A window uses the output image. -/
def winGives (svc : Nat) : Bool := svc == 1 || svc == 3 || svc == 4

/-- A node descriptor meets R368. -/
def winFits (s : State) (r v : Nat) : Bool :=
  let n := winLen v
  decide (1 ≤ winSvc v) && decide (winSvc v ≤ 4) && decide (1 ≤ n) && decide (n ≤ 1482)
    && (!winTakes (winSvc v) || decide (winIoff v + n ≤ valGet s (cRing r 9)))
    && (!winGives (winSvc v) || decide (winOoff v + n ≤ valGet s (cRing r 0x0A)))

/-- Two SPAN windows overlap. -/
def winsOverlap : List Nat → Bool
  | [] => false
  | v :: vs => (vs.any fun w => decide (winLoff v < winLoff w + winLen w) && decide (winLoff w < winLoff v + winLen v)) || winsOverlap vs

/-- The descriptor checks of a node (R368). -/
def nodeFits (s : State) (r : Nat) : Bool :=
  let vs := telsNode s r
  vs.all (winFits s r) && !winsOverlap (vs.filter fun v => winSvc v == 4)

/-! ### Frames (R353, R357) -/

/-- Bytes of a frame before its FCS. -/
def frameBody (f : List Byte) : List Byte := f.take (f.length - 4)
/-- The FCS of a frame is good. -/
def fcsGood (f : List Byte) : Bool := decide (18 ≤ f.length) && f.drop (f.length - 4) == leBytes 4 (crc32 (frameBody f))
/-- A body with its FCS; `bad` inverts it. -/
def withFcs (b : List Byte) (bad : Bool) : List Byte := b ++ leBytes 4 (if bad then 0xFFFFFFFF - crc32 b else crc32 b)

/-- A telegram as it stands in a frame: byte offset of its header, and its fields. -/
structure Tel where
  off : Nat
  addr : Nat
  svc : Nat
  len : Nat
  toff : Nat
  xid : Nat
  deriving DecidableEq, Repr

/-- The telegram at an offset. -/
def telAt (f : List Byte) (o : Nat) : Tel :=
  { off := o, addr := fieldAt f o 1, svc := fieldAt f (o + 1) 1, len := fieldAt f (o + 2) 2 % 2048, toff := fieldAt f (o + 4) 2
    xid := fieldAt f (o + 6) 1 }

/-- `n` telegrams from an offset. -/
def telList : Nat → List Byte → Nat → List Tel
  | 0, _, _ => []
  | n + 1, f, o => telAt f o :: telList n f (o + (telAt f o).len + 10)

/-- The telegrams of a frame. -/
def telsOf (f : List Byte) : List Tel := telList (fieldAt f 15 1) f 22
/-- The working counter of a telegram. -/
def telWkc (f : List Byte) (t : Tel) : Nat := fieldAt f (t.off + 8 + t.len) 2
/-- The data of a telegram. -/
def telData (f : List Byte) (t : Tel) : List Byte := bytesAt f (t.off + 8) t.len

/-- EtherType of a frame, network order. -/
def frameType (f : List Byte) : Nat := beNat (bytesAt f 12 2)
/-- LENGTH. -/
def frameLen (f : List Byte) : Nat := fieldAt f 18 2 % 4096
/-- CYCLE. -/
def frameCycle (f : List Byte) : Nat := fieldAt f 16 2
/-- HOPS. -/
def frameHops (f : List Byte) : Nat := fieldAt f 21 1
/-- A flag of header byte 14: 4 LOOPED, 5 ACYC, 6 CLOSE, 7 HEALED. -/
def frameFlag (f : List Byte) (k : Nat) : Bool := (fieldAt f 14 1).testBit k

/-- The frame carries ring r's EtherType, and is no longer than a port supports (R351, R353). -/
def ramnas (s : State) (r : Nat) (f : List Byte) : Bool :=
  frameType f == valGet s (cRing r 3) && decide (f.length ≤ 1518) && frameType f != 0x8100
    && !(frameType f == 0x8808 && beNat (bytesAt f 14 2) == 1)

/-- The frame is valid (R357): VER, RINGID, and telegrams that fill LENGTH exactly.
[DEDUCED, log row 35] -/
def frameValid (s : State) (r : Nat) (f : List Byte) : Bool :=
  let n := fieldAt f 15 1
  fieldAt f 14 1 % 16 == 1 && fieldAt f 20 1 == valGet s (cRing r 4) && decide (1 ≤ n)
    && ((telsOf f).map fun t => t.len + 10).foldl (· + ·) 0 == frameLen f && decide (22 + frameLen f + 4 ≤ f.length)

/-- Frame bytes before the FCS: header and telegrams, padded to the 64-byte minimum (R357). -/
def ringFrame (s : State) (r flags ntel cycle : Nat) (tels : List Byte) : List Byte :=
  let b := List.replicate 6 0xFF#8 ++ bytesAt (Config.mac (outPort r)) 0 6 ++ beBytes 2 (valGet s (cRing r 3))
    ++ leBytes 1 (1 + flags) ++ leBytes 1 ntel ++ leBytes 2 cycle ++ leBytes 2 tels.length ++ leBytes 1 (valGet s (cRing r 4)) ++ [0#8] ++ tels
  b ++ List.replicate (60 - b.length) 0#8

/-- A telegram as bytes, its WKC 0 (Table 16-2). -/
def telBytes (addr svc toff xid : Nat) (d : List Byte) : List Byte :=
  leBytes 1 addr ++ leBytes 1 svc ++ leBytes 2 d.length ++ leBytes 2 toff ++ leBytes 1 xid ++ [0#8] ++ d ++ [0#8, 0#8]

/-- A tally grows by one and stays at 255 (R359). -/
def tally (b : Byte) (up : Bool) : Byte := if up ∧ b ≠ 255#8 then b + 1#8 else b

/-- The working counter of a telegram after a pass. -/
def tallyWkc (f : List Byte) (t : Tel) (taken given : Bool) : List Byte :=
  let o := t.off + 8 + t.len
  overlayBytes f o [tally (f.getD o 0#8) taken, tally (f.getD (o + 1) 0#8) given]

/-- HOPS grows by one. -/
def bumpHops (f : List Byte) : List Byte := overlayBytes f 21 [f.getD 21 0#8 + 1#8]

/-- CORR of every TIME telegram grows by `n` (R361). -/
def addCorr (n : Nat) (f : List Byte) : List Byte :=
  ((telsOf f).filter fun t => t.svc == 0x20 && decide (28 ≤ t.len)).foldl (fun a t =>
    overlayBytes a (t.off + 32) (leBytes 4 (fieldAt a (t.off + 32) 4 + n))) f

/-- The flags of header byte 14 that a looping node sets. -/
def setFlags (v : Nat) (f : List Byte) : List Byte := overlayBytes f 14 [f.getD 14 0#8 ||| BitVec.ofNat 8 v]

end Sys2Proof.Machine
end

