-- ==== Sys2Proof/Machine/Ring.lean ====
section
/-! DEFINITION. Machine/Ring.lean: the Ramnas ring ports: cycles, passes, decisions, the acyclic exchange, scans, breaks and 802.1AS
(R351 to R389). -/

namespace Sys2Proof.Machine

/-! ### State of a ring as shown -/

/-- ring.state (Table 16-15). -/
def ringState (x : RingSt) : Nat :=
  if x.st = 0 then 0 else if x.st = 4 then 4 else if x.looped then 3 else if x.scan then 1 else 2

/-- Ring r's role. -/
def ringRole (s : State) (r : Nat) : Nat := if (getRing s r).st = 0 then 0 else valGet s (cRing r 1)

/-- ALIGN_RING of ring r is lost (R37, R384). -/
def loseAlign (r : Nat) (s : State) : State := if promiseBit s (4 + r) then lapse (4 + r) 0x33 r 0 0 s else s

/-! ### Catalogue requests over a segment or a frame -/

/-- What the catalogue service answers: abort code, value bytes, and whether the value ends with them. -/
structure SvcOut where
  code : Nat
  bytes : List Byte
  last : Bool
  st : State

/-- The catalogue service as a route calls it: route, service (1 READ, 2 WRITE, 3 INFO), call number, offset, data, LAST, the
largest answer. -/
abbrev CatServe := Nat → Nat → Nat → Nat → List Byte → Bool → Nat → State → SvcOut

/-! ### Acyclic segments (R373 to R378) -/

/-- Answers to catalogue requests that wait on ring r (R376). -/
def answersHeld (x : RingSt) : Nat := (x.txq.filter fun g => g.origin == 1).length

/-- A segment is an answer that a folio's staged segment expects (R378). -/
def staged (x : RingSt) (peer : Nat) (seg : List Byte) : Bool :=
  let k := fieldAt seg 0 1
  if k = 0x11 ∨ k = 0x12 then x.staged.contains (peer, 16777216)
  else (k == 0x81 || k == 0x82 || k == 0x83 || k == 0x8F) && x.staged.contains (peer, fieldAt seg 8 4 % 16777216)

/-- A segment goes to the acyclic receive queue. -/
def toQueue (x : RingSt) (peer : Nat) (seg : List Byte) : Bool :=
  let k := fieldAt seg 0 1
  (decide (0x40 ≤ k) && decide (k ≤ 0x7F)) || staged x peer seg

/-- A catalogue request of a segment is served, and its response queued for the requester (R376). -/
def acycCatalogue (serve : CatServe) (r peer : Nat) (seg : List Byte) (s : State) : State :=
  let k := fieldAt seg 0 1
  let call := fieldAt seg 8 4 % 16777216
  let off := fieldAt seg 4 2
  let n := fieldAt seg 6 2
  let o := serve (r + 1) k call off (bytesAt seg 12 (n - 4)) ((fieldAt seg 2 1).testBit 0) (valGet s (cRing r 0x0C) - 12) s
  let own := ownAddr s r
  let cb := leBytes 4 call
  let p :=
    if o.code ≠ 0 then segOf 0x8F own 0 true (cb ++ leBytes 4 o.code)
    else match k with
      | 1 => segOf 0x81 own off o.last (cb ++ o.bytes)
      | 2 => segOf 0x82 own off true cb
      | _ => segOf 0x83 own off o.last (cb ++ o.bytes)
  queueSeg r peer p 1 o.st

/-- An entry of the acyclic receive queue: header, then payload padded with zeros (R378). -/
def rxPush (r peer : Nat) (seg : List Byte) (s : State) : State :=
  modRing r (fun x => { x with
    rx := x.rx ++ [bytesAt (seg.take (8 + fieldAt seg 6 2)) 0 256]
    staged := if staged x peer seg ∧ fieldAt seg 0 1 ≠ 0x11 ∧ fieldAt seg 0 1 ≠ 0x12 ∧ (fieldAt seg 2 1).testBit 0 then
        x.staged.erase (peer, fieldAt seg 8 4 % 16777216) else x.staged }) s

/-- A segment taken from a peer goes where its kind says (R375 to R378). -/
def acycRoute (serve : CatServe) (r peer : Nat) (seg : List Byte) (s : State) : State :=
  let k := fieldAt seg 0 1
  let n := fieldAt seg 6 2
  match k with
  | 0x01 => acycCatalogue serve r peer seg s
  | 0x02 => acycCatalogue serve r peer seg s
  | 0x03 => acycCatalogue serve r peer seg s
  | 0x10 =>
    let b := bytesAt seg 8 n
    submit (r + 1) peer 0 b (decide (valGet s (cRing r 0x0C) - 8 < 16 + fieldAt b 2 1)) s
  | 0x13 => reportAck (r + 1) peer (fieldAt seg 8 1) (fieldAt seg 10 6) s
  | _ =>
    if toQueue (getRing s r) peer seg then rxPush r peer seg s
    else if k = 0x11 ∨ k = 0x12 ∨ k = 0x81 ∨ k = 0x82 ∨ k = 0x83 ∨ k = 0x8F then s
    else bump (cRing r 0x1B) 1 32 s

/-- A segment is taken from a peer, unless there is no place for it: a repeat is acknowledged and not taken again (R374). -/
def acycTake (serve : CatServe) (r peer xid : Nat) (seg : List Byte) (s : State) : Bool × State :=
  let k := fieldAt seg 0 1
  let x := getRing s r
  if k = 0 ∨ kvGet 0 x.xidIn peer = xid + 1 then (true, s)
  else if ((k = 1 ∨ k = 2 ∨ k = 3) ∧ 16 ≤ answersHeld x) ∨ (toQueue x peer seg = true ∧ 64 ≤ x.rx.length) then (false, s)
  else (true, acycRoute serve r peer seg (modRing r (fun y => { y with xidIn := kvSet 0 y.xidIn peer (xid + 1) }) s))

/-- The oldest segment for a peer. -/
def oldestSeg (x : RingSt) (peer : Nat) : Option AcySeg := x.txq.find? fun g => g.peer == peer

/-- The queue without its oldest segment for a peer. -/
def dropSeg (peer : Nat) : List AcySeg → List AcySeg
  | [] => []
  | g :: t => if g.peer = peer then t else g :: dropSeg peer t

/-- The queue with its oldest segment for a peer changed. -/
def mapSeg (peer : Nat) (f : AcySeg → AcySeg) : List AcySeg → List AcySeg
  | [] => []
  | g :: t => if g.peer = peer then f g :: t else g :: mapSeg peer f t

/-- The oldest segment for a peer has been delivered. -/
def delivered (r peer : Nat) (s : State) : State := modRing r (fun x => { x with txq := dropSeg peer x.txq }) s

/-- The master's next segment acknowledges the oldest segment that a node has sent it (ACKV, R374). -/
def acycAcked (r peer : Nat) (seg : List Byte) (s : State) : State :=
  match oldestSeg (getRing s r) peer with
  | some g => if 0 < g.sends ∧ (fieldAt seg 2 1).testBit 1 = true ∧ fieldAt seg 3 1 = g.xid then delivered r peer s else s
  | none => s

/-- A segment on the wire: ACKV and ACKXID filled in, padded to ring.acyc.size (Table 16-9). -/
def wireSeg (s : State) (r peer : Nat) (b : List Byte) : List Byte :=
  let a := kvGet 0 (getRing s r).xidIn peer
  let h := if a = 0 then b else overlayBytes b 2 [b.getD 2 0#8 ||| 2#8, BitVec.ofNat 8 (a - 1)]
  bytesAt h 0 (valGet s (cRing r 0x0C))

/-- A segment has been resent ring.acyc.limit times and is not a REPORT (R374). -/
def overLimit (s : State) (r : Nat) (g : AcySeg) : Bool :=
  let lim := valGet s (cRing r 0x0E)
  lim != 0 && decide (lim < g.sends) && fieldAt g.bytes 0 1 != 0x12

/-- The oldest segment for a peer is abandoned (R374). -/
def abandon (r peer : Nat) (g : AcySeg) (s : State) : State :=
  logEvent 0x64 false r peer (fieldAt g.bytes 0 1) (bump (cRing r 0x1B) 1 32 (delivered r peer s))

/-- A master abandons its oldest segment for a node where its resends are over (R374). -/
def abandonDue (r peer : Nat) (s : State) : State :=
  match oldestSeg (getRing s r) peer with
  | some g => if peer ≠ 0 ∧ overLimit s r g = true then abandon r peer g s else s
  | none => s

/-- What goes to a peer next: its oldest segment, if one is due, or EMPTY. A node sends a segment again only when its retry falls
due (R374). -/
def sendSeg (r peer : Nat) (s0 : State) : Nat × List Byte × State :=
  let s := abandonDue r peer s0
  let x := getRing s r
  let hollow := wireSeg s r peer (segOf 0 (ownAddr s r) 0 false [])
  match oldestSeg x peer with
  | none => (0, hollow, s)
  | some g =>
    if peer = 0 ∧ g.sentAt ≠ 0 then (0, hollow, s)
    else (g.xid, wireSeg s r peer g.bytes,
      modRing r (fun y => { y with txq := mapSeg peer (fun h => { h with sends := h.sends + 1, sentAt := y.cycle + 1 }) y.txq }) s)

/-- An ACYC telegram comes back to the master, or a segment reaches a node outside a cyclic pass: its sender is named by SRC. The
master's segment to that node is delivered when TAKEN was incremented (R374).
[DESIGN CHOICE, log row 36] -/
def acycReturned (serve : CatServe) (r addr taken xid : Nat) (data : List Byte) (s : State) : State :=
  if addr ≠ ownAddr s r then s
  else
    let peer := fieldAt data 1 1
    let s1 := if ringRole s r = 1 then (match oldestSeg (getRing s r) peer with
        | some g => if 0 < taken ∧ 0 < g.sends then delivered r peer s else s
        | none => s)
      else acycAcked r peer data s
    (acycTake serve r peer xid data s1).2

/-- An unacknowledged segment falls due again after ring.acyc.retry cycles, or is abandoned after ring.acyc.limit resends; a
REPORT is never abandoned (R374). -/
def acycRetry (r peer : Nat) (s : State) : State :=
  let x := getRing s r
  match oldestSeg x peer with
  | none => s
  | some g =>
    if g.sends = 0 ∨ g.sentAt = 0 ∨ (ringRole s r ≠ 1 ∧ x.cycle + 1 < g.sentAt + valGet s (cRing r 0x0D)) then s
    else if overLimit s r g then abandon r peer g s
    else modRing r (fun y => { y with txq := mapSeg peer (fun h => { h with sentAt := 0 }) y.txq }) s

/-! ### Launch (R23, R355, R367) -/

/-- The data of the TIME telegram at launch (Table 16-4): `start` is the cycle's start. -/
def timeData (s : State) (r start : Nat) : List Byte :=
  let b (x : Bool) (k : Nat) : Nat := if x then k else 0
  leBytes 8 start ++ leBytes 8 (markFrom s (s.now + 1)) ++ leBytes 4 (s.now - start + 8 * byteTime s r) ++ leBytes 4 (ringCycle s r) ++ leBytes 4 0
    ++ leBytes 1 (b s.time.valid 1 + b s.time.locked 2 + b s.time.holdover 4) ++ leBytes 1 (valGet s (callNo 0x1110 2))

/-- A byte of the output image as the next frame carries it: from the frozen copy, where one is frozen. -/
def outByte (x : RingSt) (j : Nat) : Byte := match x.frozen with | some l => l.getD j 0#8 | none => kvGet 0#8 x.imgOut j

/-- The expected WKC of a descriptor, 65536 = untested (Table 16-5, R369). -/
def expectedWkc (s : State) (r v : Nat) : Nat :=
  let e := telServe v
  match telSvc v with
  | 0x01 => 256 * (if e = 0 then 1 else e)
  | 0x02 => if e = 0 then 1 else e
  | 0x03 => 257 * (if e = 0 then 1 else e)
  | 0x04 => 257 * e
  | 0x20 => if e ≠ 0 then e else if ringHops s r = 0 then 65536 else ringHops s r
  | _ => 65536

/-- One telegram of the cyclic frame is built. -/
def launchTel (r start : Nat) (a : List Byte × State) (v : Nat) : List Byte × State :=
  let s := a.2
  let x := getRing s r
  let img := (List.range (telLen v)).map fun i => outByte x (telOoff v + i)
  match telSvc v with
  | 0x20 => (a.1 ++ telBytes 0xFF 0x20 0 0 (timeData s r start), s)
  | 0x04 => (a.1 ++ telBytes 0xFF 0x04 (telOoff v) 0 img, s)
  | 0x10 => let q := sendSeg r (telAddr v) s; (a.1 ++ telBytes (telAddr v) 0x10 0 q.1 q.2.1, q.2.2)
  | 0x01 => (a.1 ++ telBytes (telAddr v) 0x01 0 0 (List.replicate (telLen v) 0#8), s)
  | k => (a.1 ++ telBytes (telAddr v) k 0 0 img, s)

/-- The ring enters LOOP at `pos` (R384): the cycle in progress is computed for LOOP, and its alignment is lost. -/
def enterLoop (r pos : Nat) (s : State) : State :=
  let x := getRing s r
  if x.looped then s
  else
    let s1 := valPut (cRing r 0x19) pos (modRing r (fun y => { y with
      looped := true, scan := false, probeOut := false, measured := false, healed := 0, closing := false, closeSent := false }) s)
    let s2 := modRing r (fun y => { y with
      launched := y.launched.map fun l => { l with due := l.at_ + returnTime s1 r l.len true } }) s1
    loseAlign r (logEvent 0x61 true r pos 0 s2)

/-- A master whose own link is down enters LOOP at its next launch (R384). -/
def ownLinkLoop (r : Nat) (s : State) : State :=
  if linkUp s (outPort r) = false ∧ linkUp s (inPort r) = true then enterLoop r 0 s
  else if linkUp s (inPort r) = false ∧ linkUp s (outPort r) = true then enterLoop r (ringHops s r) s
  else s

/-- A frame leaves a port. -/
def txCount (q : Nat) (s : State) : State := bump (cPort q 7) 1 32 s

/-- The cyclic frame of a cycle that started at `start` is launched now.
[DEDUCED, log row 35] -/
def launchFrame (r start : Nat) (s : State) : State :=
  let vs := telsMaster s r
  let q := vs.foldl (launchTel r start) ([], s)
  let s1 := q.2
  let x := getRing s1 r
  let f := withFcs (ringFrame s1 r (if x.closing then 64 else 0) vs.length x.cycle q.1) false
  let e := returnTime s1 r f.length x.looped
  let s2 := modRing r (fun y => { y with
    lastFrame := f, frozen := none, cycle := y.cycle + 1, closeSent := y.closing || y.closeSent
    launched := y.launched ++ [⟨y.cycle % 65536, f.length, s.now, s.now + e, vs.map (expectedWkc s r)⟩] }) s1
  txCount (if linkUp s (outPort r) then outPort r else inPort r) (valPut (cRing r 0x17) (e / 4) s2)

/-- A master's cycle starts and its frame is launched at the launch offset (R355). -/
def cycleLaunch (r : Nat) (s : State) : State :=
  let off := valGet s (cRing r 7)
  if ringRole s r = 1 ∧ (getRing s r).st ≠ 0 ∧ off ≤ s.now ∧ cycleStart s r (s.now - off) = true
      ∧ ((getRing s r).launched.any fun l => l.at_ == s.now) = false then
    launchFrame r (s.now - off) (ownLinkLoop r (freezeDue r s))
  else s

/-! ### Decisions (R369 to R371, R380) -/

/-- A cycle has been decided: status, counters, interrupts, and FAIL or its end (R369, R370, R371). -/
def decided (r : Nat) (good : Bool) (status : Nat) (s : State) : State :=
  let x := getRing s r
  let s1 := valPut (cRing r 0x12) status s
  if good then
    let s2 := modRing r (fun y => { y with
      fails := 0, st := if y.st = 4 then 2 else y.st
      -- every entry into RUN starts a scan (R382)
      scan := y.scan || (y.st == 4 && !y.looped && ringRole s r == 1), probeOut := y.probeOut && y.st != 4 }) (setPendAll (3 + r) s1)
    if x.st = 4 then logEvent 0x60 false r status x.cycle s2 else s2
  else
    let n := x.fails + 1
    let s2 := modRing r (fun y => { y with fails := n }) (setPendAll (5 + r) (bump (cRing r 0x14) 1 32 s1))
    if valGet s (cRing r 0x0B) ≤ n ∧ x.st ≠ 4 then
      logEvent 0x60 true r status x.cycle (modRing r (fun y => { y with st := 4 }) s2)
    else s2

/-- ring.cycle.status from its parts (Table 16-7). -/
def statusWord (good missing fcs hdr wkc late loop stop : Bool) (tel cycle : Nat) : Nat :=
  let b (x : Bool) (k : Nat) : Nat := if x then 2 ^ k else 0
  b good 0 + b missing 1 + b fcs 2 + b hdr 3 + b wkc 4 + b late 5 + b loop 6 + b stop 7 + 256 * tel + 65536 * (cycle % 65536)

/-- Bytes copied into the input image. -/
def imagePut (r off : Nat) (bs : List Byte) (s : State) : State :=
  modRing r (fun x => { x with imgIn := ((List.range bs.length).zip bs).foldl (fun m p => kvSet 0#8 m (off + p.1) p.2) x.imgIn }) s

/-- The returned data of one descriptor goes to its IOFF range (R369). -/
def returnTel (f : List Byte) (r : Nat) (s : State) (p : Nat × Tel) : State :=
  let k := telSvc p.1
  if k = 1 ∨ k = 3 ∨ k = 4 then imagePut r (telIoff p.1) (telData f p.2) s else s

/-- Index of the first telegram whose WKC differs from what is expected, or that did not return, 0xFF = none. -/
def firstBad (f : List Byte) : List Nat → List Tel → Nat → Nat
  | [], _, _ => 0xFF
  | _ :: _, [], i => i
  | w :: ws, t :: ts, i => if w ≠ 65536 ∧ telWkc f t ≠ w then i else firstBad f ws ts (i + 1)

/-- A Ramnas frame reaches a port: counted, and its timestamp point noted at the in-port (R353, R186). -/
def rxCount (r q ts : Nat) (s : State) : State :=
  let s1 := bump (cPort q 6) 1 32 s
  if q = inPort r then frameCapture r ts (valPut (cPort q 0x0C) ts s1) else s1

/-- The port at which a master's frames return: its in-port, or its out-port while the in-port's link is down (R383). -/
def returnPort (s : State) (r : Nat) : Nat := if linkUp s (inPort r) = false ∧ linkUp s (outPort r) = true then outPort r else inPort r

/-- The ACYC telegrams of a returned frame. -/
def acycAll (serve : CatServe) (r : Nat) (f : List Byte) (s : State) : State :=
  ((telsOf f).filter fun t => t.svc == 0x10).foldl (fun a t =>
    acycReturned serve r t.addr (telWkc f t % 256) t.xid (telData f t) a) s

/-- Consecutive cyclic frames with HEALED; after 16 the next frame carries CLOSE (R385). -/
def healedCount (r : Nat) (h : Bool) (s : State) : State :=
  modRing r (fun x =>
    let n := if h then x.healed + 1 else 0
    { x with healed := n, closing := x.closing || (x.looped && decide (16 ≤ n)) }) s

/-- The launched frame that a returned frame answers: the one with its CYCLE, and the oldest where its header or
its FCS tells nothing (R369).
[DEDUCED, log row 35] -/
def launchOf (r : Nat) (f : List Byte) (s : State) : Option Launch :=
  let ls := (getRing s r).launched
  match ls.find? fun l => fcsGood f && frameCycle f == l.cycle with
  | some l => some l
  | none => ls.head?

/-- A launched frame has been decided.
[DEDUCED, log row 35] -/
def launchDone (r cycle : Nat) (s : State) : State :=
  modRing r (fun y => { y with launched := y.launched.filter fun l => l.cycle != cycle }) s

/-- An acyclic frame has returned to the master: its segments are taken (R373). -/
def acycReturn (serve : CatServe) (r : Nat) (f : List Byte) (s : State) : State := if frameValid s r f then acycAll serve r f s else s

/-- The master decides a returned cyclic frame whose timestamp point was at `ts` (R369, R380), or takes a returned acyclic one.
[DEDUCED, log row 35] -/
def masterDecide (serve : CatServe) (r ts : Nat) (f : List Byte) (s : State) : State :=
  let x := getRing s r
  let q := returnPort s r
  let fcs := fcsGood f
  if ringRole s r ≠ 1 then s
  else if ramnas s r f = false then bump (cPort q 9) 1 32 s
  else
    let s1 := (fun a => if fcs then a else bump (cPort q 8) 1 32 a) (rxCount r q ts s)
    if fcs ∧ frameFlag f 5 = true then acycReturn serve r f s1
    else match launchOf r f s with
      | none => s1
      | some l =>
        let arrived := ts + f.length * byteTime s r
        if l.due + 8000 < arrived then bump (cPort q 9) 1 32 s1
        else
          let hdr := fcs && (!frameValid s r f || frameCycle f != l.cycle)
          let tels := telsOf f
          let tel := if fcs && !hdr then firstBad f l.wkc tels 0 else 0xFF
          let good := fcs && !hdr && tel == 0xFF
          let w := statusWord good false (!fcs) hdr (tel != 0xFF) (decide (l.due < arrived)) x.looped x.stopped tel l.cycle
          let s2 := valPut (cRing r 0x16) ((arrived - l.at_) / 4) (launchDone r l.cycle s1)
          let s3 := healedCount r (fcs && !hdr && frameFlag f 7) (if fcs && !hdr then
              ((List.range 64).zip tels).foldl (fun a p => valPut (cTel r p.1 2) (telWkc f p.2) a) s2
            else s2)
          let s4 := if good then ((telsMaster s r).zip tels).foldl (returnTel f r) s3 else s3
          let s5 := decided r good w s4
          if fcs && !hdr then acycAll serve r f s5 else s5

/-- The returned frame has not arrived by E + 2 µs (R380). -/
def missingLimit (r : Nat) (s : State) : State :=
  let x := getRing s r
  match x.launched.head? with
  | none => s
  | some l =>
    if l.due + 8000 ≤ s.now ∧ ringRole s r = 1 then
      decided r false (statusWord false true false false false false x.looped x.stopped 0xFF l.cycle)
        (bump (cRing r 0x15) 1 32 (launchDone r l.cycle (modRing r (fun y => { y with healed := 0 }) s)))
    else s

/-! ### A node's pass (R356, R358 to R362, R373) -/

/-- What a pass has made so far: the frame, the bytes taken and the state. -/
structure Pass where
  f : List Byte
  takes : List (Nat × Byte)
  st : State

/-- One window of a node serves a telegram whose data stand at span offset `base`. The Bools are: took, gave. -/
def winServe (x : RingSt) (t : Tel) (base v : Nat) (p : Pass) : Bool × Bool × Pass :=
  let a := max (winLoff v) base
  let b := min (winLoff v + winLen v) (base + t.len)
  if b ≤ a then (false, false, p)
  else
    let svc := winSvc v
    let old := bytesAt p.f (t.off + 8 + (a - base)) (b - a)
    let takes := if winTakes svc then p.takes ++ ((List.range (b - a)).map fun i => winIoff v + (a - winLoff v) + i).zip old else p.takes
    let f := if winGives svc then
        overlayBytes p.f (t.off + 8 + (a - base)) ((List.range (b - a)).map fun i => outByte x (winOoff v + (a - winLoff v) + i))
      else p.f
    (winTakes svc, winGives svc, ⟨f, takes, p.st⟩)

/-- A telegram of service COLLECT, DELIVER, EXCHANGE or SPAN meets the node's windows (R359). -/
def winsServe (s : State) (r : Nat) (t : Tel) (p : Pass) : Pass :=
  let base := if t.svc = 4 then t.toff else 0
  let ws := (telsNode s r).filter fun v => winSvc v == t.svc
  if (t.svc = 4 ∧ t.addr ≠ 0xFF) ∨ (t.svc ≠ 4 ∧ t.addr ≠ valGet s (cRing r 5)) then p
  else
    let q := ws.foldl (fun (a : Bool × Bool × Pass) v =>
      let b := winServe (getRing s r) t base v a.2.2
      (a.1 || b.1, a.2.1 || b.2.1, b.2.2)) (false, false, p)
    { q.2.2 with f := tallyWkc q.2.2.f t q.1 q.2.1 }

/-- An ACYC telegram addressed to the node: its segment is taken and the reply written in its place (R373). -/
def acycServe (serve : CatServe) (r : Nat) (t : Tel) (p : Pass) : Pass :=
  let s := p.st
  let seg := telData p.f t
  if t.addr ≠ valGet s (cRing r 5) then p
  else
    let q := acycTake serve r 0 t.xid seg (acycAcked r 0 seg s)
    if q.1 = false then { p with st := q.2 }
    else
      let o := sendSeg r 0 q.2
      let f := overlayBytes (overlayBytes (overlayBytes p.f t.off [0#8]) (t.off + 6) [BitVec.ofNat 8 o.1]) (t.off + 8) (bytesAt o.2.1 0 t.len)
      ⟨tallyWkc f t true true, p.takes, o.2.2⟩

/-- One telegram on a processing pass (Table 16-3). `ok` says that the arriving FCS is good. -/
def telServeNode (serve : CatServe) (r : Nat) (ok : Bool) (p : Pass) (t : Tel) : Pass :=
  match t.svc with
  | 0x20 => if t.addr = 0xFF then { p with f := tallyWkc p.f t true false } else p
  | 0x30 =>
    let h := frameHops p.f
    if t.addr = 0xFF ∧ h < t.len then
      { p with f := tallyWkc (overlayBytes p.f (t.off + 8 + h) [BitVec.ofNat 8 (valGet p.st (cRing r 5))]) t false true }
    else p
  | 0x10 => if ok then acycServe serve r t p else p
  | 0x01 => winsServe p.st r t p
  | 0x02 => winsServe p.st r t p
  | 0x03 => winsServe p.st r t p
  | 0x04 => winsServe p.st r t p
  | _ => p

/-- The time a node takes from a frame's TIME telegram (R362). -/
def timeOf (f : List Byte) : Option NodeTime :=
  ((telsOf f).find? fun t => t.svc == 0x20 && decide (30 ≤ t.len)).map fun t =>
    let d := telData f t
    ⟨fieldAt d 0 8, fieldAt d 20 4, fieldAt d 8 8, fieldAt d 29 1⟩

/-- The master's time at the node's in-port timestamp point, by a frame as it arrived (R362). -/
def masterTime (s : State) (r : Nat) (f : List Byte) : Option Nat :=
  ((telsOf f).find? fun t => t.svc == 0x20 && decide (30 ≤ t.len)).map fun t =>
    let d := telData f t
    fieldAt d 0 8 + fieldAt d 16 4 + fieldAt d 24 4 + corrDelay s (inPort r)

/-- The offset of the ring's time at a node whose ring is the selected source, from the timestamp `ts` of its in-port (R171, R362). -/
def nodeMeasure (r ts : Nat) (f : List Byte) (s : State) : State :=
  if valGet s (callNo 0x1100 3) ≠ r + 1 then s
  else match masterTime s r f with
    | some t => { s with time := { s.time with meas := some ((t : Int) - ts) } }
    | none => s

/-- The loop of the ring as a node's frames show it: a change is a change of the topology, whose path delays are not measured (R37).
[DESIGN CHOICE, log row 36] -/
def nodeLoop (r : Nat) (on : Bool) (s : State) : State :=
  if (getRing s r).looped = on then s else loseAlign r (modRing r (fun y => { y with looped := on, measured := false }) s)

/-- A node's port on which frames arrive, and the one they leave on, while a loop holds (R383). -/
def nodePorts (s : State) (r : Nat) : Nat × Nat :=
  if (getPort s (inPort r)).loop then (outPort r, outPort r)
  else if (getPort s (outPort r)).loop then (inPort r, inPort r)
  else (inPort r, outPort r)

/-- The node loops frames back. -/
def nodeLoops (s : State) (r : Nat) : Bool := (getPort s (inPort r)).loop || (getPort s (outPort r)).loop

/-- A cyclic frame has passed: the node's decision (R356, R369).
[DESIGN CHOICE, log row 36] -/
def nodeDecide (r ts : Nat) (f : List Byte) (good fcs hdr : Bool) (takes : List (Nat × Byte)) (s : State) : State :=
  let s1 := if good then
      nodeMeasure r ts f (nodeLoop r (frameFlag f 4 || nodeLoops s r) (takes.foldl (fun a p => imagePut r p.1 [p.2] a) s))
    else s
  let x := getRing s1 r
  let s2 := modRing r (fun y => { y with
    cycle := y.cycle + 1, arrived := some ts, frozen := none, closeSent := y.closeSent || (good && frameFlag f 6)
    time := if good then (match timeOf f with | some t => some t | none => y.time) else y.time }) s1
  ringFollow r (phaseReduce
    (decided r good (statusWord good false (!fcs) hdr false false x.looped x.stopped 0xFF (frameCycle f)) s2))

/-- A frame reaches a node's working port at timestamp point `ts`; `resid` is its residence time, in quarter-nanoseconds (R356 to
R362). -/
def nodePass (serve : CatServe) (r ts resid : Nat) (f : List Byte) (s : State) : State :=
  if ringRole s r ≠ 2 then s
  else
    let q := nodePorts s r
    if ramnas s r f = false then bump (cPort q.1 9) 1 32 s
    else
      let s1 := rxCount r q.1 ts (freezeDue r s)
      let fcs := fcsGood f
      let s2 := if fcs then s1 else bump (cPort q.1 8) 1 32 s1
      if frameValid s r f = false then
        let s3 := txCount q.2 (modRing r (fun y => { y with fwd := f }) s2)
        if frameFlag f 5 then s3 else nodeDecide r ts f false fcs fcs [] s3
      else
        let p := (telsOf f).foldl (telServeNode serve r fcs) ⟨f, [], s2⟩
        let wk := ((List.range 64).zip (telsOf p.f)).foldl (fun a t =>
          if frameFlag f 5 then a else valPut (cTel r t.1 2) (telWkc p.f t.2) a) p.st
        let g := addCorr (corrDelay s q.1 + resid) (bumpHops p.f)
        let h := if nodeLoops s r then setFlags (if 0 < (getRing s r).healed then 0x90 else 0x10) g else g
        let s3 := txCount q.2 (modRing r (fun y => { y with fwd := withFcs (frameBody h) (!fcs) }) wk)
        if frameFlag f 5 then s3 else nodeDecide r ts f fcs fcs false p.takes s3

/-- A node's cyclic frame has not arrived 2 µs after its expected arrival (R356). -/
def nodeMissing (r : Nat) (s : State) : State :=
  let x := getRing s r
  match x.time, x.arrived with
  | some t, some a =>
    if ringRole s r = 2 ∧ a + t.clen + 8000 ≤ s.now then
      decided r false (statusWord false true false false false false x.looped x.stopped 0xFF x.cycle)
        (bump (cRing r 0x15) 1 32 (modRing r (fun y => { y with cycle := y.cycle + 1, arrived := some (a + t.clen), frozen := none }) s))
    else s
  | _, _ => s

/-- A frame arrives in the reverse direction: a node passes it through, the master relays it from its out-port to its in-port; CORR
alone changes (R361, R383). -/
def reversePass (r resid : Nat) (f : List Byte) (s : State) : State :=
  if ringRole s r = 0 then s
  else if ramnas s r f = false then bump (cPort (outPort r) 9) 1 32 s
  else
    let g := addCorr (corrDelay s (outPort r) + resid) f
    let fcs := fcsGood f
    let s1 := bump (cPort (outPort r) 6) 1 32 s
    let s2 := if fcs then s1 else bump (cPort (outPort r) 8) 1 32 s1
    txCount (inPort r) (modRing r (fun y => { y with fwd := withFcs (frameBody g) (!fcs) }) s2)

/-! ### Acyclic frames and scans (R373, R381, R382) -/

/-- Start of the PTP window before a launch (R364). -/
def ptpStart (launch : Nat) : Nat := launch - 16000

/-- Telegrams of an acyclic frame that fit in size and in time (R373, R381). -/
def acycCount (s : State) (r : Nat) : Nat :=
  let n := valGet s (cRing r 0x0C) + 10
  let limit := ptpStart (nextLaunch s r)
  let ok (k : Nat) : Bool := decide (s.now + returnTime s r (max 64 (26 + k * n)) (getRing s r).looped ≤ limit)
  ((List.range (1492 / n + 1)).filter fun k => k != 0 && ok k).foldl max 0

/-- Addresses of the nodes found by the scan, in hop order, from the one after the last polled (R373). -/
def pollOrder (s : State) (r : Nat) : List Nat :=
  let all := (List.range (ringHops s r)).map fun i => valGet s (cTopo r (i + 1)) % 256
  let k := (all.findIdx fun a => a == (getRing s r).poll) + 1
  let l := all.drop k ++ all.take k
  (l.filter fun a => (oldestSeg (getRing s r) a).isSome) ++ l.filter fun a => (oldestSeg (getRing s r) a).isNone

/-- One ACYC telegram of an acyclic frame.
[DESIGN CHOICE, log row 36] -/
def acycTel (r : Nat) (a : List Byte × State) (peer : Nat) : List Byte × State :=
  let q := sendSeg r peer a.2
  (a.1 ++ telBytes peer 0x10 0 q.1 q.2.1, modRing r (fun x => { x with poll := peer }) q.2.2)

/-- The PROBE frame of a scan (R382). -/
def probeFrame (s : State) (r : Nat) : List Byte :=
  withFcs (ringFrame s r 32 1 ((getRing s r).cycle - 1) (telBytes 0xFF 0x30 0 0 (List.replicate 64 0#8))) false

/-- The frame window is open: the cyclic frame has been decided, and a frame of `n` bytes returns before the PTP window. -/
def windowFits (s : State) (r n : Nat) : Bool :=
  !((getRing s r).launched.any fun l => l.cycle == ((getRing s r).cycle + 65535) % 65536) && ringCycle s r != 0
    && decide (s.now + returnTime s r n (getRing s r).looped ≤ ptpStart (nextLaunch s r))

/-- The master sends an acyclic frame, or the PROBE frame of a scan that waits for it. -/
def acycSend (r : Nat) (s : State) : State :=
  let x := getRing s r
  if ringRole s r ≠ 1 ∨ x.st = 0 ∨ windowFits s r 64 = false then s
  else if x.scan ∧ x.probeOut = false then
    let f := probeFrame s r
    if windowFits s r f.length then
      txCount (outPort r) (modRing r (fun y => { y with probeOut := true, fwd := f }) s)
    else s
  else
    let peers := (pollOrder s r).take (acycCount s r)
    if peers.isEmpty then s
    else
      let q := peers.foldl (acycTel r) ([], s)
      let f := withFcs (ringFrame q.2 r 32 peers.length (x.cycle - 1) q.1) false
      txCount (if linkUp s (outPort r) then outPort r else inPort r) (modRing r (fun y => { y with fwd := f }) q.2)

/-- A scan starts. -/
def startScan (r : Nat) (s : State) : State := modRing r (fun x => { x with scan := true, probeOut := false }) s

/-- ring.cmd SCAN: refused in LOOP, and where the ring is no running master (R382, R386). -/
def scanCmd (r : Nat) (s : State) : Nat × State :=
  let x := getRing s r
  if ringRole s r ≠ 1 ∨ x.st = 0 ∨ x.looped = true then (8, s) else (0, startScan r s)

/-- A list names an address twice. -/
def hasDup : List Nat → Bool
  | [] => false
  | a :: t => t.contains a || hasDup t

/-- The LOOP missing limit of the cyclic frame lies after the start of the PTP window (R381). -/
def overBudget (s : State) (r : Nat) : Bool :=
  decide (ringCycle s r < returnTime s r (max 64 (26 + telsLength (telsMaster s r))) true + 8000 + 16000)

/-- Event 0x62 with its lapse flag for one finding of a scan.
[DESIGN CHOICE, log row 36] -/
def scanEvent (r why : Nat) (hit : Bool) (s : State) : State := if hit then logEvent 0x62 true r (ringHops s r) why s else s

/-- The PROBE frame has returned (R382): ring.hops, ring.topo, the neighbours, and the findings. -/
def probeReturn (r ts : Nat) (f : List Byte) (s : State) : State :=
  let x := getRing s r
  if ringRole s r ≠ 1 ∨ x.scan = false ∨ x.probeOut = false ∨ ramnas s r f = false then s
  else
    let s0 := rxCount r (returnPort s r) ts s
    if fcsGood f = false then bump (cPort (returnPort s r) 8) 1 32 s0
    else match (telsOf f).find? fun t => t.svc == 0x30 with
      | none => s0
      | some t =>
        if frameValid s r f = false ∨ frameFlag f 5 = false then s0
        else
          let h := min 64 (frameHops f)
          let addrs := (telData f t).take h |>.map fun b => b.toNat
          let s1 := (List.range 64).foldl (fun a i =>
            valPut (cTopo r (i + 1)) (addrs.getD i 0 + (if i < h then valGet s (cTopo r (i + 1)) / 65536 * 65536 else 0)) a) s0
          let s2 := valPut (cPort (outPort r) 0x0B) (addrs.headD 0xFF) (valPut (cPort (inPort r) 0x0B) (addrs.getLastD 0xFF)
            (valPut (cRing r 0x18) h s1))
          let n := valGet s (cRing r 6)
          let a := n != 0 && n != h
          let b := hasDup addrs
          let c := overBudget s2 r
          let s3 := scanEvent r 3 c (scanEvent r 2 b (scanEvent r 1 a s2))
          let bad := a || b || c
          let s4 := if bad = false ∧ x.scanBad = true then logEvent 0x62 false r h 0 s3 else s3
          modRing r (fun y => { y with scan := false, probeOut := false, scanBad := bad }) s4

/-! ### Links, loops and path delays (R37, R351, R352, R383 to R385) -/

/-- A port's link goes down: a node loops the ring back at it (R383). -/
def linkDown (q : Nat) (s : State) : State :=
  if valGet s (cPort q 1) = 0 then s
  else
    let r := portRing q
    let s1 := valPut (cPort q 0x0F) 0xFFFF (valPut (cPort q 0x0B) 0xFF (valPut (cPort q 0x0A) 0xFFFFFFFF
      (bump (cPort q 5) 1 32 (valPut (cPort q 1) 0 s))))
    let s2 := if ringRole s r = 2 then
        nodeLoop r true (modRing r (fun x => { x with healed := 0 }) (modPort q (fun p => { p with loop := true }) s1))
      else s1
    logEvent 0x63 true q 0 0 s2

/-- The ring runs at the speed of the first of its two links to come up (R352). -/
def ringSpeed (s : State) (r : Nat) : Nat :=
  let a := valGet s (cPort (inPort r) 1)
  let b := valGet s (cPort (outPort r) 1)
  if a = 1 ∨ b = 1 then 1 else if a = 2 ∨ b = 2 then 2 else 0

/-- A port's link comes up at a speed, 1 or 2, that port.mode permits; the other speed of its ring is excluded and reads 3.
[DESIGN CHOICE, log row 37] -/
def linkUpAt (q speed : Nat) (s : State) : State :=
  let mode := valGet s (cPort q 2)
  if valGet s (cPort q 1) ≠ 0 ∨ (speed ≠ 1 ∧ speed ≠ 2) ∨ (mode = 1 ∧ speed = 1) ∨ (mode = 2 ∧ speed = 2) then s
  else
    let v := ringSpeed s (portRing q)
    let s1 := bump (cPort q 5) 1 32 (modPort q (fun p => { p with upAt := s.up }) s)
    if v ≠ 0 ∧ v ≠ speed then valPut (cPort q 1) 3 s1
    else logEvent 0x63 false q speed 0 (valPut (cPort q 1) speed s1)

/-- A looping node's broken link has been up for 100 ms (R385). -/
def linkHealed (q : Nat) (s : State) : State :=
  let p := getPort s q
  let r := portRing q
  if ringRole s r = 2 ∧ p.loop = true ∧ linkUp s q = true ∧ p.upAt + 400000000 ≤ s.up then modRing r (fun x => { x with healed := 1 }) s
  else s

/-- The loop closes at the cycle start after CLOSE: the master returns to RUN and scans, a looping node whose link is up leaves
loopback (R385). -/
def ringClose (r : Nat) (s : State) : State :=
  let x := getRing s r
  if x.closeSent = false ∨ cycleStart s r s.now = false then s
  else if ringRole s r = 1 then
    if x.looped = false then s
    else
      let pos := valGet s (cRing r 0x19)
      loseAlign r (startScan r (logEvent 0x61 false r pos 0 (valPut (cRing r 0x19) 0xFF
        (modRing r (fun y => { y with looped := false, closing := false, closeSent := false, healed := 0, measured := false }) s))))
  else
    let open_ (q : Nat) (a : State) : State := if (getPort a q).loop ∧ linkUp a q = true then modPort q (fun p => { p with loop := false }) a else a
    let s1 := open_ (inPort r) (open_ (outPort r) s)
    (fun a => if nodeLoops s r && !nodeLoops a r then nodeLoop r false a else a) (modRing r (fun y => { y with closeSent := false, healed := 0 }) s1)

/-- The first frame of the master's own at its out-port, or a launch with a link of its own down (R384). -/
def masterLoop (r : Nat) (f : List Byte) (s : State) : State :=
  if ringRole s r ≠ 1 ∨ (getRing s r).st = 0 then s
  else if linkUp s (outPort r) = false ∨ linkUp s (inPort r) = false then ownLinkLoop r s
  else if ramnas s r f ∧ fcsGood f = true then enterLoop r (frameHops f) s
  else s

/-- Delay of a link in quarter-nanoseconds as a cable estimate in m: 500 ns for 100 m (R380).
[DESIGN CHOICE, log row 36] -/
def cableOf (d : Nat) : Nat := min 0xFFFE (d / 20)

/-- A port's link delay has been measured. -/
def putDelay (q d : Nat) (s : State) : State := valPut (cPort q 0x0F) (cableOf d) (valPut (cPort q 0x0A) d s)

/-- The path delays of the present topology are measured: `ds` from the out-port's link on, the in-port's last (R37). -/
def pathMeasured (r : Nat) (ds : List Nat) (s : State) : State :=
  if ringRole s r = 0 ∨ (getRing s r).st = 0 then s
  else
    let h := ringHops s r
    let s1 := (List.range h).foldl (fun a i => valPut (cTopo r (i + 1)) (valGet a (cTopo r (i + 1)) % 65536 + 65536 * (ds.getD i 0 % 65536)) a) s
    let s2 := putDelay (inPort r) (ds.getLastD 0) (putDelay (outPort r) (ds.headD 0) s1)
    ringFollow r (modRing r (fun x => { x with measured := true }) s2)

/-! ### Roles (R354) -/

/-- The ring starts in a role: cycles count from here, and a master's entry into RUN starts a scan. -/
def ringStart (r role : Nat) (s : State) : State :=
  let x := getRing s r
  let y : RingSt := { RingSt.off with
    imgIn := x.imgIn, imgOut := x.imgOut, rx := x.rx, stage := x.stage, txq := x.txq.map (fun g => { g with sentAt := 0 })
    xidOut := x.xidOut, xidIn := x.xidIn, staged := x.staged, stopped := x.stopped, st := 2, scan := role == 1 }
  let s1 := valPut (cRing r 0x19) 0xFF (valPut (cRing r 0x18) 0 (setRing r y s))
  -- reports wait in cycles of their ring: what is left of the wait stays (R377)
  phaseReduce { s1 with ledger := { s1.ledger with items := s1.ledger.items.map fun i =>
    if (streamRec s i.stream).src = r + 1 then { i with sent := i.sent.map fun d => d - x.cycle } else i } }

/-- The ring stops. -/
def ringStop (r : Nat) (s : State) : State :=
  let s1 : State := if valGet s (callNo 0x1110 1) = r then { s with time := { s.time with period := false } } else s
  loseAlign r (modRing r (fun x => { x with
    st := 0, launched := [], scan := false, probeOut := false, looped := false, time := none, arrived := none, fails := 0, healed := 0
    closing := false, closeSent := false, measured := false, frozen := none }) s1)

/-- The abort code of a write of ring.role (R354): RANGE where the descriptor checks fail, STATE while the role is not 0. -/
def roleCode (s : State) (r v : Nat) : Nat :=
  if 2 < v ∨ (v = 1 ∧ masterFits s r = false) ∨ (v = 2 ∧ nodeFits s r = false) then 7
  else if v ≠ 0 ∧ valGet s (cRing r 1) ≠ 0 then 8 else 0

/-- A role takes effect. A ring that gets one while a safe stop holds is in it (R387).
[DEDUCED, log row 59] -/
def roleApply (r v : Nat) (s : State) : State :=
  if v = 0 then ringStop r s
  else
    let s1 := ringStart r v s
    if s.pins.stop then stopRing r s1 else s1

/-- A journaled role is applied when the catalogue is ready; where its checks fail it becomes 0 (R354). -/
def roleAtStart (s : State) (r : Nat) : State :=
  let v := valGet s (cRing r 1)
  if v = 0 then s
  else if (v = 1 ∧ masterFits s r = false) ∨ (v = 2 ∧ nodeFits s r = false) then
    logEvent 0x62 true r (ringHops s r) 4 (valJournal (cRing r 1) 0 s)
  else roleApply r v s

/-! ### Safe stop (R387) -/

/-- ring.cmd RELEASE: the stop ends while STOP_N is high (R387). The abort code is STATE where STOP_N is low, where no stop holds, and
after a tamper, whose stop ends only at a device reset (R441).
[DESIGN CHOICE, log row 36] -/
def stopRelease (s : State) : Nat × State :=
  if s.pins.stopN = false ∨ s.pins.stop = false ∨ s.boot.tamperStop = true then (8, s)
  else
    let rings := (getRing s 0).stopped || (getRing s 1).stopped
    let s1 := modRing 1 (fun x => { x with stopped := false }) (modRing 0 (fun x => { x with stopped := false }) s)
    let s2 : State := { s1 with pins := { s1.pins with stop := false } }
    (0, if rings then logEvent 0x65 false 0 0 0 s2 else s2)

/-! ### 802.1AS (R363, R364) -/

/-- A port is a master port of its time-aware system (R363). -/
def masterPort (s : State) (q : Nat) : Bool := ringRole s (portRing q) == 1 || (ringRole s (portRing q) == 2 && q % 2 == 1)

/-- Messages of 90 bytes that a port can still send in the PTP window, 4.000 µs to 0.500 µs before a cyclic launch: none outside it
(R364). -/
def ptpFit (s : State) (r : Nat) : Nat :=
  let c := ringCycle s r
  if c = 0 then 0
  else
    let l := match ringRole s r, (getRing s r).arrived with
      | 2, some a => a + (s.now - a + c) / c * c
      | _, _ => nextLaunch s r
    if ptpStart l ≤ s.now then (l - 2000 - s.now) / (98 * byteTime s r) else 0

/-- The messages that wait leave port q, as many as end inside the window; the others wait for the next window (R364). -/
def ptpSend (q : Nat) (s : State) : State :=
  let n := ptpFit s (portRing q)
  let out := (getPort s q).owed.take n
  if out.isEmpty then s
  else bump (cPort q 7) out.length 32 (modPort q (fun p => { p with sent := out, owed := p.owed.drop n }) s)

/-- Messages join those that wait at port q. -/
def ptpOwe (q : Nat) (l : List (Nat × Nat)) (s : State) : State := modPort q (fun p => { p with owed := p.owed ++ l }) s

/-- A Sync message and its Follow_Up leave a master port inside the PTP window. -/
def syncSend (q : Nat) (s : State) : State :=
  let n := (getPort s q).syncSeq
  if masterPort s q = false ∨ linkUp s q = false ∨ ptpFit s (portRing q) = 0 then s
  else ptpSend q (ptpOwe q [(0, n), (8, n)] (modPort q (fun p => { p with syncSeq := (n + 1) % 65536 }) s))

/-- A Pdelay exchange starts inside the PTP window. -/
def pdelaySend (q : Nat) (s : State) : State :=
  let n := (getPort s q).pdSeq
  if ringRole s (portRing q) = 0 ∨ linkUp s q = false ∨ ptpFit s (portRing q) = 0 then s
  else ptpSend q (ptpOwe q [(2, n)] (modPort q (fun p => { p with
    pdSeq := (n + 1) % 65536, pdT1 := some s.now, pdT2 := none, pdT4 := none }) s))

/-- The mean link delay from t1 to t4 (IEEE 802.1AS). -/
def meanDelay (t1 t2 t3 t4 : Nat) : Nat := ((t4 - t1) - (t3 - t2)) / 2

/-- An 802.1AS message of type `k` and sequence number `n` reaches port q at timestamp point `ts`; `v` is the time it carries, or the
UTC offset of an Announce (R363). -/
def ptpReceive (q k n ts v : Nat) (s0 : State) : State :=
  let s := bump (cPort q 6) 1 32 s0
  let p := getPort s q
  match k with
  -- Sync
  | 0x0 => if masterPort s q then s else modPort q (fun p => { p with syncRx := some (ts, n) }) s
  -- Pdelay_Req: answered by Pdelay_Resp and Pdelay_Resp_Follow_Up
  | 0x2 => ptpSend q (ptpOwe q [(3, n), (0xA, n)] s)
  -- Pdelay_Resp: carries t2
  | 0x3 => if p.pdT1.isSome ∧ (n + 1) % 65536 = p.pdSeq then modPort q (fun p => { p with pdT4 := some ts, pdT2 := some v }) s else s
  -- Follow_Up
  | 0x8 => s
  -- Pdelay_Resp_Follow_Up: carries t3
  | 0xA =>
    match p.pdT1, p.pdT2, p.pdT4 with
    | some t1, some t2, some t4 =>
      if (n + 1) % 65536 = p.pdSeq then
        putDelay q (meanDelay t1 t2 v t4) (modPort q (fun p => { p with pdT1 := none, pdT2 := none, pdT4 := none }) s)
      else s
    | _, _, _ => s
  -- Announce
  | 0xB =>
    let s1 := modPort q (fun p => { p with announced := true }) s
    if valGet s (callNo 0x1100 3) = portRing q + 1 ∧ q % 2 = 0 ∧ ringRole s (portRing q) = 2 then
      valPut (callNo 0x1100 9) (v % 65536) s1
    else s1
  -- any other message is not supported
  | _ => bump (cPort q 9) 1 32 s

end Sys2Proof.Machine
end

