-- ==== Sys2Proof/Machine/Views.lean ====
section
/-! DEFINITION. Machine/Views.lean: what an entry reads as when a unit computes it, and the output pins that follow the state. -/

namespace Sys2Proof.Machine

/-- The life-cycle state (Table 19-6B, R436): FIELD and SERVICE hold only while the fuses read PROVISIONED. -/
def lifecycle (s : State) : Nat :=
  let v := valGet s (callNo 0x1000 7)
  if s.boot.fuseLc = 1 then (if v = 2 ∨ v = 3 then v else 1) else s.boot.fuseLc

/-- dbg.open. -/
def cDbgOpen : Nat := callNo 0x1510 0x0C

/-- pair.status (Table 11-12); SUBST also while a pair that cannot recover has its outputs held (R228, R229). -/
def pairStatus (p : Pair) : Nat :=
  bitAt p.cur 0 + bitAt p.valid 1 + bitAt (p.subst || p.held) 2 + bitAt (p.st == .unchecked) 3 + bitAt (p.st == .split) 4
    + 256 * (p.taker.getD 0) + bitAt p.taker.isSome 15 + 65536 * min 1408 p.logN

/-- tile.engines.busy (Table 15-10). -/
def enginesBusy (s : State) (t : Nat) : Nat :=
  joinFields 1 8 fun e =>
    let st := shownState s (8 * t + e)
    if st = .halted ∨ st = .retained ∨ st = .off ∨ st = .fused then 0 else 1

/-- tile.engines.fused. -/
def enginesFused (s : State) (t : Nat) : Nat := joinFields 1 8 fun e => if (getEng s (8 * t + e)).st = .fused then 1 else 0

/-- pin.levels (Table 17-9), while the device is not held: RESET_N high, STOP_N after its filter, the other pins as the outside drives
them now. -/
def pinLevels (s : State) : Nat := 1 + bitAt s.pins.stopN 1 + 4 * (Config.sensor (callNo 0x1510 1) s.drawn % 16)

/-- FOLIOID of the folio that an owner holds, 0 = none: pair m, or 128 + n for engine n of a split pair. -/
def ownedFolio (s : State) (o : Nat) : Nat := ((s.svc.folios.find? fun f => f.owner == o).map Folio.id).getD 0

/-- folio.map (Table 20-11). -/
def folioMap (s : State) : List Byte :=
  ((List.range 128).map fun m =>
    leBytes 4 (if ownedFolio s m = 0 then ownedFolio s (128 + 2 * m) else ownedFolio s m) ++ leBytes 4 (ownedFolio s (128 + 2 * m + 1))).flatten

/-- A sensor's reading: whatever the outside gives at this read (R347, R348).
[DESIGN CHOICE, log row 4] -/
def sense (call w : Nat) (s : State) : Nat × State := (Config.sensor call s.drawn % 2 ^ w, { s with drawn := s.drawn + 1 })

/-- A reading of the module input power, which power.input.peak.mw follows. -/
def senseInput (s : State) : Nat × State :=
  let r := sense (callNo 0x1200 2) 32 s
  (r.1, valPut (callNo 0x1200 3) (max r.1 (valGet s (callNo 0x1200 3))) r.2)

/-- Supply entries that are measured: width in bits, 0 = not measured. -/
def supplySense (sub : Nat) : Nat := if sub = 1 ∨ sub = 4 ∨ (6 ≤ sub ∧ sub ≤ 9) then 16 else 0

/-- An engine's computed entries (Table 03-10). -/
def viewEngine (s : State) (n sub : Nat) : Option Nat :=
  let e := getEng s n
  match sub with
  | 1 => some (engCode (shownState s n))
  | 6 => some (e.pos.lastpc % 65536)
  | 7 => some (e.ctr.steps % 2 ^ 64)
  | 8 => some (e.ctr.stallLsu % 2 ^ 32)
  | 9 => some (e.ctr.stallHeavy % 2 ^ 32)
  | 0x0A => some e.cause.toNat
  | 0x0C => some (e.ctr.conflicts % 2 ^ 32)
  | _ => none

/-- A tile's computed entries (Tables 09-7, 12-8, 15-10). -/
def viewTile (s : State) (t sub : Nat) : Option Nat :=
  match sub with
  | 0x01 => some (tileDom s t)
  | 0x0B => some (enginesBusy s t)
  | 0x0C => some (enginesFused s t)
  | 0x0F => some (min 128 (getTile s t).window.sum)
  | 0x27 => some (bitAt (getTile s t).lock 0)
  | 0x42 => some (joinFields 2 8 fun b => kvGet 0 s.mem.bank (8 * t + b))
  | 0x47 => some (repairColumns s t)
  | _ => none

/-- A ring's computed entries (R388). -/
def viewRing (s : State) (r sub : Nat) : Option Nat :=
  let x := getRing s r
  match sub with
  | 0x11 => some (ringState x)
  | 0x13 => some x.cycle
  | 0x1A => some (x.txq.length % 65536)
  | 0x1C => some x.rx.length
  | 0x1F => some (bitAt x.stopped 0)
  | _ => none

/-- A job slot's entries (Table 20-11). -/
def viewJob (s : State) (j sub : Nat) : Option Nat :=
  let x := getJob s j
  match sub with
  | 1 => some x.st
  | 2 => some x.code
  | 3 => some x.progress
  | 4 => some x.position
  | 5 => some x.subject
  | _ => none

/-- A transfer channel's computed entries (Table 13-5). -/
def viewXf (s : State) (c sub : Nat) : Option Nat :=
  match sub with
  | 1 => some (getChan s c).src
  | 2 => some (getChan s c).dst
  | 4 => some (xfCtlRead s c)
  | 5 => some (xfStatus s c)
  | 6 => some (getChan s c).rem
  | _ => none

/-- An event record's entries (Table 15-11). -/
def viewEvent (s : State) (r sub : Nat) : Option Nat :=
  let x := kvGet ⟨0, 0, 0⟩ s.log.recs r
  match sub with
  | 1 => some x.time
  | 2 => some x.head
  | 3 => some x.detail
  | _ => none

/-- The single entries that a unit computes. -/
def viewOne (s : State) (call : Nat) : Option Nat :=
  if call = callNo 0x1000 4 then some dramSize
  else if call = callNo 0x1000 7 then some (lifecycle s)
  else if call = callNo 0x1000 0x0A then some (s.up / 4000 % 2 ^ 64)
  else if call = callNo 0x1010 1 then some (promiseWord s)
  else if call = callNo 0x1020 1 then some s.cat.folio.length
  else if call = callNo 0x1030 1 then some s.boot.stage
  else if call = callNo 0x1030 9 then some s.boot.rollback
  else if call = callNo 0x1100 1 then some s.now
  else if call = callNo 0x1100 2 then some (timeStatus s)
  else if call = callNo 0x1100 5 then some (s.time.rate % 2 ^ 32).toNat
  else if call = callNo 0x1110 5 then some (periodLen s)
  else if call = callNo 0x1220 1 then some (joinFields 2 10 fun d => kvGet 0 s.power.dom d)
  else if call = callNo 0x1300 1 then some s.arch.st
  else if call = callNo 0x1300 2 then some (archiveFree s)
  else if call = callNo 0x1300 9 then some (wearMax s)
  else if call = callNo 0x1400 2 then some (inflightAll s)
  else if call = callNo 0x1500 7 then some s.host.queue.length
  else if call = callNo 0x1510 1 then some (pinLevels s)
  else if call = callNo 0x1900 5 then some (if marksOccur s then 400 * refreshCount (periodLen s) else 0)
  else if call = callNo 0x1920 3 then some (outstanding s % 65536)
  else if call = callNo 0x7000 1 then some s.log.count
  else if call = callNo 0x7000 2 then some s.log.newest
  else none

/-- ring.tel as the ring's role reads it: the reserved bits of Table 16-5 or 16-6 read 0 (R14). A descriptor is written while the role
is 0, before either layout is chosen, and keeps what was written.
[DEDUCED, log row 58] -/
def viewTel (s : State) (r i : Nat) : Nat :=
  let v := valGet s (cTel r i 1)
  match valGet s (cRing r 1) with
  | 1 => v - bits v 27 5 * 2 ^ 27
  | 2 => v - bits v 35 5 * 2 ^ 35
  | _ => v

/-- A computed entry of a numbered unit. -/
def viewUnit (s : State) (idx sub : Nat) : Option Nat :=
  if 0x2100 ≤ idx ∧ idx < 0x2200 then viewEngine s (idx - 0x2100) sub
  else if 0x2200 ≤ idx ∧ idx < 0x2280 then
    (match sub with | 1 => some (pairCode s (idx - 0x2200)) | 7 => some (pairStatus (getPair s (idx - 0x2200))) | _ => none)
  else if 0x2000 ≤ idx ∧ idx < 0x2020 then viewTile s (idx - 0x2000) sub
  else if 0x1800 ≤ idx ∧ idx < 0x1840 then viewXf s (idx - 0x1800) sub
  else if 0x1060 ≤ idx ∧ idx < 0x1070 then viewJob s (idx - 0x1060) sub
  else if idx = 0x1601 ∨ idx = 0x1701 then viewRing s ((idx - 0x1601) / 0x100) sub
  else if 0x1640 ≤ idx ∧ idx < 0x1680 ∧ sub = 1 then some (viewTel s 0 (idx - 0x1640))
  else if 0x1740 ≤ idx ∧ idx < 0x1780 ∧ sub = 1 then some (viewTel s 1 (idx - 0x1740))
  else if 0x1600 ≤ idx ∧ idx < 0x1800 ∧ (idx - 0x1600) % 0x80 = 0 ∧ sub = 0x0D then
    some (bitAt (getPort s ((idx - 0x1600) / 0x80)).loop 0)
  else if 0x1210 ≤ idx ∧ idx < 0x1218 ∧ sub = 1 then some (railMv s (idx - 0x1210))
  else if 0x1520 ≤ idx ∧ idx < 0x1530 ∧ sub = 4 then some (bitAt (pinLevel s (idx - 0x1520)) 0)
  else if 0x1520 ≤ idx ∧ idx < 0x1530 ∧ sub = 5 then some (getPin s (idx - 0x1520)).pend.length
  else if 0x7001 ≤ idx ∧ idx < 0x7041 then viewEvent s (idx - 0x7001) sub
  else none

/-- The value of a short entry as it is read now. -/
def shortRead (call : Nat) (s : State) : Nat × State :=
  let idx := call / 256
  let sub := call % 256
  if call = callNo 0x1200 2 then senseInput s
  else if call = callNo 0x1200 3 then (let r := senseInput s; (valGet r.2 call, r.2))
  else if idx = 0x1200 ∧ supplySense sub ≠ 0 then sense call (supplySense sub) s
  else if 0x2000 ≤ idx ∧ idx < 0x2020 ∧ sub = 9 then sense call 16 s
  else if idx = 0x1510 ∧ sub = 1 ∨ (0x1520 ≤ idx ∧ idx < 0x1530 ∧ sub = 4) then
    (((viewOne s call).getD ((viewUnit s idx sub).getD 0)), { s with drawn := s.drawn + 1 })
  else match viewOne s call with
    | some v => (v, s)
    | none =>
      match viewUnit s idx sub with
      | some v => (v, s)
      | none => (valGet s call, s)

/-- The value of a long entry as it is read now. -/
def longRead (s : State) (call : Nat) : List Byte :=
  if call = callNo 0x1000 1 then textBytes "EN256"
  else if call = callNo 0x1000 2 then textBytes (if Config.m8i then "M8I" else "M4I")
  else if call = callNo 0x1000 3 then textBytes "B1"
  else if call = callNo 0x1000 5 then bytesAt s.boot.serial 0 16
  else if call = callNo 0x1000 6 then (if s.boot.running then (Config.firmwareText (valGet s (callNo 0x1030 3))).take 16 else [])
  else if call = callNo 0x1030 6 then bytesAt s.boot.nonce 0 16
  else if call = callNo 0x1050 9 then folioMap s
  else if call = callNo 0x1400 8 then stoppedBytes s
  else if 0x1600 ≤ call / 256 ∧ call / 256 < 0x1800 ∧ (call / 256 - 0x1600) % 0x80 = 0 ∧ call % 256 = 4 then
    bytesAt (Config.mac ((call / 256 - 0x1600) / 0x80)) 0 6
  else if call = callNo 0x1050 0x0A then bytesAt (longGet s call) 0 16
  else longGet s call

/-! ### Output pins that follow the state -/

/-- HOST_IRQ_N is driven low (R396); it is released until the catalogue is ready (R470). -/
def hostIrqLow (s : State) : Bool := s.cat.ready && valGet s (callNo 0x1500 5) == 1 && !s.host.queue.isEmpty

/-- LOOP_OUT is driven high: the rails, VIO among them, are in their bands (R470, R471). -/
def loopOutHigh (s : State) : Bool := s.boot.vin && s.boot.steps.testBit 0

/-- LED i is lit (R398); all are released until the catalogue is ready (R470). -/
def ledOn (s : State) (i : Nat) : Bool :=
  s.cat.ready && match bits (valGet s (callNo 0x1510 0x0B)) (4 * i) 4 with
  | 0 => false
  | 1 => true
  | 2 => promiseWord s % 128 == 127
  | 3 => ringState (getRing s 0) == 2
  | 4 => ringState (getRing s 1) == 2
  | _ => valGet s cDbgOpen == 1

/-- SYNC_OUT is high (R398). -/
def syncOutHigh (s : State) : Bool := decide (s.up < s.pins.syncEnd)

end Sys2Proof.Machine
end

