-- ==== Sys2Proof/Machine/Folio.lean ====
section
/-! DEFINITION. Machine/Folio.lean: the folio image, the schedule declaration, relocation and the folio entry table, and the checks
that LOAD makes (R159 to R167, R342 to R344, R447, R449). -/

namespace Sys2Proof.Machine

/-! ### Image header (Table 20-4) -/

/-- The fields of a folio image header. -/
structure FHdr where
  id : Nat
  length : Nat
  plen : Nat
  entry : Nat
  decl : Nat
  prog : Nat
  nsect : Nat
  sect : Nat
  reloc : Nat
  nreloc : Nat
  nbind : Nat
  bind : Nat
  ents : Nat
  nent : Nat

/-- The header of an image. -/
def fhdr (b : List Byte) : FHdr :=
  { id := fieldAt b 4 4, length := fieldAt b 12 4, plen := fieldAt b 16 2 % 8192, entry := fieldAt b 18 2 % 8192, decl := fieldAt b 20 4,
    prog := fieldAt b 24 4, nsect := fieldAt b 28 1, sect := fieldAt b 32 4, reloc := fieldAt b 36 4, nreloc := fieldAt b 40 2,
    nbind := fieldAt b 42 2, bind := fieldAt b 44 4, ents := fieldAt b 48 4, nent := fieldAt b 52 2 }

/-- A section record (Table 20-5). -/
structure FSect where
  num : Nat
  place : Nat
  rsv : Nat
  off : Nat
  size : Nat
  init : Nat

/-- Section record `i`. -/
def fsect (b : List Byte) (h : FHdr) (i : Nat) : FSect :=
  let o := h.sect + 16 * i
  { num := fieldAt b o 1 % 16, place := fieldAt b o 1 / 16, rsv := fieldAt b (o + 1) 3, off := fieldAt b (o + 4) 4,
    size := fieldAt b (o + 8) 4, init := fieldAt b (o + 12) 4 }

/-- The section records of an image. -/
def fsects (b : List Byte) (h : FHdr) : List FSect := (List.range h.nsect).map (fsect b h)

/-- Number of quiet windows and of segments of the declaration.
[DESIGN CHOICE, log row 46] -/
def declQuiet (b : List Byte) (h : FHdr) : Nat := fieldAt b (h.decl + 21) 1 % 16
/-- Number of segments. -/
def declSegs (b : List Byte) (h : FHdr) : Nat := fieldAt b (h.decl + 21) 1 / 16

/-- The parts an image names: offset and size. -/
def fparts (b : List Byte) (h : FHdr) : List (Nat × Nat) :=
  [(h.decl, 32 + 8 * declQuiet b h + 16 * declSegs b h), (h.prog, 7 * h.plen), (h.sect, 16 * h.nsect), (h.reloc, 16 * h.nreloc),
   (h.bind, 8 * h.nbind), (h.ents, 48 * h.nent)] ++ ((fsects b h).filter fun x => x.init != 0).map fun x => (x.init, x.size)

/-- Two parts overlap. -/
def partsMeet : List (Nat × Nat) → Bool
  | [] => false
  | p :: t => t.any (fun q => decide (0 < p.2) && decide (0 < q.2) && decide (p.1 < q.1 + q.2) && decide (q.1 < p.1 + p.2)) || partsMeet t

/-- A section record breaks Table 20-5.
[DESIGN CHOICE, log row 46] -/
def fsectBad (l : List FSect) (i : Nat) : Bool :=
  match l[i]? with
  | none => true
  | some x =>
    x.num == 0 || decide (1 < x.place) || x.rsv != 0 || x.size % 8 != 0 || x.size == 0
    || (x.place == 0 && (x.off % 8 != 0 || decide (0x70000 < x.off + x.size))) || (x.place == 1 && x.off != 0)
    || (l.take i).any fun y => y.num == x.num

/-- The header fails (code 0x10), with the failing section record.
[DESIGN CHOICE, log row 46] -/
def fhdrBad (b : List Byte) : Option Nat :=
  let h := fhdr b
  let ps := fparts b h
  if fieldAt b 0 4 ≠ 0x4F4C4F46 ∨ h.id = 0 ∨ h.length < 256 ∨ 1048576 < h.length ∨ h.plen = 0 ∨ h.plen ≤ h.entry ∨ 15 < h.nsect
      ∨ fieldAt b 16 2 / 8192 ≠ 0 ∨ fieldAt b 18 2 / 8192 ≠ 0 ∨ fieldAt b 29 3 ≠ 0 ∨ fieldAt b 54 2 ≠ 0 ∨ fieldAt b 88 40 ≠ 0
      ∨ fieldAt b 192 64 ≠ 0 then some 0
  else match (List.range h.nsect).find? fun i => fsectBad (fsects b h) i with
    | some i => some i
    | none =>
      if ps.any (fun p => p.1 % 16 != 0 || decide (h.length < p.1 + p.2)) ∨ partsMeet ((0, 256) :: ps) = true then some 0 else none

/-! ### Signature and digest (R432, R449) -/

/-- The SHA-256 of a key equals the fused hash of its slot, and the slot is fused. -/
def keyFused (s : State) (k : Nat) (key : List Byte) : Bool :=
  kvGet [] s.boot.keyHash k != [] && kvGet [] s.boot.keyHash k == sha256 key

/-- Key k of lc.keys.
[DESIGN CHOICE, log row 44] -/
def lcKey (s : State) (k : Nat) : List Byte := bytesAt (longGet s (callNo 0x1030 8)) (64 * k) 64

/-- Code 0x12: key 1 or the signature is not valid, outside BLANK. -/
def fsigBad (s : State) (b : List Byte) : Bool :=
  lifecycle s != 0 && !(keyFused s 1 (lcKey s 1) && ecdsaValid (lcKey s 1) (bytesAt b 128 64) (bytesAt b 0 128))

/-- Code 0x11: the digest does not match. -/
def fdigestBad (b : List Byte) : Bool := sha256 (bytesAt b 256 ((fhdr b).length - 256)) != bytesAt b 56 32

/-! ### Subject -/

/-- Owner number of a command's subject: the pair, or 128 + the engine of a split pair. -/
def ownerOf (s : State) (m half : Nat) : Nat := if pairSplit (getPair s m) then 128 + 2 * m + half else m

/-- Pair and tile of an owner. -/
def ownerPair (o : Nat) : Nat := if o < 128 then o else (o - 128) / 2
/-- Tile of an owner. -/
def ownerTile (o : Nat) : Nat := pairTile (ownerPair o)
/-- Engines of an owner. -/
def ownerEngines (o : Nat) : List Nat := if o < 128 then [mainOf o, checkerOf o] else [o - 128]

/-- Owners whose folio a load on `o` replaces. -/
def replaced (o : Nat) : List Nat :=
  if o < 128 then [o, 128 + 2 * o, 129 + 2 * o] else if o % 2 = 0 then [o, ownerPair o] else [o]

/-- The loaded folios but for those that a load on `o` replaces. -/
def othersThan (s : State) (o : Nat) : List Folio := s.svc.folios.filter fun f => !(replaced o).contains f.owner

/-! ### The schedule declaration (Table 08-4) -/

/-- Code 0x01: MAGIC, VERSION or a reserved field of the declaration. -/
def declBad (b : List Byte) (h : FHdr) : Bool :=
  let d := h.decl
  fieldAt b d 4 != 0x53444C46 || fieldAt b (d + 4) 1 != 1 || fieldAt b (d + 6) 1 / 8 != 0 || fieldAt b (d + 22) 10 != 0

/-- PACE. -/
def declPace (b : List Byte) (h : FHdr) : Nat := fieldAt b (h.decl + 5) 1
/-- FETCH. -/
def declFetch (b : List Byte) (h : FHdr) : Nat := fieldAt b (h.decl + 6) 1 % 2
/-- CHECKED. -/
def declChecked (b : List Byte) (h : FHdr) : Bool := (fieldAt b (h.decl + 6) 1).testBit 2
/-- HSHARE. -/
def declShare (b : List Byte) (h : FHdr) : Nat := fieldAt b (h.decl + 7) 1
/-- PERIOD. -/
def declPeriod (b : List Byte) (h : FHdr) : Nat := fieldAt b (h.decl + 8) 4
/-- RESERVE. -/
def declReserve (b : List Byte) (h : FHdr) : Nat := fieldAt b (h.decl + 12) 4
/-- INTERVAL. -/
def declInterval (b : List Byte) (h : FHdr) : Nat := fieldAt b (h.decl + 16) 4
/-- SLICES. -/
def declSlices (b : List Byte) (h : FHdr) : Nat := fieldAt b (h.decl + 20) 1

/-- The quiet windows of a declaration: START and LENGTH in ns. -/
def declWindows (b : List Byte) (h : FHdr) : List (Nat × Nat) :=
  (List.range (declQuiet b h)).map fun i => (fieldAt b (h.decl + 32 + 8 * i) 4, fieldAt b (h.decl + 36 + 8 * i) 4)

/-- The segments of a declaration: RELEASE, DEADLINE, STEPS, WAITNS. -/
def declSegments (b : List Byte) (h : FHdr) : List (Nat × Nat × Nat × Nat) :=
  (List.range (declSegs b h)).map fun i =>
    let o := h.decl + 32 + 8 * declQuiet b h + 16 * i
    (fieldAt b o 4, fieldAt b (o + 4) 4, fieldAt b (o + 8) 4, fieldAt b (o + 12) 4)

/-- R162 for one segment, every term multiplied by PACE so that the arithmetic is exact; `prev` is the DEADLINE before it. -/
def segFits (pace period reserve : Nat) (checked : Bool) (prev : Nat) (g : Nat × Nat × Nat × Nat) : Bool :=
  let steps := if checked then 10 * (g.2.2.1 + reserve + 2) else 10 * g.2.2.1
  let need := pace * (g.1 + g.2.2.2 + (if checked then 200 else 0)) + steps
  decide (need ≤ pace * g.2.1) && decide (4 * g.2.1 ≤ period) && decide (prev ≤ g.1)

/-- R162 for the segments in record order. -/
def segsFit (pace period reserve : Nat) (checked : Bool) : Nat → List (Nat × Nat × Nat × Nat) → Bool
  | _, [] => true
  | prev, g :: t => segFits pace period reserve checked prev g && segsFit pace period reserve checked g.2.1 t

/-- Code 0x07: a quiet window fails R160, or the windows together leave no refresh window its place (R24). -/
def quietBad (s : State) (o : Nat) (b : List Byte) (h : FHdr) : Bool :=
  let p := declPeriod b h
  let own := declWindows b h
  let ws := ((othersThan s o).map fun f => f.quiet).flatten ++ own
  let q := ws.map fun w => (4 * w.1, 4 * (w.1 + w.2))
  let n := 1600 * refreshCount p
  decide (4 < own.length) || own.any (fun w => w.2 == 0 || decide (p < 4 * (w.1 + w.2)))
    || !((0 :: q.map fun w => w.2).any fun x => decide (x < p) && !quietAt q x && quietClear q p x n)

/-- Largest register-slice count on a path from tile t (Table 13-4). -/
def slicesFrom (s : State) (t : Nat) : Nat :=
  let sl (k : Nat) : Nat := valGet s (cTile k 0x51)
  sl t + max (((List.range 32).map sl).foldl max 0) (valGet s (callNo 0x1920 2) % 4)

/-! ### Relocation (R164 to R166) -/

/-- A relocation record (Table 08-8). -/
structure FRel where
  kind : Nat
  slots : Nat
  sect : Nat
  bind : Nat
  where_ : Nat
  addend : Nat

/-- Relocation record `i`. -/
def frel (b : List Byte) (h : FHdr) (i : Nat) : FRel :=
  let o := h.reloc + 16 * i
  { kind := fieldAt b o 1, slots := fieldAt b (o + 1) 1 % 16, sect := fieldAt b (o + 1) 1 / 16, bind := fieldAt b (o + 2) 2,
    where_ := fieldAt b (o + 4) 4, addend := fieldAt b (o + 8) 4 }

/-- The pair on which a bound folio lies, this folio's own for identifier 0 (R164). -/
def boundPair (s : State) (o own num : Nat) : Option Nat :=
  if num = 0 ∨ num = own then some (ownerPair o)
  else (((othersThan s o).filter fun f => f.id == num).map fun f => ownerPair f.home).foldl
    (fun a m => match a with | none => some m | some k => some (min k m)) none

/-- The entry table of an image names a call number. -/
def tableNames (b : List Byte) (h : FHdr) (call : Nat) : Bool :=
  (List.range h.nent).any fun i => fieldAt b (h.ents + 48 * i) 3 == (call % 256) * 65536 + call / 256

/-- The resolved quantity of a record before its ADDEND, none when it is unresolved. `dram` gives the DRAM sections as placed. -/
def resolve (s : State) (o base bias : Nat) (b : List Byte) (h : FHdr) (dram : List SectPlace) (r : FRel) : Option Nat :=
  let e := h.bind + 8 * (r.bind - 1)
  let idx := fieldAt b e 2
  let sub := fieldAt b (e + 2) 1
  let num := fieldAt b (e + 4) 4
  if r.kind = 1 then some base
  else if r.bind = 0 ∨ h.nbind < r.bind then none
  else match r.kind with
    | 2 => (boundPair s o h.id num).map fun m => 0x10000000 + pairTile m * 0x80000
    | 3 => (boundPair s o h.id num).map mainOf
    | 4 => boundPair s o h.id num
    | 5 => (dram.find? fun p => p.dram && p.num == num).map fun p => p.addr / 2 ^ 28
    | 6 => (dram.find? fun p => p.dram && p.num == num).map fun p => 0x20000000 + p.addr % 2 ^ 28
    | 7 =>
      let v := valGet s (callNo (idx + bias) 1)
      if 0x6000 ≤ idx + bias ∧ idx + bias < 0x6800 ∧ sub = 1 ∧ bits v 16 8 ≠ 0 then some (v % 4096) else none
    | 8 =>
      if tableNames b h (callNo idx sub) ∨ s.cat.folio.any (fun x => x.call == callNo idx sub && x.owners.any fun w => !(replaced o).contains w)
        then some (0xF0000000 + idx * 2 ^ 11 + sub * 8) else none
    | _ => none

/-- V of a record. -/
def relValue (q : Nat) (r : FRel) : Nat := (q + r.addend) % 2 ^ 32

/-- Bundle `a` of an image's program. -/
def imgBundle (b : List Byte) (h : FHdr) (a : Nat) : Bundle := BitVec.ofNat 56 (fieldAt b (h.prog + 7 * a) 7)

/-- Mask of a bundle's literal slots. -/
def litMask (x : Bundle) : Nat := joinFields 1 4 fun k => if pClass (parcel x k) = 3 then 1 else 0

/-- V fits `n` literal parcels (R165). -/
def fitsLits (n v : Nat) : Bool :=
  match n with
  | 1 => decide (v < 2048) || decide (2 ^ 32 - 2048 ≤ v)
  | 2 => decide (v < 8388608) || decide (2 ^ 32 - 8388608 ≤ v)
  | 3 => true
  | _ => false

/-- Set bits of a slot mask. -/
def slotCount (m : Nat) : Nat := ((List.range 4).filter fun k => m.testBit k).length

/-- A record fails R165 or R166 by itself. -/
def relBad (b : List Byte) (h : FHdr) (q : Option Nat) (r : FRel) : Bool :=
  match q with
  | none => true
  | some v =>
    if r.sect = 0 then
      decide (h.plen ≤ r.where_) || r.slots != litMask (imgBundle b h r.where_) || !fitsLits (slotCount r.slots) (relValue v r)
    else match (fsects b h).find? fun x => x.num == r.sect with
      | none => true
      | some x => r.where_ % 4 != 0 || decide (x.size < r.where_ + 4)

/-- Two records write the same parcel or the same byte. -/
def relsMeet (a b : FRel) : Bool :=
  a.sect == b.sect && a.where_ == b.where_ && (a.sect != 0 || (a.slots &&& b.slots) != 0)

/-- The first failing record: code 0x09. -/
def relsBad (s : State) (o base bias : Nat) (b : List Byte) (h : FHdr) (dram : List SectPlace) : Option Nat :=
  (List.range h.nreloc).find? fun i =>
    let r := frel b h i
    relBad b h (resolve s o base bias b h dram r) r || (List.range i).any fun j => relsMeet (frel b h j) r

/-- A bundle with the LIT fields of the named slots written so that lit reads V. -/
def putLits (x : Bundle) (slots v : Nat) : Bundle :=
  let ks := (List.range 4).filter fun k => slots.testBit k
  let n := ks.length
  let w := if n = 3 then v else v % 2 ^ (12 * n)
  BitVec.ofNat 56 (((List.range 4).map fun k =>
    let p := parcel x k
    (match ks.findIdx? (· == k) with
     | some i => p / 4096 * 4096 + w / 2 ^ (12 * (n - 1 - i)) % 4096
     | none => p) * 2 ^ (14 * k)).sum)

/-! ### The DRAM pool (R449) -/

/-- Lowest address of a DRAM section of `size` bytes, first fit, that avoids the ranges in use. -/
def poolFit (s : State) (used : List (Nat × Nat)) (size : Nat) : Option Nat :=
  let lo := valGet s (callNo 0x1050 7)
  let hi := min (valGet s (callNo 0x1050 8) + 1) dramSize
  let up (a : Nat) : Nat := (a + 255) / 256 * 256
  let cands := up lo :: (used.map fun u => up (u.1 + u.2)) ++ (List.range 32).map fun k => k * 2 ^ 28
  let good (a : Nat) : Bool :=
    decide (lo ≤ a) && decide (a + size ≤ hi) && a / 2 ^ 28 == (a + size - 1) / 2 ^ 28
      && used.all fun u => decide (a + size ≤ u.1) || decide (u.1 + u.2 ≤ a)
  (cands.filter good).foldl (fun m a => match m with | none => some a | some b => some (min a b)) none

/-- The sections as placed, in record order; none when the pool is exhausted. -/
def placeSects (s : State) : List (Nat × Nat) → List FSect → Option (List SectPlace)
  | _, [] => some []
  | used, x :: t =>
    if x.place = 0 then (placeSects s used t).map fun l => ⟨x.num, false, x.off, x.size⟩ :: l
    else match poolFit s used x.size with
      | none => none
      | some a => (placeSects s ((a, x.size) :: used) t).map fun l => ⟨x.num, true, a, x.size⟩ :: l

/-- DRAM ranges that other folios hold. -/
def poolUsed (s : State) (o : Nat) : List (Nat × Nat) :=
  (((othersThan s o).map fun f => f.sects.filter fun p => p.dram).flatten).map fun p => (p.addr, p.size)

/-- A shelf section overlaps a section of another folio loaded in the home tile (step 4). -/
def shelfMeets (s : State) (o : Nat) (l : List FSect) : Bool :=
  let held := ((((othersThan s o).filter fun f => ownerTile f.home == ownerTile o).map fun f => f.sects).flatten).filter fun p => !p.dram
  l.any fun x => x.place == 0 && held.any fun p => decide (x.off < p.addr + p.size) && decide (p.addr < x.off + x.size)

/-! ### The folio entry table (Table 15-7, R343) -/

/-- An entry record as a folio-defined entry: values are read in the width of its TYPE. -/
def fent (b : List Byte) (h : FHdr) (o i : Nat) : FolioEnt :=
  let a := h.ents + 48 * i
  let d := fieldAt b (a + 4) 2
  let size := fieldAt b (a + 6) 2
  let w := min 8 size
  { call := callNo (fieldAt b a 2) (fieldAt b (a + 2) 1), type := d % 256, access := bits d 8 3, journaled := d.testBit 11,
    taskw := d.testBit 12, size := size, default_ := fieldAt b (a + 12) w, min_ := fieldAt b (a + 20) w, max_ := fieldAt b (a + 28) w,
    owners := [o] }

/-- Size of a short type. -/
def typeSize (t : Nat) : Nat :=
  if t = 1 ∨ t = 2 ∨ t = 6 then 1 else if t = 3 ∨ t = 7 then 2 else if t = 4 ∨ t = 8 ∨ t = 10 then 4 else 8

/-- A real value is a NaN. -/
def realNan (t v : Nat) : Bool := if t = 10 then decide (0x7F800000 < v % 2 ^ 31) else decide (0x7FF0000000000000 < v % 2 ^ 63)

/-- A value on the scale of its type: reals in sign-magnitude order, integers as numbers. -/
def scaleOf (t size v : Nat) : Int :=
  if t = 10 ∨ t = 11 then (if 2 ^ (8 * size - 1) ≤ v then -((v - 2 ^ (8 * size - 1) : Nat) : Int) else v) else typedValue t size v

/-- A record is malformed.
[DESIGN CHOICE, log row 46] -/
def fentBad (b : List Byte) (h : FHdr) (i : Nat) : Bool :=
  let a := h.ents + 48 * i
  let e := fent b h 0 i
  let d := fieldAt b (a + 4) 2
  let real := e.type == 10 || e.type == 11
  let short := shortType e.type
  let sc := scaleOf e.type e.size
  decide (e.call / 256 < 0x3000) || decide (0x5FFF < e.call / 256) || e.call % 256 == 0 || fieldAt b (a + 3) 1 != 0
  || e.type == 0 || decide (15 < e.type) || decide (4 < e.access) || !d.testBit 13 || d / 2 ^ 14 != 0 || fieldAt b (a + 8) 4 != 0
  || fieldAt b (a + 36) 12 != 0
  || (short && e.size != typeSize e.type) || (!short && decide (2048 < e.size)) || (!short && fieldAt b (a + 12) 8 != 0)
  || (e.type == 1 && decide (1 < e.default_))
  || (short && e.type != 1 && (decide (sc e.max_ < sc e.min_) || decide (sc e.default_ < sc e.min_) || decide (sc e.max_ < sc e.default_)))
  || (real && (realNan e.type e.default_ || realNan e.type e.min_ || realNan e.type e.max_))

/-- Same descriptor, MIN and MAX. -/
def sameEnt (a b : FolioEnt) : Bool :=
  a.type == b.type && a.access == b.access && a.journaled == b.journaled && a.taskw == b.taskw && a.size == b.size
    && a.default_ == b.default_ && a.min_ == b.min_ && a.max_ == b.max_

/-- The entries that stay when the folio a load replaces has gone. -/
def entsLeft (s : State) (o : Nat) : List FolioEnt := s.cat.folio.filter fun e => e.owners.any fun w => !(replaced o).contains w

/-- The first record that breaks R343: abort code and record. -/
def tableBad (s : State) (o : Nat) (b : List Byte) (h : FHdr) : Option (Nat × Nat) :=
  let left := entsLeft s o
  let code (i : Nat) : Nat :=
    let e := fent b h o i
    let old := left.find? fun x => x.call == e.call
    let fresh := ((List.range (i + 1)).filter fun j => !(left.any fun x => x.call == (fent b h o j).call)).length
    if fentBad b h i then 0x11
    else if (List.range i).any (fun j => (fent b h o j).call == e.call) ∨ (match old with | some x => !sameEnt x e | none => false) = true then 0x10
    else if 12288 < left.length + fresh then 0x12
    else 0
  ((List.range h.nent).find? fun i => code i != 0).map fun i => (code i, i)

/-! ### Entries come and go (R344) -/

/-- An entry of a table is created, or shared. -/
def addEnt (s : State) (e : FolioEnt) : State :=
  if s.cat.folio.any fun x => x.call == e.call then
    { s with cat := { s.cat with folio := s.cat.folio.map fun x => if x.call = e.call then { x with owners := x.owners ++ e.owners } else x } }
  else
    let s1 := bump (callNo 0x1020 2) 1 32 { s with cat := { s.cat with folio := s.cat.folio ++ [e] } }
    let v := if e.journaled then entryRecord s1 e.call e.type e.size else none
    if shortType e.type then valPut e.call (match v with | some l => leNat l | none => e.default_) s1
    else longPut e.call (v.getD []) s1

/-- The entries of an owner go; one that another folio shares stays. -/
def dropEnts (o : Nat) (s : State) : State :=
  let gone := s.cat.folio.filter fun e => e.owners.all fun w => w == o
  let keep := (s.cat.folio.filter fun e => !(e.owners.all fun w => w == o)).map fun e => { e with owners := e.owners.filter fun w => w != o }
  gone.foldl (fun a e => bump (callNo 0x1020 2) 1 32
      { a with cat := { a.cat with vals := kvDel a.cat.vals e.call, longs := kvDel a.cat.longs e.call
                                   segs := a.cat.segs.filter fun g => g.call != e.call } })
    { s with cat := { s.cat with folio := keep } }

end Sys2Proof.Machine
end

