-- ==== Sys2Proof/Machine/Loader.lean ====
section
/-! DEFINITION. Machine/Loader.lean: the loader: domains and pace confirmation, placing and removing folios, standby starts, the
recipe cut-over and the jobs that run one at a time (R415, R416, R445 to R456). -/

namespace Sys2Proof.Machine

/-! ### Jobs (R446, Table 20-3) -/

/-- A job ends in a state with a code. -/
def endJob (j st code : Nat) (s : State) : State :=
  let s1 := setJob j { getJob s j with st := st, code := code } s
  if s1.svc.waiting = some j then { s1 with svc := { s1.svc with waiting := none } } else s1

/-- A job fails with CODE, AUX and INDEX. -/
def failJob (j code aux idx : Nat) (s : State) : State := endJob j 5 (code + 256 * (aux % 256) + 65536 * (idx % 65536)) s

/-- A job's operation completes (R462). -/
def jobComplete (j st pos : Nat) (s : State) : State :=
  let s1 := endJob j st 0 s
  setJob j { getJob s1 j with progress := 10000, position := pos } s1

/-! ### Pace confirmation (R415, R416) -/

/-- tile.pace.class falls to the highest class loaded in the tile. -/
def paceFall (t : Nat) (s : State) : State := valPut (cTile t 6) (loadedClass s t) s

/-- Confirmation of a class is asked for, or found: the Bool says that it is confirmed. -/
def confirmAsk (t pace : Nat) (s : State) : Bool × State :=
  let cls := valGet s (cTile t 6)
  if pace ≤ cls ∧ (getTile s t).paceOk = true then
    (true, { s with power := { s.power with asks := s.power.asks.filter fun a => a.1 != t } })
  else if s.power.asks.any fun a => a.1 == t then (false, s)
  else
    let s1 : State := { s with power := { s.power with asks := s.power.asks ++ [(t, cls, s.up)] } }
    if pace ≤ cls then (false, s1)
    else
      (false, modTile t (fun x => { x with paceOk := false }) (valPut (cTile t 6) pace
        { s1 with power := { s1.power with confirm := kvSet 0 s1.power.confirm t 0 } }))

/-- A refusal that falls due after its command was answered is recorded as an abort (R335).
[DESIGN CHOICE, log row 47] -/
def noteAbort (route call code : Nat) (s : State) : State :=
  valPut (callNo 0x1020 4) (code + call % 16777216 * 2 ^ 32 + route * 2 ^ 56) (bump (callNo 0x1020 3) 1 32 s)

/-- Call number of the START command of a waiting engine or pair.
[DESIGN CHOICE, log row 21] -/
def waitCall (w : WaitStart) : Nat := if w.who < 256 then cEng w.who 2 else cPair (w.who - 256) 2

/-- A START that waited takes effect, or is refused as it would be now.
[DESIGN CHOICE, log row 21] -/
def startWaiter (s : State) (w : WaitStart) : State :=
  let r := if w.who < 256 then engCmdWrite w.who 1 s else pairCmdWrite (w.who - 256) 1 none s
  if r.1 = 0 then r.2 else noteAbort w.route (waitCall w) r.1 r.2

/-- The waiting STARTs of a tile whose class is confirmed take effect (R416). -/
def startWaiting (t : Nat) (s : State) : State :=
  let l := (getTile s t).waiting
  l.foldl startWaiter (modTile t (fun x => { x with waiting := [] }) s)

/-- Tiles of a rail whose confirmation has come take it up. -/
def paceTake (t : Nat) (s : State) : State :=
  if paceConfirmed s t = true ∧ valGet s (cTile t 6) ≠ 0 ∧ (getTile s t).paceOk = false then
    startWaiting t (modTile t (fun x => { x with paceOk := true }) s)
  else s

/-! ### Removing and placing (R449, R450) -/

/-- A bundle written into an engine's program memory, with valid parity. -/
def progPut (e : Engine) (a : Nat) (b : Bundle) : Engine :=
  { e with pmem := kvSet idleBundle e.pmem a b, pbad := e.pbad.filter fun x => x.1 != a }

/-- Bundles written from an address on. -/
def progPuts : Nat → List Bundle → Engine → Engine
  | _, [], e => e
  | a, b :: t, e => progPuts (a + 1) t (progPut e a b)

/-- Bytes written to memory with fresh check bits. -/
def fillBytes (pa : Nat) (bs : List Byte) (s : State) : State :=
  let inside (w : Nat) : Bool := decide (pa / 8 ≤ w) && decide (8 * w < pa + bs.length)
  { s with mem := { s.mem with
      bytes := (List.range bs.length).foldl (fun m i => kvSet 0#8 m (pa + i) (bs.getD i 0#8)) s.mem.bytes
      bad := s.mem.bad.filter fun w => !inside w
      one := s.mem.one.filter fun c => !inside c.1
      wback := s.mem.wback.filter fun w => !inside w } }

/-- The folio of an owner is removed (R450): idle bundles, its share, its sections and its entries. -/
def unloadOwner (o : Nat) (s : State) : State :=
  match s.svc.folios.find? fun f => f.owner == o with
  | none => s
  | some f =>
    let s1 := (ownerEngines o).foldl (fun a n => valPut (cEng n 0x0B) 0
      (modEng n (progPuts f.base (List.replicate f.plen idleBundle)) a)) s
    let s2 := dropEnts o { s1 with svc := { s1.svc with folios := s1.svc.folios.filter fun x => x.owner != o } }
    tryMask 0xFFFF (paceFall (ownerTile o) s2)

/-- The program of an image with its relocations applied (R165). -/
def builtProgram (s : State) (o base bias : Nat) (b : List Byte) (h : FHdr) (ps : List SectPlace) : List Bundle :=
  (List.range h.nreloc).foldl (fun l i =>
    let r := frel b h i
    if r.sect ≠ 0 then l
    else match resolve s o base bias b h ps r with
      | some q => setAt l r.where_ (putLits (l.getD r.where_ idleBundle) r.slots (relValue q r))
      | none => l) ((List.range h.plen).map (imgBundle b h))

/-- The initial contents of a section with its relocations applied. -/
def builtSection (s : State) (o base bias : Nat) (b : List Byte) (h : FHdr) (ps : List SectPlace) (x : FSect) : List Byte :=
  (List.range h.nreloc).foldl (fun l i =>
    let r := frel b h i
    if r.sect ≠ x.num then l
    else match resolve s o base bias b h ps r with
      | some q => overlayBytes l r.where_ (leBytes 4 (relValue q r))
      | none => l) (if x.init = 0 then List.replicate x.size 0#8 else bytesAt b x.init x.size)

/-- A loaded folio as its image and placement say. -/
def folioRec (o base : Nat) (b : List Byte) (h : FHdr) (ps : List SectPlace) : Folio :=
  { owner := o, home := o, id := h.id, base := base, plen := h.plen, pace := declPace b h, hshare := declShare b h,
    quiet := declWindows b h, segs := declSegments b h, sects := ps }

/-- A folio that has passed every check is placed (R449). -/
def placeFolio (o base bias : Nat) (b : List Byte) (ps : List SectPlace) (s : State) : State :=
  let h := fhdr b
  let prog := builtProgram s o base bias b h ps
  let data := (fsects b h).map fun x => (x.num, builtSection s o base bias b h ps x)
  let s1 := (replaced o).foldl (fun a w => unloadOwner w a) s
  let s2 := (ownerEngines o).foldl (fun a n =>
    valPut (cEng n 4) (base + h.entry) (valPut (cEng n 0x0B) (declShare b h)
      (valJournal (cEng n 3) (declFetch b h) (modEng n (progPuts base prog) a)))) s1
  let s3 := ps.foldl (fun a p =>
    let pa := if p.dram then p.addr else paShelf + ownerTile o * 0x80000 + p.addr
    match data.find? fun d => d.1 == p.num with
    | some d => fillBytes pa d.2 a
    | none => a) s2
  let s4 : State := { s3 with svc := { s3.svc with folios := s3.svc.folios ++ [folioRec o base b h ps] } }
  paceFall (ownerTile o) ((List.range h.nent).foldl (fun a i => addEnt a (fent b h o i)) s4)

/-! ### LOAD (R449) -/

/-- The image a LOAD command names. -/
def loadImage (s : State) (c : SvcCmd) : List Byte :=
  if c.source = 0xFF then kvGet [] s.svc.stored c.folio else kvGet [] s.svc.stages c.source

/-- The subject's domains are turned on or woken: true once they are on (R449). -/
def prepare (o : Nat) (l : List FSect) (s : State) : Bool × State :=
  let t := ownerTile o
  let banks := (List.range 8).filter fun k =>
    l.any fun x => x.place == 0 && decide (x.off / 0x10000 ≤ k) && decide (k ≤ (x.off + x.size - 1) / 0x10000)
  let s1 := if tileDom s t = 0 then s else (domRequest (.tile (Fin.ofNat 32 t)) 0 s).2
  let s2 := banks.foldl (fun a k =>
    if kvGet 0 a.mem.bank (8 * t + k) = 0 then a else (domRequest (.bank (Fin.ofNat 256 (8 * t + k))) 0 a).2) s1
  (tileDom s2 t == 0 && banks.all fun k => kvGet 0 s2.mem.bank (8 * t + k) == 0, s2)

/-- An armed cut-over names a pair, as outgoing or incoming (Table 20-10); job `j` is left out. -/
def inArmedPlan (s : State) (j m : Nat) : Bool :=
  (List.range 16).any fun i =>
    let b := getJob s i
    i != j && b.st == 3 && b.cmd.cmd == 5 && (List.range (fieldAt b.plan 0 1)).any fun k =>
      fieldAt b.plan (16 + 4 * k) 1 == m + 128 || fieldAt b.plan (17 + 4 * k) 1 == m + 128

/-- The subject's state lets a folio be placed or removed: an IDLE pair, or a HALTED engine of a SPLIT pair. -/
def subjectFree (s : State) (j m half : Nat) : Bool :=
  !inArmedPlan s j m && (if pairSplit (getPair s m) then shownState s (2 * m + half) == .halted else half == 0 && pairCode s m == 0)

/-- The first reason of Table 08-7 from 0x03 on, then those of steps 4 and 5, with AUX and INDEX; none when every check passes. Where a folio's
DRAM sections find no room, its records that name them count as unresolved: 0x09 comes before 0x15.
[DESIGN CHOICE, log row 47] -/
def loadRefusal (s : State) (j o base bias half : Nat) (b : List Byte) : Option (Nat × Nat × Nat) :=
  let h := fhdr b
  let t := ownerTile o
  let chk := declChecked b h
  let share := declShare b h
  let grp := max (groupShare s (pairGroup (ownerPair o))) (if o < 128 then share else 0)
  let sum := heavySum s t grp (ownerEngines o) + share * (ownerEngines o).length
  let ps := placeSects s (poolUsed s o) (fsects b h)
  if valGet s (cTile t 0x10) < sum then some (3, 0, 0)
  else if declPeriod b h ≠ periodLen s then some (4, 0, 0)
  else if chk = true ∧ declReserve b h < 100 + declInterval b h then some (5, 0, 0)
  else if declSegs b h = 0 ∨ segsFit (declPace b h) (declPeriod b h) (declReserve b h) chk 0 (declSegments b h) = false then some (6, 0, 0)
  else if quietBad s o b h then some (7, 0, 0)
  else if declSlices b h < slicesFrom s t then some (8, 0, 0)
  else match relsBad s o base bias b h (ps.getD []) with
    | some i => some (9, 0, i)
    | none =>
      if chk = decide (128 ≤ o) then some (0x0A, 0, 0)
      else if valGet s (cPair (ownerPair o) 8) = 1 then some (0x0B, 0, 0)
      else if subjectFree s j (ownerPair o) half = false ∨ 8192 < base + h.plen ∨ shelfMeets s o (fsects b h) = true then some (0x13, 0, 0)
      else if ps.isNone then some (0x15, 0, 0)
      else match tableBad s o b h with
        | some x => some (0x14, x.1, x.2)
        | none => if archiveLow s ∧ (ownerEngines o).any (fun n => valGet s (cEng n 3) != declFetch b h) then some (0x19, 0, 0) else none

/-- Position and total of a LOAD's progress (Table 20-9): bytes hashed plus bytes placed.
[DESIGN CHOICE, log row 46] -/
def loadTotal (b : List Byte) : Nat :=
  let h := fhdr b
  h.length - 256 + 7 * h.plen + ((fsects b h).map fun x => x.size).sum

/-- A LOAD job fails after its digest was checked: its progress keeps the bytes hashed, and the tile's class returns.
[DESIGN CHOICE, log row 46] -/
def failLoaded (j o : Nat) (b : List Byte) (r : Nat × Nat × Nat) (s : State) : State :=
  let pos := (fhdr b).length - 256
  let s1 : State := { s with power := { s.power with asks := s.power.asks.filter fun a => a.1 != ownerTile o } }
  failJob j r.1 r.2.1 r.2.2 (paceFall (ownerTile o)
    (setJob j { getJob s1 j with position := pos, progress := 10000 * pos / loadTotal b } s1))

/-- The LOAD job j goes as far as it can: true when it has ended or is ARMED, false while it waits for a domain or for a pace
confirmation. -/
def loadTry (j : Nat) (s : State) : Bool × State :=
  let c := (getJob s j).cmd
  let b := loadImage s c
  let o := ownerOf s c.subject c.half
  if b.isEmpty then (true, failJob j 0x16 0 0 s)
  else match fhdrBad b with
    | some i => (true, failJob j 0x10 0 i s)
    | none =>
      let h := fhdr b
      if b.length < h.length then (true, failJob j 0x16 0 0 s)
      else if fsigBad s b then (true, failJob j 0x12 0 0 s)
      else if fdigestBad b then (true, failJob j 0x11 0 0 s)
      else
        let d := prepare o (fsects b h) s
        if d.1 = false then d
        else if declBad b h then (true, failLoaded j o b (1, 0, 0) d.2)
        else if ! [16, 23, 30, 36].contains (declPace b h) then (true, failLoaded j o b (2, 0, 0) d.2)
        else
          let q := confirmAsk (ownerTile o) (declPace b h) d.2
          if q.1 = false then q
          else match loadRefusal q.2 j o c.base c.bias c.half b with
            | some r => (true, failLoaded j o b r q.2)
            | none =>
              let s1 := placeFolio o c.base c.bias b ((placeSects q.2 (poolUsed q.2 o) (fsects b h)).getD []) q.2
              (true, if c.at_ = 0 then jobComplete j 4 (loadTotal b) s1
                     else setJob j { getJob (jobComplete j 3 (loadTotal b) s1) j with at_ := c.at_ } (jobComplete j 3 (loadTotal b) s1))

/-! ### UNLOAD, STORE, DELETE (R445, R450) -/

/-- UNLOAD. -/
def unloadJob (j : Nat) (s : State) : State :=
  let c := (getJob s j).cmd
  if subjectFree s j c.subject c.half = false then failJob j 0x13 0 0 s
  else jobComplete j 4 0 ((replaced (ownerOf s c.subject c.half)).foldl (fun a w => unloadOwner w a) s)

/-- STORE. -/
def storeJob (j : Nat) (s : State) : State :=
  let c := (getJob s j).cmd
  let b := kvGet [] s.svc.stages c.source
  if b.isEmpty then failJob j 0x16 0 0 s
  else if archiveLow s then failJob j 0x19 0 0 s
  else
    let s1 := journalGroup 0x02 c.folio b s
    jobComplete j 4 0 { s1 with svc := { s1.svc with stored := kvSet [] s1.svc.stored c.folio b } }

/-- FOLIOID of a folio.auto record. -/
def autoId (s : State) (m : Nat) : Nat := fieldAt (longGet s (callNo 0x1050 6)) (16 * m) 4

/-- DELETE: the removal is journaled as a FOLIO record without payload.
[DESIGN CHOICE, log row 32] -/
def deleteJob (j : Nat) (s : State) : State :=
  let c := (getJob s j).cmd
  if (kvGet [] s.svc.stored c.folio).isEmpty then failJob j 0x16 0 0 s
  else if (List.range 128).any fun m => autoId s m == c.folio then failJob j 0x13 0 0 s
  else if archiveLow s then failJob j 0x19 0 0 s
  else
    let s1 := journal 0x02 false c.folio [] s
    jobComplete j 4 0 { s1 with svc := { s1.svc with stored := kvSet [] s1.svc.stored c.folio [] } }

/-! ### Cut-over (R452 to R456) -/

/-- Pair records of a plan: outgoing and incoming, where valid. -/
def planPairs (p : List Byte) : List (Option Nat × Option Nat) :=
  (List.range (fieldAt p 0 1)).map fun i =>
    let a := fieldAt p (16 + 4 * i) 1
    let b := fieldAt p (17 + 4 * i) 1
    (if 128 ≤ a then some (a - 128) else none, if 128 ≤ b then some (b - 128) else none)

/-- Stream records of a plan: stream and new consumer. -/
def planStreams (p : List Byte) : List (Nat × Nat) :=
  (List.range (fieldAt p 1 1)).map fun i => (fieldAt p (272 + 4 * i) 1, fieldAt p (273 + 4 * i) 1 % 128)

/-- Incoming pairs of a plan. -/
def planIn (p : List Byte) : List Nat := (planPairs p).filterMap fun x => x.2

/-- The first record of a plan that fails R453: pair record i as i, stream record i as 64 + i; the header as 0.
[DESIGN CHOICE, log row 47] -/
def planBad (s : State) (j : Nat) (p : List Byte) : Option Nat :=
  let badPair (x : Option Nat × Option Nat) : Bool :=
    (match x.1 with
     | some m => let st := (getPair s (followTaker s m)).st; !(st == .checked || st == .unchecked || st == .restoring)
     | none => false)
    || (match x.2 with
        | some m => !(pairCode s m == 0 && ownedFolio s m != 0 && valGet s (cPair m 8) == 0) || inArmedPlan s j m
        | none => false)
  if fieldAt p 0 1 = 0 ∨ 64 < fieldAt p 0 1 ∨ 32 < fieldAt p 1 1 ∨ startBarred s = true then some 0
  else match (planPairs p).findIdx? badPair with
    | some i => some i
    | none => ((planStreams p).findIdx? fun x => !(planIn p).contains x.2).map fun i => 64 + i

/-- The confirmations the present job asked for are given up, and the classes return (R415).
[DESIGN CHOICE, log row 47] -/
def askRelease (s : State) : State :=
  s.power.asks.foldl (fun a x => valPut (cTile x.1 6) x.2.1 a) { s with power := { s.power with asks := [] } }

/-- The CUTOVER job goes as far as it can: true when it has failed or is ARMED. That AT lies far enough ahead is checked once, when the
job runs; a job that waits for a tile has it in its `at_`.
[DESIGN CHOICE, log row 47] -/
def cutoverTry (j : Nat) (s : State) : Bool × State :=
  let c := (getJob s j).cmd
  let p := longGet s (callNo 0x1050 5)
  if (getJob s j).at_ = 0 ∧ c.at_ < s.now + 400000 then (true, failJob j 0x17 0 0 s)
  else match planBad s j p with
    | some i => (true, failJob j 0x17 i 0 (askRelease s))
    | none =>
      let ts := ((planIn p).map pairTile).eraseDups
      let r := ts.foldl (fun (a : Bool × State) t =>
        let s1 := if tileDom a.2 t = 0 then a.2 else (domRequest (.tile (Fin.ofNat 32 t)) 0 a.2).2
        if tileDom s1 t ≠ 0 then (false, s1)
        else if valGet s1 (cTile t 6) = 0 then (a.1, s1)
        else let q := confirmAsk t (loadedClass s1 t) s1; (a.1 && q.1, q.2)) (true, s)
      if r.1 = false then (false, setJob j { getJob r.2 j with at_ := c.at_ } r.2)
      else (true, let s1 := endJob j 3 0 r.2; setJob j { getJob s1 j with at_ := c.at_, plan := p, checked := false } s1)

/-- The cut-over of job j is abandoned: code 0x17, event 0x25 with its lapse flag. -/
def cutoverAbandon (j i mark : Nat) (s : State) : State := logEvent 0x25 true j i mark (failJob j 0x17 i 0 s)

/-- The arming check (R454). -/
def armingCheck (j mark : Nat) (s : State) : State :=
  match planBad s j (getJob s j).plan with
  | some i => cutoverAbandon j i mark s
  | none => setJob j { getJob s j with checked := true } s

/-- The arming deadline of job j: 20 µs before its mark (R454). -/
def armingDeadline (j : Nat) (s : State) : State :=
  let b := getJob s j
  let m := markFrom s b.at_
  if b.st = 3 ∧ b.cmd.cmd = 5 ∧ b.checked = false ∧ m ≠ 0 ∧ m ≤ s.now + 80000 then armingCheck j m s else s

/-- Whatever follows a pair's work that has moved to its taker: its streams, but for those in `kept`, its rings' acyclic staging, its
folio and the entries the folio defines (R232, R313, R378).
[DESIGN CHOICE, log row 47] -/
def workFollows (m k : Nat) (kept : List Nat) (s : State) : State :=
  let own (a : State) (r : Nat) : State := if valGet a (cRing r 0x0F) = m then valJournal (cRing r 0x0F) k a else a
  let s1 := own (own (streamsFollow m k kept s) 0) 1
  let s2 : State := { s1 with svc := { s1.svc with folios := s1.svc.folios.map fun f => if f.owner = m then { f with owner := k } else f },
                              cat := { s1.cat with folio := s1.cat.folio.map fun e =>
                                { e with owners := e.owners.map fun w => if w = m then k else w } } }
  paceFall (pairTile m) (paceFall (pairTile k) s2)

/-- A due capture is taken, and a hand-over at it is followed. -/
def captureFollow (m : Nat) (s : State) : State :=
  let s1 := takeCapture m s
  let kept := match (getPair s m).mig with | some g => g.kept | none => []
  match (getPair s m).taker, (getPair s1 m).taker with
  | none, some k => workFollows m k kept s1
  | _, _ => s1

/-- The loader's copy to a spare is complete (R231): program memory, engine.fetch, engine.entry and engine.heavy.share of the main
copy are in both spare engines. -/
def programCopied (m : Nat) (s : State) : State :=
  let p := getPair s m
  match p.mig with
  | none => s
  | some g =>
    if g.copied then s
    else
      let main := getEng s (mainOf m)
      let put (a : State) (n : Nat) : State :=
        valPut (cEng n 4) (valGet s (cEng (mainOf m) 4)) (valPut (cEng n 0x0B) (valGet s (cEng (mainOf m) 0x0B))
          (valJournal (cEng n 3) (valGet s (cEng (mainOf m) 3))
            (modEng n (fun e => { e with pmem := main.pmem, pbad := main.pbad, slotFetch := main.slotFetch }) a)))
      put (put (setPair m { p with mig := some { g with copied := true } } s) (mainOf g.spare)) (checkerOf g.spare)

/-- An outgoing pair stops at its first boundary at or after the mark; a restart under way is abandoned (R454). -/
def outgoingStop (m : Nat) (s : State) : State :=
  let armed : Bool := match (getPair s m).mig with | some g => g.armed && g.copied && !g.fault | none => false
  let s1 := if armed ∧ captureAllowed s m = true then captureFollow m s else s
  let k := followTaker s1 m
  if (getPair s1 k).st = .restoring ∨ (getPair s1 k).st = .handover then
    tryMask k (setPair k { Pair.fresh with lastMis := (getPair s1 k).lastMis, lastThird := (getPair s1 k).lastThird }
      (resetNow (mainOf k) (resetNow (checkerOf k) s1)))
  else stopInto k .idle s1

/-- The outgoing pairs of a cut-over with UNLOAD that have halted are unloaded (R450, R454). -/
def unloadHalted (s : State) : State :=
  let halted (m : Nat) : Bool := (getPair s m).st == .idle || (getPair s m).st == .out
  (s.svc.unloads.filter halted).foldl (fun a m => unloadOwner m a)
    { s with svc := { s.svc with unloads := s.svc.unloads.filter fun m => !halted m } }

/-- The cut-over of job j takes place at this mark (R454). -/
def cutoverNow (j : Nat) (s : State) : State :=
  let p := (getJob s j).plan
  let outs := (planPairs p).filterMap fun x => x.1
  let moved := outs.foldl (fun a m => outgoingStop m a) ((planIn p).foldl (fun a m => startPairAt m true a) s)
  let s1 := (planStreams p).foldl (fun a x => handStream x.1 x.2 a) moved
  let own (r : Nat) (a : State) : State :=
    let v := fieldAt p (400 + 2 * r) 1
    if 128 ≤ v then valJournal (cRing r 0x0F) (v - 128) a else a
  let s2 := own 1 (own 0 s1)
  let went := outs.map fun m => followTaker s2 m
  let s3 : State := { s2 with svc := { s2.svc with
    unloads := if (fieldAt p 2 1).testBit 0 then s2.svc.unloads ++ went else s2.svc.unloads
    cutOut := (s2.svc.cutOut.filter fun m => !(planIn p).contains m && !went.contains m) ++ went
    cutIn := (s2.svc.cutIn.filter fun m => !went.contains m && !(planIn p).contains m) ++ planIn p } }
  logEvent 0x25 false j 0 s.now (jobComplete j 4 0 (unloadHalted s3))

/-- Starts a loaded folio where it is loaded, as by START (R64); the Bool says whether it was accepted.
[DESIGN CHOICE, log row 47] -/
def startOwner (s : State) (o : Nat) : Bool × State :=
  let r := if o < 128 then pairCmdWrite o 1 none s else engCmdWrite (o - 128) 1 s
  (r.1 == 0, r.2)

/-- An ARMED job whose mark has come: a LOAD starts its folio, a cut-over is checked if its deadline has not been met, then made. -/
def jobAtMark (s : State) (j : Nat) : State :=
  let b := getJob s j
  if b.st ≠ 3 ∨ s.now < b.at_ then s
  else if b.cmd.cmd = 1 then
    let r := startOwner s (ownerOf s b.cmd.subject b.cmd.half)
    if r.1 then endJob j 4 0 r.2 else failJob j 0x13 0 0 r.2
  else
    let s1 := if b.checked then s else armingCheck j s.now s
    if (getJob s1 j).st = 3 then cutoverNow j s1 else s1

/-! ### Automatic loads (R451) -/

/-- The job number that stands for the folio.auto record of pair m.
[DESIGN CHOICE, log row 47] -/
def autoJob (m : Nat) : Nat := 16 + m

/-- The records are queued in ascending pair order. -/
def autoQueue (s : State) : State :=
  let l := longGet s (callNo 0x1050 6)
  (List.range 128).foldl (fun a m =>
    if autoId a m = 0 then a
    else
      let w := fieldAt l (16 * m + 4) 2
      let c : SvcCmd := { SvcCmd.zero with cmd := 1, source := 0xFF, subject := m, folio := autoId a m, base := w % 8192, bias := fieldAt l (16 * m + 6) 2 }
      let a1 := setJob (autoJob m) { Job.free with st := 1, cmd := c, subject := m } a
      { a1 with svc := { a1.svc with queue := a1.svc.queue ++ [autoJob m] } }) s

/-- An automatic load has ended: event 0x28 on failure, else its START waits for the mark. -/
def autoEnd (k : Nat) (s : State) : State :=
  let m := k - 16
  let b := getJob s k
  let w := fieldAt (longGet s (callNo 0x1050 6)) (16 * m + 4) 2
  let s1 := setJob k Job.free s
  if b.st = 5 then logEvent 0x28 true m (b.code % 256) b.cmd.folio s1
  else if w.testBit 13 then { s1 with svc := { s1.svc with auto := s1.svc.auto ++ [(m, w.testBit 14)] } } else s1

/-- The records with START set start together at the first mark after the last load; with ALIGN set, the mark must also fall while
ALIGN_DEV and the ALIGN bit of the period source ring are set.
[DESIGN CHOICE, log row 47] -/
def autoAtMark (s : State) : State :=
  let busy := s.svc.queue.any (fun j => decide (16 ≤ j)) || (match s.svc.waiting with | some j => decide (16 ≤ j) | none => false)
  let aligned := promiseBit s 3 && promiseBit s (4 + valGet s (callNo 0x1110 1))
  if s.svc.auto.isEmpty ∨ busy = true ∨ (s.svc.auto.any (fun x => x.2) && !aligned) = true then s
  else s.svc.auto.foldl (fun a x => (startOwner a x.1).2) { s with svc := { s.svc with auto := [] } }

/-! ### Firmware update (R461) -/

/-- Blocks of an image slot, in bytes. -/
def slotSize : Nat := 256 * 262144

/-- Bytes of firmware slot k. -/
def fwSlot (s : State) (k : Nat) : List Byte := if k = 0 then s.boot.slot0 else s.boot.slot1

/-- A firmware slot takes bytes. -/
def putFwSlot (k : Nat) (b : List Byte) (s : State) : State :=
  { s with boot := if k = 0 then { s.boot with slot0 := b } else { s.boot with slot1 := b } }

/-- The checks of R430: 0 valid, else the reason code of boot.fail (Table 19-10).
[DESIGN CHOICE, log row 43] -/
def fwReason (s : State) (b : List Byte) : Nat :=
  let len := fieldAt b 12 4
  if fieldAt b 0 4 ≠ 0x46574E45 ∨ 0x800000 - 256 < len then 1
  else if b.length < 256 + len ∨ sha256 (bytesAt b 256 len) ≠ bytesAt b 96 32 then 2
  else if lifecycle s ≠ 0 ∧ !(fieldAt b 16 1 == 0 && keyFused s 0 (bytesAt b 32 64)
      && ecdsaValid (bytesAt b 32 64) (bytesAt b 128 64) (bytesAt b 0 128)) then 3
  else if fieldAt b 8 4 < s.boot.rollback then 4
  else 0

/-- FWBEGIN: the 256 blocks of the slot that is not running are erased. -/
def fwBegin (j : Nat) (s : State) : State :=
  let k := if valGet s (callNo 0x1030 2) = 0 then 1 else 0
  jobComplete j 4 slotSize (putFwSlot k [] (countErases (slotBlocks s k) { s with svc := { s.svc with fw := some ⟨k, []⟩ } }))

/-- FWCOMMIT: the image is verified, and its header programmed last. -/
def fwCommit (j : Nat) (s : State) : State :=
  match s.svc.fw with
  | none => failJob j 0x16 0 0 s
  | some f =>
    let r := fwReason s f.data
    if r ≠ 0 then failJob j 0x1B r 0 s
    else
      let s1 := putFwSlot f.slot f.data { s with svc := { s.svc with fw := none } }
      logEvent 0x87 false f.slot (fieldAt f.data 4 4) 0 (jobComplete j 4 (fieldAt f.data 12 4) s1)

/-! ### The loader (R446) -/

/-- The job at the loader goes as far as it can: true when it no longer occupies the loader. -/
def loaderTry (j : Nat) (s : State) : Bool × State :=
  match (getJob s j).cmd.cmd with
  | 1 => let r := loadTry j s; if r.1 ∧ 16 ≤ j then (true, autoEnd j r.2) else r
  | 2 => (true, unloadJob j s)
  | 3 => (true, storeJob j s)
  | 4 => (true, deleteJob j s)
  | 5 => cutoverTry j s
  | 0x0A => (true, fwBegin j s)
  | _ => (true, fwCommit j s)

/-- The loader runs its jobs one at a time until it has none or the present one waits. -/
def loaderRun : Nat → State → State
  | 0, s => s
  | n + 1, s =>
    match s.svc.waiting with
    | some j => let r := loaderTry j s; if r.1 then loaderRun n { r.2 with svc := { r.2.svc with waiting := none } } else r.2
    | none =>
      match s.svc.queue with
      | [] => s
      | j :: t =>
        loaderRun n (setJob j { getJob s j with st := 2 } { s with svc := { s.svc with queue := t, waiting := some j } })

/-- The loader looks at its jobs. -/
def loaderPoll (s : State) : State := loaderRun (2 * s.svc.queue.length + 2) (unloadHalted s)

/-- A job joins the loader's queue. -/
def loaderQueue (j : Nat) (s : State) : State := loaderPoll { s with svc := { s.svc with queue := s.svc.queue ++ [j] } }

/-- No confirmation within 400 µs (R415, R416): the loader refuses the folio with 0x02 and the class returns to its previous value;
a waiting START is refused with STATE.
[DESIGN CHOICE, log row 47] -/
def confirmTimeout (t : Nat) (s : State) : State :=
  let lim := 1600000
  let old (at_ : Nat) : Bool := decide (at_ + lim ≤ s.up)
  let s1 := match s.power.asks.find? fun a => a.1 == t && old a.2.2 with
    | none => s
    | some a =>
      let s0 := valPut (cTile t 6) a.2.1 { s with power := { s.power with asks := s.power.asks.filter fun x => x.1 != t } }
      match s0.svc.waiting with
      | some j =>
        let f := failJob j (if (getJob s0 j).cmd.cmd = 1 then 2 else 0x17) 0 0 (askRelease s0)
        if 16 ≤ j then autoEnd j f else f
      | none => s0
  let late := (getTile s1 t).waiting.filter fun w => old w.at_
  loaderPoll (late.foldl (fun a w => noteAbort w.route (waitCall w) 8 a)
    (modTile t (fun x => { x with waiting := x.waiting.filter fun w => !old w.at_ }) s1))

end Sys2Proof.Machine
end

