-- ==== Sys2Proof/Machine/Boot.lean ====
section
/-! DEFINITION. Machine/Boot.lean: the power-on sequence, the device resets, the life cycle and tamper (chapter 19). -/

namespace Sys2Proof.Machine

/-! ### The power-on sequence (R424 to R432) -/

/-- The device is held as under RESET_N: by the pin, or by a TAP instruction of R401. -/
def deviceHeld (s : State) : Bool := s.boot.held || s.tap.held

/-- A step of the sequence has completed: 0 rails, 1 fuses, 2 injection, 3 shelves, 4 firmware, 5 replay. -/
def stepDone (s : State) (i : Nat) : Bool := s.boot.steps.testBit i

/-- The boot fields changed. -/
def modBoot (f : BootSt → BootSt) (s : State) : State := { s with boot := f s.boot }

/-- A step completes and boot.stage takes a value. -/
def stepEnd (i stage : Nat) (s : State) : State :=
  modBoot (fun b => { b with steps := if b.steps.testBit i then b.steps else b.steps + 2 ^ i, stage := stage }) s

/-- BOOT_MODE as sampled. -/
def bootMode (s : State) : Nat := valGet s (callNo 0x1510 2)

/-- boot.stage when the boot ROM step is reached (Table 19-2): slots are verified, a host image is awaited, or the sequence stops, as it
does at every start-up of a RETIRED device (R436).
[DESIGN CHOICE, log row 44] -/
def romStage (s : State) : Nat := if s.boot.fuseLc = 4 then 0x0A else match bootMode s with | 0 => 5 | 1 => 9 | _ => 8

/-- VIN has been valid for 100 µs: the sequence begins, and BOOT_MODE is sampled (R397, R424). -/
def vinValid (mode : Nat) (s : State) : State :=
  if s.boot.vin then s
  else valPut (callNo 0x1510 2) (mode % 4) (modBoot (fun b => { b with vin := true, startAt := s.up, stage := 1 }) s)

/-- Every rail is in its band (R425). -/
def railsInBand (s : State) : State := if s.boot.vin && !stepDone s 0 then stepEnd 0 2 s else s

/-- A fused-out engine, and its pair. -/
def fuseOut (n : Nat) (s : State) : State :=
  modPair (pairOf n) (fun _ => { Pair.fresh with st := .fused }) (modEng n (fun _ => { Engine.fresh with st := .fused }) s)

/-- The fuses and the repair list take effect (R263, R428). A RETIRED device stops here (R436). -/
def fuseLoad (s : State) : State :=
  if !stepDone s 0 || stepDone s 1 then s
  else
    let s1 := s.boot.fusedEng.foldl (fun a n => fuseOut n a) s
    let s2 : State :=
      if s.boot.repairBad then logEvent 0x86 false 0 0 0 s1
      else
        let a : State := { s1 with mem := { s1.mem with cols := s1.mem.cols ++ s1.boot.repairList.map fun x => (x.1, x.2, false) } }
        s1.boot.repairList.foldl (fun b x =>
          let c := cTile (x.1 / 8) 0x48
          let p := valGet b c
          valPut c (if p.testBit (x.1 % 8) then p else p + 2 ^ (x.1 % 8)) b) a
    stepEnd 1 (if s.boot.fuseLc = 4 then 0x0A else 3) s2

/-- The comparator injection of every pair has completed; `fails` are the pairs that failed with the lane or stage (R235). -/
def injectionDone (fails : List (Nat × Nat)) (s : State) : State :=
  if !stepDone s 1 || stepDone s 2 || s.boot.fuseLc == 4 then s
  else stepEnd 2 4 (fails.foldl (fun a x => if (getPair a x.1).st = .fused then a else injectPair x.1 (some x.2) a) s)

/-- Every shelf word has been written with zero (R252).
[DEDUCED, log row 10] -/
def shelfInitDone (s : State) : State :=
  if !stepDone s 2 || stepDone s 3 then s
  else
    let s1 : State := { s with mem := { s.mem with
      bytes := s.mem.bytes.filter fun x => !decide (paShelf ≤ x.1 ∧ x.1 < paRom)
      bad := s.mem.bad.filter fun w => !decide (paShelf ≤ 8 * w ∧ 8 * w < paRom)
      one := s.mem.one.filter fun x => !decide (paShelf ≤ 8 * x.1 ∧ 8 * x.1 < paRom)
      wback := [] } }
    stepEnd 3 (romStage s) s1

/-- The firmware runs: boot.slot, boot.fw.version and the stage follow. -/
def firmwareRuns (slot version : Nat) (s : State) : State :=
  valPut (callNo 0x1030 2) slot (valPut (callNo 0x1030 3) version (stepEnd 4 6 (modBoot (fun b => { b with running := true }) s)))

/-- Event 0x81 for an invalid slot. -/
def slotReport (k reason : Nat) (s : State) : State :=
  if reason = 0 then s else logEvent 0x81 false k reason (fieldAt (fwSlot s k) 4 4) s

/-- The boot ROM has verified both slots (R431): the valid image with the higher VERSION runs, slot 0 when they are equal; with none
valid the device enters HOST mode. -/
def firmwareVerified (s : State) : State :=
  if !(s.boot.stage == 5) || !stepDone s 3 || deviceHeld s then s
  else
    let a := fwReason s (fwSlot s 0)
    let b := fwReason s (fwSlot s 1)
    let va := fieldAt (fwSlot s 0) 4 4
    let vb := fieldAt (fwSlot s 1) 4 4
    let s1 := slotReport 1 b (slotReport 0 a (valPut (callNo 0x1030 5) (a + 256 * b) s))
    if a = 0 ∧ (b ≠ 0 ∨ vb ≤ va) then firmwareRuns 0 va s1
    else if b = 0 then firmwareRuns 1 vb s1
    else modBoot (fun x => { x with stage := 9 }) s1

/-- A host image whose last frame has come is verified: it runs, or is discarded (R429, R431). -/
def hostBootImage (s : State) : State :=
  if !(s.boot.stage == 9) || !s.boot.hostEnd || !stepDone s 3 || deviceHeld s then s
  else
    let img := s.boot.hostImg
    let s1 := modBoot (fun b => { b with hostImg := [], hostEnd := false }) s
    if fwReason s img = 0 then firmwareRuns 2 (fieldAt img 4 4) s1 else s1

/-- dram.init.done. -/
def cDramInit : Nat := callNo 0x1900 8

/-- DRAM initialisation completes: every word is zero (R268).
[DEDUCED, log row 10] -/
def dramInitDone (s : State) : State :=
  if !stepDone s 0 || valGet s cDramInit == 1 then s
  else
    let s1 := valPut cDramInit 1 (loseDram s)
    { s1 with mem := { s1.mem with refEnd := max s1.mem.refEnd s1.up } }

/-- The archive has been replayed (R322); `bad` are the records whose check fails. It runs once the firmware runs. -/
def replayRun (bad : List Nat) (s : State) : State :=
  if !s.boot.running || stepDone s 5 || deviceHeld s then s
  else stepEnd 5 s.boot.stage (archiveReplay bad (valGet s (callNo 0x1000 8) == 1) s)

/-- Pairs marked for fusing are OUT after a power-on (R460). -/
def markedOut (s : State) : State :=
  let l := longGet s (callNo 0x1050 0x0A)
  (List.range 128).foldl (fun a m =>
    if (leNat l).testBit m ∧ (getPair a m).st ≠ .fused then modPair m (fun p => { p with st := .out }) a else a) s

/-- Register slices take the values set for them, at power-on only (Table 13-4).
[DESIGN CHOICE, log row 43] -/
def slicesTake (s : State) : State :=
  valPut (callNo 0x1920 2) (valGet s (callNo 0x1920 1))
    ((List.range 32).foldl (fun a t => valPut (cTile t 0x51) (valGet a (cTile t 0x50)) a) s)

/-- A STOP_N that is low when roles and pin modes take effect holds rings and pins in safe stop (R387, R400); a stop that began before, and
has not been released, holds the pins too.
[DEDUCED, log row 59] -/
def stopAtStart (s : State) : State :=
  if s.pins.stopN = false then safeStop s else if s.pins.stop then (List.range 16).foldl stopPin s else s

/-- The catalogue is ready (R426): journaled settings apply, the ledger serves, and the automatic loads are queued. -/
def catalogueReady (s : State) : State :=
  if !s.boot.running || !stepDone s 5 || s.cat.ready || deviceHeld s || valGet s cDramInit == 0 then s
  else
    let on := valGet s (callNo 0x1000 8) == 1
    let ms := (s.up - s.boot.startAt) / 4000000
    let s1 : State := { s with cat := { s.cat with ready := true }, ledger := { s.ledger with ready := true } }
    let s2 := valPut (callNo 0x1030 4) ms (modBoot (fun b => { b with stage := 7 }) s1)
    let s3 := if on then resumeSlots (markedOut (slicesTake s2)) else s2
    let s4 := tryPace 0xFFFF (tryMask 0xFFFF (tryWork 0 s3))
    let s5 := logEvent 0x80 false (valGet s (callNo 0x1000 8)) ms (valGet s (callNo 0x1030 3)) s4
    loaderPoll (autoQueue (stopAtStart (roleAtStart (roleAtStart s5 0) 1)))

/-! ### Debug access closes (R402) -/

/-- Debug access closes, if it was open: 1 TRST_N, 2 reset, 3 life cycle, 4 tamper, 5 timeout. -/
def debugClose (why : Nat) (s : State) : State :=
  if valGet s cDbgOpen = 0 then s else logEvent 0x91 false 0 why 0 (valPut cDbgOpen 0 s)

/-! ### Resets (R433 to R435) -/

/-- Volatile entries that a device reset keeps (Table 19-5 and the rules of their units).
[DESIGN CHOICE, log row 43] -/
def keptCall (call : Nat) : Bool :=
  let idx := call / 256
  let sub := call % 256
  idx == 0x1000 || idx == 0x1100
    || (idx == 0x1010 && (sub == 1 || sub == 2))
    || (idx == 0x1040 && (sub == 1 || sub == 3))
    || (idx == 0x1200 && (sub == 3 || sub == 5))
    || (idx == 0x1510 && sub == 2)
    || (idx == 0x1900 && (sub == 1 || sub == 5 || sub == 6 || sub == 8))
    || (idx == 0x1910 && (sub == 3 || sub == 4))
    || (idx == 0x1920 && (sub == 2 || sub == 4))
    || (decide (0x1930 ≤ idx ∧ idx < 0x1934) && sub == 2)
    || (decide (0x1600 ≤ idx ∧ idx < 0x1800) && (idx - 0x1600) % 0x80 == 0 && sub == 1)
    || (decide (0x2000 ≤ idx ∧ idx < 0x2020) && (sub == 0x12 || sub == 0x51 || sub == 0x48))
    || (decide (0x2200 ≤ idx ∧ idx < 0x2280) && sub == 5)

/-- An entry keeps its value through a device reset.
[DESIGN CHOICE, log row 43] -/
def keepsValue (call : Nat) : Bool := keptCall call || (match deviceDesc call with | some d => d.jrn | none => false)

/-- A pair after a device reset: IDLE, but one in OUT or FUSED keeps its state. -/
def pairReset (p : Pair) : Pair := if p.st = .out ∨ p.st = .fused then p else Pair.fresh

/-- Every engine is reset and every pair IDLE. -/
def resetEngines (s : State) : State :=
  let s1 := (List.range 256).foldl (fun a n => if (getEng a n).st = .fused then a else resetNow n a) s
  (List.range 128).foldl (fun a m => modPair m pairReset a) s1

/-- The tiles' part: meters, commands in progress and waiting STARTs end; followers keep their lock. -/
def resetTiles (s : State) : State :=
  (List.range 32).foldl (fun a t => modTile t (fun x => { x with window := [], debt := 0, waiting := [], paceOk := false }) a) s

/-- Rings stop, links stay up (R435). A stop that STOP_N still asks for holds.
[DESIGN CHOICE, log row 36] -/
def resetRings (s : State) : State :=
  let held := s.pins.stop && !s.pins.stopN
  let s1 := loseAlign 1 (loseAlign 0 s)
  let off (r : Nat) (a : State) : State := setRing r { RingSt.off with stopped := held && (getRing a r).stopped } a
  (List.range 4).foldl (fun a q => setPort q { PortSt.down with upAt := (getPort a q).upAt } a) (off 1 (off 0 s1))

/-- Every transfer channel drops (R297, R435).
[DESIGN CHOICE, log row 43] -/
def dropTransfers (s : State) : State := (List.range 64).foldl dropChan s

/-- The exchange network after a device reset: nothing is under way, and a source keeps the newest capture since power-on (R186).
[DESIGN CHOICE, log row 43] -/
def netReset (x : NetSt) : NetSt :=
  { NetSt.reset with caps := kvMap CapQ.empty (fun c => { CapQ.empty with newest := c.newest }) x.caps }

/-- The archive cannot journal until it has been replayed: DURABLE lapses (R29).
[DESIGN CHOICE, log row 31] -/
def durableLapse (s : State) : State := if promiseBit s 1 then lapse 1 0x52 0 (archiveFree s) 0 s else s

/-- A device reset: `cause` is 2 RESET_N, 3 warm, 4 watchdog (Table 19-4A).
[DESIGN CHOICE, log row 25; DESIGN CHOICE, log row 31; DESIGN CHOICE, log row 43] -/
def deviceReset (cause : Nat) (s : State) : State :=
  let s1 := dropHeld (resetRings (resetTiles (resetEngines (dropTransfers (debugClose 2 (durableLapse s))))))
  let s2 : State := { s1 with
    cat := { s1.cat with
      vals := s1.cat.vals.filter fun x => keepsValue x.1
      longs := s1.cat.longs.filter fun x => keepsValue x.1
      folio := [], segs := [], reply := none, ready := false }
    net := netReset s1.net
    xfer := XferSt.reset
    ledger := { s1.ledger with ready := false, handovers := [] }
    arch := { s1.arch with st := 0 }
    host := HostSt.reset
    pins := { s1.pins with
      tio := kvMap PinSt.idle (fun x => { PinSt.idle with lastDriven := x.lastDriven }) s1.pins.tio
      stop := s1.pins.stop && !s1.pins.stopN }
    power := { s1.power with asks := [], confirm := [], slow := [] }
    svc := { SvcSt.none with stored := s1.svc.stored }
    boot := { s1.boot with
      steps := s1.boot.steps % 16, running := false, hostImg := [], hostEnd := false, tamperStop := false, startAt := s1.up
      stage := if s1.boot.steps % 16 = 15 then romStage s1 else s1.boot.stage
      nonce := Config.nonce s1.boot.nonces, nonces := s1.boot.nonces + 1 } }
  valPut (callNo 0x1000 8) cause s2

/-- RESET_N has been low for 1 µs: a device reset, held while it is low. -/
def resetN (s : State) : State :=
  if s.boot.held then s else modBoot (fun b => { b with held := true }) (deviceReset 2 s)

/-- RESET_N is high again: BOOT_MODE is sampled and the sequence runs from its boot ROM step (R397, R433). -/
def resetRelease (mode : Nat) (s : State) : State :=
  if s.boot.held = false then s
  else
    let s1 := valPut (callNo 0x1510 2) (mode % 4) s
    modBoot (fun b => { b with
      held := false, startAt := s.up
      stage := if b.steps % 16 = 15 then romStage s1 else b.stage }) s1

/-- A warm reset: device.cmd 0x01 or RSTACT 0x02.
[DESIGN CHOICE, log row 43] -/
def warmReset (s : State) : State := deviceReset 3 s

/-- The firmware has not served its watchdog for 100 ms (R433, R442).
[DESIGN CHOICE, log row 43] -/
def watchdogReset (s : State) : State := if s.boot.running then deviceReset 4 (logEvent 0x85 false 0 0 0 s) else s

/-- The archive as a loss of power leaves it: records not programmed are lost, and a block whose erase was cut short holds nothing and
fails its header check (R323). -/
def archivePowerLoss (a : ArchSt) : ArchSt :=
  { ArchSt.reset with
    journal := a.journal.filter fun r => !a.erasing.contains r.block
    nextSeq := a.journal.foldl (fun n r => max n (r.seq + 1)) 1
    head := a.head, headUsed := a.headUsed, free := a.free, erases := a.erases, retired := a.retired, spares := a.spares
    heads := a.erasing.foldl (fun m b =>
      let h := (kvGet none m b).getD ⟨0, 0, crc32 (leBytes 8 0 ++ leBytes 4 0)⟩
      kvSet none m b (some { h with crc := (h.crc + 1) % 2 ^ 32 })) a.heads }

/-- A power-on reset (R424): what lies in fuses and on the archive die survives, and nothing else.
[DESIGN CHOICE, log row 43] -/
def powerOnReset (s : State) : State :=
  { State.reset with
    pending := s.pending
    drawn := s.drawn
    arch := archivePowerLoss s.arch
    mem := { MemSt.reset with cols := s.mem.cols.filter fun c => c.2.2 }
    boot := { BootSt.reset with
      fuseLc := s.boot.fuseLc, keyHash := s.boot.keyHash, rollback := s.boot.rollback, fusedEng := s.boot.fusedEng
      repairList := s.boot.repairList, repairBad := s.boot.repairBad, slot0 := s.boot.slot0, slot1 := s.boot.slot1
      serial := s.boot.serial, nonce := Config.nonce s.boot.nonces, nonces := s.boot.nonces + 1 } }

/-! ### The life cycle (R436 to R439) -/

/-- A fresh lc.nonce.
[DESIGN CHOICE, log row 4] -/
def freshNonce (s : State) : State := modBoot (fun b => { b with nonce := Config.nonce b.nonces, nonces := b.nonces + 1 }) s

/-- The 128 bytes of a life-cycle command (Table 19-7A). `resv` are its reserved bits, bytes 1 to 3 and 40 to 63. -/
def lcBytes (cmd value : Nat) (nonce serial sig resv : List Byte) : List Byte :=
  leBytes 1 cmd ++ bytesAt resv 0 3 ++ leBytes 4 value ++ bytesAt nonce 0 16 ++ bytesAt serial 0 16 ++ bytesAt resv 3 24 ++ bytesAt sig 0 64

/-- The state a command leads to, if Table 19-6B allows it in the present one. -/
def lcTarget (now cmd : Nat) : Option Nat :=
  match cmd with
  | 1 => if now = 0 then some 1 else none
  | 2 => if now = 1 ∨ now = 3 then some 2 else none
  | 3 => if now = 2 then some 3 else none
  | 4 => if now = 4 then none else some 4
  | _ => none

/-- The checks of R437 and R438 in their order: 0, or the abort code of the first failure.
[DESIGN CHOICE, log row 44] -/
def lcCode (s : State) (b : List Byte) : Nat :=
  let cmd := fieldAt b 0 1
  let v := fieldAt b 4 4
  if fieldAt b 1 3 ≠ 0 ∨ fieldAt b 40 24 ≠ 0 ∨ cmd = 0 ∨ 5 < cmd ∨ (cmd ≠ 5 ∧ v ≠ 0) ∨ 64 < v
      ∨ bytesAt b 24 16 ≠ bytesAt s.boot.serial 0 16 ∨ bytesAt b 8 16 ≠ longRead s (callNo 0x1030 6) then 7
  else if cmd = 1 ∧ ((List.range 3).any fun k => leNat (lcKey s k) == 0) then 7
  else if (cmd = 5 ∧ v ≤ s.boot.rollback) ∨ (cmd ≠ 5 ∧ lcTarget (lifecycle s) cmd = none) ∨ s.boot.lcPending.isSome ∨ s.mem.wipe.isSome then 8
  else if lifecycle s ≠ 0 ∧ ecdsaValid (lcKey s 2) (bytesAt b 64 64) (bytesAt b 0 64) = false then 4
  else 0

/-- A write of lc.cmd: the abort code and the state. A transition waits for its commit; ADVANCE takes effect at once.
[DESIGN CHOICE, log row 44] -/
def lcWrite (b : List Byte) (s : State) : Nat × State :=
  let c := lcCode s b
  let cmd := fieldAt b 0 1
  let s1 := freshNonce s
  if c ≠ 0 then (c, logEvent 0x83 false cmd c 0 s1)
  else if cmd = 5 then (0, modBoot (fun x => { x with rollback := fieldAt b 4 4 }) s1)
  else
    let dst := (lcTarget (lifecycle s) cmd).getD 0
    let s2 := modBoot (fun x => { x with lcPending := some (lifecycle s, dst) }) s1
    (0, if dst = 2 ∨ dst = 3 then journalEntry (callNo 0x1000 7) (leBytes 1 dst) s2 else s2)

/-- An ENTRY record of an entry waits to become durable. -/
def entryWaits (s : State) (call : Nat) : Bool := (s.arch.queue ++ s.arch.prog).any fun r => r.kind == 1 && r.key % 2 ^ 32 == call

/-- The hashes of the keys of lc.keys that are not zero. -/
def keysFused (s : State) : Kv (List Byte) :=
  (List.range 4).foldl (fun m k => if leNat (lcKey s k) = 0 then m else kvSet [] m k (sha256 (lcKey s k))) s.boot.keyHash

/-- The archive after RETIRE: every block of the journal that has been written is erased. -/
def archiveErase (a : ArchSt) : ArchSt :=
  let used := ((a.heads.map fun h => h.1) ++ a.erasing).eraseDups
  { a with
    journal := [], queue := [], prog := [], headUsed := 0, free := a.free ++ used.filter (fun b => b != a.head), erasing := [], heads := []
    erases := used.foldl (fun m b => kvSet 0 m b (kvGet 0 m b + 1)) a.erases
    victim := none, weeding := false }

/-- What the transition itself changes.
[DESIGN CHOICE, log row 44] -/
def lcApply (dst : Nat) (s : State) : State :=
  match dst with
  | 1 => modBoot (fun b => { b with fuseLc := 1, keyHash := keysFused s }) s
  | 4 =>
    let s0 := countErases (slotBlocks s 0 ++ slotBlocks s 1) s
    let s1 : State := { s0 with arch := archiveErase s0.arch, svc := { s0.svc with stored := [] } }
    modBoot (fun b => { b with fuseLc := 4, slot0 := [], slot1 := [] }) s1
  | _ => valPut (callNo 0x1000 7) dst s

/-- A transition commits (R438): its last fuse is blown, or its record is durable.
[DESIGN CHOICE, log row 44] -/
def lifecycleCommit (s : State) : State :=
  match s.boot.lcPending with
  | none => s
  | some (old, dst) =>
    if (dst = 2 ∨ dst = 3) ∧ entryWaits s (callNo 0x1000 7) = true then s
    else
      let s1 := modBoot (fun b => { b with lcPending := none }) (lcApply dst s)
      logEvent 0x82 false old dst s1.boot.rollback (debugClose 3 (startWipe 4 s1))

/-! ### Tamper (R440 to R442) -/

/-- A life-cycle command that waits for its commit is refused when a tamper comes (Table 19-9). The command that leads to a state has
the state's number (Tables 19-6B and 19-7A). -/
def lcCancel (s : State) : State :=
  match s.boot.lcPending with
  | none => s
  | some (old, dst) =>
    let s1 := modBoot (fun b => { b with lcPending := none }) s
    let s2 := if dst = 2 ∨ dst = 3 then journalEntry (callNo 0x1000 7) (leBytes 1 old) s1 else s1
    logEvent 0x83 false dst 8 0 s2

/-- A wipe is triggered; one that a life-cycle commit started takes the tamper's cause. -/
def tamperWipe (src : Nat) (s : State) : State :=
  match s.mem.wipe with
  | some 4 => { s with mem := { s.mem with wipe := some src } }
  | _ => startWipe src s

/-- A tamper source fires, 1 to 3 (Table 19-8): from the fuse step on, in every state. -/
def tamperEvent (src : Nat) (s : State) : State :=
  if !stepDone s 1 then s
  else
    let count := (valGet s (callNo 0x1510 9) + 1) % 2 ^ 32
    let st := valGet s (callNo 0x1040 1)
    let s1 := debugClose 4 (tamperWipe src (lcCancel s))
    let s2 := valPut (callNo 0x1040 3) s.now (valPut (callNo 0x1040 1) (if st.testBit (src - 1) then st else st + 2 ^ (src - 1)) s1)
    let s3 := logEvent 0x84 true src count 0 (valJournal (callNo 0x1510 9) count s2)
    if valGet s (callNo 0x1040 2) = 1 then
      safeStop (idleAllPairs (stopAllEngines (modBoot (fun b => { b with tamperStop := true }) s3)))
    else s3

/-- A write of tamper.state: bits written 1 whose condition has ended clear (R441). Which conditions hold still is the outside's. -/
def tamperClear (v : Nat) (s : State) : State :=
  let still := Config.sensor (callNo 0x1040 1) s.drawn
  let s0 : State := { s with drawn := s.drawn + 1 }
  (List.range 3).foldl (fun a i =>
    let st := valGet a (callNo 0x1040 1)
    if v.testBit i && st.testBit i && !still.testBit i then
      logEvent 0x84 false (i + 1) (valGet a (callNo 0x1510 9)) 0 (valPut (callNo 0x1040 1) (st - 2 ^ i) a)
    else a) s0

end Sys2Proof.Machine
end

