-- ==== Sys2Proof/Machine/Service.lean ====
section
/-! DEFINITION. Machine/Service.lean: svc.cmd, the service jobs that run beside the loader, the stages, and the period mark
(R445 to R448, R457 to R461). -/

namespace Sys2Proof.Machine

/-! ### The marks for fusing (R458, R460) -/

/-- svc.repair.pairs. -/
def cRepairPairs : Nat := callNo 0x1050 0x0A

/-- A pair is marked for fusing, and the mark is journaled. -/
def markRepair (m : Nat) (s : State) : State :=
  let v := leNat (bytesAt (longGet s cRepairPairs) 0 16)
  let b := leBytes 16 (if v.testBit m then v else v + 2 ^ m)
  journalEntry cRepairPairs b (longPut cRepairPairs b s)

/-- REPAIR (R460): an OUT or IDLE pair.
[DESIGN CHOICE, log row 45] -/
def repairJob (j : Nat) (s : State) : State :=
  let m := (getJob s j).cmd.subject
  if (getPair s m).st ≠ .out ∧ pairCode s m ≠ 0 then failJob j 0x13 0 0 s
  else if archiveLow s then failJob j 0x19 0 0 s
  else jobComplete j 4 0 (markRepair m s)

/-- A marked pair is fused with its engines, and its reservation cleared. -/
def fusePair (m : Nat) (s : State) : State :=
  let s1 := fuseOut (checkerOf m) (fuseOut (mainOf m) s)
  let s2 := modBoot (fun b => { b with fusedEng := b.fusedEng ++ [mainOf m, checkerOf m] }) s1
  let s3 := if valGet s2 (cPair m 8) = 0 then s2 else valJournal (cPair m 8) 0 s2
  logEvent 0x27 false m 0 0 s3

/-- SERVICERESET (R460): the fuses of marked pairs and of column repairs are blown, then a warm reset.
[DESIGN CHOICE, log row 45] -/
def serviceReset (j : Nat) (s : State) : State :=
  let l := lifecycle s
  if l ≠ 1 ∧ l ≠ 3 then failJob j 0x1A 0 0 s
  else
    let v := leNat (bytesAt (longGet s cRepairPairs) 0 16)
    let s1 := ((List.range 128).filter fun m => v.testBit m).foldl (fun a m => fusePair m a) s
    let s2 := if v = 0 then s1 else journalEntry cRepairPairs (leBytes 16 0) (longPut cRepairPairs (leBytes 16 0) s1)
    let s3 : State := { s2 with mem := { s2.mem with cols := s2.mem.cols.map fun c => (c.1, c.2.1, true) } }
    let s4 := (List.range 32).foldl (fun a t => valPut (cTile t 0x48) 0 a) (modBoot (fun b => { b with repairList := [] }) s3)
    warmReset s4

/-! ### Self-test (R457, R458) -/

/-- A pair that passed returns: a migrated one takes over its taker's reservation where that fits, an OUT pair is IDLE. -/
def selfReturn (m prior : Nat) (s : State) : State :=
  let p := getPair s m
  let back (a : State) : State := setPair m { Pair.fresh with lastMis := p.lastMis, lastThird := p.lastThird } a
  match prior, p.taker with
  | 2, some k =>
    let s1 := back (if valGet s (cPair k 8) = 0 then s else valJournal (cPair k 8) 0 s)
    if spareFits s1 m then valJournal (cPair m 8) 1 s1 else s1
  | _, _ => if p.st = .out then back s else s

/-- The test runs on a pair that nothing uses: `bad` of the job is what it finds.
[DESIGN CHOICE, log row 45] -/
def selfRun (j m : Nat) (s : State) : State :=
  let b := getJob s j
  match b.bad with
  | none => logEvent 0x26 false m 0 0 (jobComplete j 4 114688 (selfReturn m b.prior s))
  | some x => logEvent 0x26 true m x 0 (failJob j 0x18 x 0 (markRepair m (modPair m (fun p => { p with st := .out }) s)))

/-- A SELFTEST job goes as far as it can: at once on an idle, spare or OUT pair; a checked pair's work migrates first.
[DESIGN CHOICE, log row 45] -/
def selfTry (j : Nat) (s : State) : State :=
  let b := getJob s j
  let m := b.cmd.subject
  let p := getPair s m
  if inArmedPlan s j m then s
  else if p.st = .idle ∨ p.st = .out then selfRun j m s
  else if p.st = .checked ∧ p.mig.isNone ∧ (findSpare s m).isSome then
    setJob j { b with prior := 2 } (startMigration m 0 false s)
  else if p.st = .checked ∨ (b.prior = 2 ∧ (p.st = .restoring ∨ p.st = .handover)) then s
  else failJob j 0x13 0 0 s

/-! ### Calibration (R459) -/

/-- A tile's temperature now, in 0.1 °C, as its sensor gives it. -/
def tileTemp (t : Nat) (s : State) : Int × State :=
  let r := sense (cTile t 9) 16 s
  ((BitVec.ofNat 16 r.1).toInt, r.2)

/-- The vernier of a tile is calibrated at temperature `x`.
[DESIGN CHOICE, log row 45] -/
def calibrate (t : Nat) (x : Int) (s : State) : State := modTile t (fun y => { y with calTemp := x }) s

/-- A CALIB job: a tile that is not on leaves it QUEUED. -/
def calibTry (j : Nat) (s : State) : State :=
  let t := (getJob s j).cmd.subject
  if tileDom s t ≠ 0 then s
  else let r := tileTemp t s; jobComplete j 4 0 (calibrate t r.1 r.2)

/-- tile.temp has moved 30 K from its value at the last calibration: a calibration runs by itself. -/
def autoCalibrate (t : Nat) (x : Int) (s : State) : State :=
  if tileDom s t = 0 ∧ 300 ≤ (x - (getTile s t).calTemp).natAbs then calibrate t x s else s

/-! ### Jobs (R445, R446) -/

/-- One waiting job that runs beside the loader. -/
def sideTry (s : State) (j : Nat) : State :=
  let b := getJob s j
  if b.st ≠ 1 then s
  else match b.cmd.cmd with
    | 7 => selfTry j s
    | 8 => calibTry j s
    | _ => s

/-- The jobs that wait for a spare, a tile or a mark are looked at, and the loader's. -/
def servicePoll (s : State) : State := loaderPoll ((List.range 16).foldl sideTry s)

/-- CANCEL (R453): the ARMED job of slot `k`; a cut-over only until its arming deadline.
[DESIGN CHOICE, log row 45] -/
def cancelJob (j k : Nat) (s : State) : State :=
  let b := getJob s k
  let m := markFrom s b.at_
  if b.st ≠ 3 ∨ (b.cmd.cmd = 5 ∧ (b.checked = true ∨ (m ≠ 0 ∧ m < s.now + 80000))) then failJob j 0x13 0 0 s
  else jobComplete j 4 0 (setJob k { b with st := 6 } s)

/-- The fields of svc.cmd (Table 20-1). -/
def svcParse (b : List Byte) : SvcCmd :=
  { cmd := fieldAt b 0 1, job := fieldAt b 1 1 % 16, source := fieldAt b 2 1, subject := fieldAt b 3 1 % 128, half := fieldAt b 3 1 / 128,
    folio := fieldAt b 4 4, base := fieldAt b 8 2 % 8192, bias := fieldAt b 10 2, at_ := fieldAt b 12 8 }

/-- The 32 bytes of svc.cmd from its fields; `resv` gives the reserved bits: [15:12], [79:77] and bytes 20 to 31. -/
def svcBytes (c : SvcCmd) (resv : Nat) : List Byte :=
  leBytes 1 c.cmd ++ leBytes 1 (c.job % 16 + 16 * (resv % 16)) ++ leBytes 1 c.source ++ leBytes 1 (c.subject % 128 + 128 * (c.half % 2))
    ++ leBytes 4 c.folio ++ leBytes 2 (c.base % 8192 + 8192 * (resv / 16 % 8)) ++ leBytes 2 c.bias ++ leBytes 8 c.at_ ++ leBytes 12 (resv / 128)

/-- The abort code of a write of svc.cmd: RANGE, STATE or 0 (R445).
[DESIGN CHOICE, log row 45] -/
def svcCode (s : State) (b : List Byte) : Nat :=
  let c := svcParse b
  if c.cmd = 0 ∨ 12 < c.cmd ∨ 16 ≤ fieldAt b 1 1 ∨ 8192 ≤ fieldAt b 8 2 ∨ fieldAt b 20 12 ≠ 0 then 7
  else if (c.cmd = 1 ∧ 7 < c.source ∧ c.source ≠ 0xFF) ∨ (c.cmd = 3 ∧ 7 < c.source) ∨ (c.cmd ≠ 1 ∧ c.half ≠ 0) ∨ (c.cmd = 8 ∧ 31 < c.subject) then 7
  else if (getJob s c.job).st = 1 ∨ (getJob s c.job).st = 2 ∨ (getJob s c.job).st = 3 then 8
  else 0

/-- job.subject of a command. -/
def jobSubject (c : SvcCmd) : Nat := if c.cmd = 1 ∨ c.cmd = 2 ∨ c.cmd = 7 ∨ c.cmd = 8 ∨ c.cmd = 9 then c.subject else 0xFFFF

/-- A job is accepted. `bad` is what a self-test finds. -/
def jobAccept (c : SvcCmd) (bad : Option Nat) (s : State) : State :=
  let j := c.job
  let s1 := setJob j { Job.free with st := 1, cmd := c, subject := jobSubject c, bad := bad } s
  match c.cmd with
  | 6 => cancelJob j (c.subject % 16) s1
  | 7 => selfTry j s1
  | 8 => calibTry j s1
  | 9 => repairJob j s1
  | 0x0C => serviceReset j s1
  | _ => loaderQueue j s1

/-- A write of svc.cmd: the abort code and the state. -/
def svcWrite (b : List Byte) (bad : Option Nat) (s : State) : Nat × State :=
  let c := svcCode s b
  if c ≠ 0 then (c, s) else (0, jobAccept (svcParse b) bad s)

/-! ### Stages (R448, R461) -/

/-- A stage is locked while a job reads it. -/
def stageLocked (s : State) (k : Nat) : Bool :=
  match s.svc.waiting with
  | some j => (getJob s j).cmd.cmd == 1 && (getJob s j).cmd.source == k
  | none => false

/-- Bytes land in a stage. -/
def stagePut (k off : Nat) (d : List Byte) (s : State) : State :=
  let b := kvGet [] s.svc.stages k
  let n := max b.length (off + d.length)
  { s with svc := { s.svc with stages := kvSet [] s.svc.stages k (overlayBytes (bytesAt b 0 n) off d) } }

/-- Bytes join the firmware image: all but the first 256 are programmed into the slot. -/
def fwPut (d : List Byte) (s : State) : State :=
  match s.svc.fw with
  | none => s
  | some f =>
    let a := f.data ++ d
    putFwSlot f.slot (if a.length ≤ 256 then [] else List.replicate 256 0xFF#8 ++ a.drop 256) { s with svc := { s.svc with fw := some { f with data := a } } }

/-- The abort code of a chunk for stage `k` at offset `off` (R448, R461). -/
def stageCode (s : State) (k off n : Nat) : Nat :=
  if k = 0xFE then
    match s.svc.fw with
    | none => if slotSize < off + n then 7 else 8
    | some f => if slotSize < off + n then 7 else if off ≠ f.data.length then 0x0A else 0
  else if 0x100000 < off + n then 7
  else if stageLocked s k then 8
  else 0

/-- A chunk lands. -/
def stageTake (k off : Nat) (d : List Byte) (s : State) : State := if k = 0xFE then fwPut d s else stagePut k off d s

/-- A write of svc.stage.chunk: the abort code and the state, with the offset advanced. -/
def chunkWrite (d : List Byte) (s : State) : Nat × State :=
  let k := valGet s (callNo 0x1050 2)
  let off := valGet s (callNo 0x1050 3)
  let c := stageCode s k off d.length
  if c ≠ 0 then (c, s) else (0, valPut (callNo 0x1050 3) (off + d.length) (stageTake k off d s))

/-! ### The period mark (R20, R187, R205, R231, R237, R271, R315, R449, R451, R454) -/

/-- A tile reports the mark: tile.time.mark holds the most recent one whatever the tile's power (Table 09-7), and interrupt source 0 is
raised in the engines of one that is on.
[DESIGN CHOICE, log row 22] -/
def markTile (s : State) (t : Nat) : State :=
  let s1 := valPut (cTile t 0x25) s.now s
  if tileDom s t ≠ 0 then s1 else (List.range 8).foldl (fun a e => setPend (8 * t + e) 0 a) s1

/-- A period mark occurs, at an instant of the present grid.
[DESIGN CHOICE, log row 22] -/
def periodMark (s : State) : State :=
  if markNow s = false then s
  else
    let s1 : State := { s with time := { s.time with mark := some s.now, runFrom := s.up, period := true } }
    let s2 := (List.range 32).foldl markTile (phaseReduce s1)
    let s3 := (List.range 128).foldl (fun a m => substAtMark m (pairAtMark m a)) (refreshAtMark s2)
    let s4 := (List.range 16).foldl jobAtMark (handoversAtMark s3)
    servicePoll (autoAtMark s4)

end Sys2Proof.Machine
end

