-- ==== Sys2Proof/Machine/CatWrite.lean ====
section
/-! DEFINITION. Machine/CatWrite.lean: the catalogue service as every route calls it: reads, writes, INFO, segmented writes, the
control window, and what a write of each entry sets going (R334 to R341, R345, R481). -/

namespace Sys2Proof.Machine

/-! ### Rights (R333, R334, R345, R426) -/

/-- An entry of an engine, pair or tile index: index and subindex of a call number. -/
def callIdx (call : Nat) : Nat := call / 256

/-- Subindex of a call number. -/
def callSub (call : Nat) : Nat := call % 256

/-- Reads that are served before the catalogue is ready (R426). -/
def earlyRead (call : Nat) : Bool :=
  (callIdx call == 0x1000 || callIdx call == 0x1030) && decide (1 ≤ callSub call) && decide (callSub call ≤ 5)

/-- Entries that the rings and the host may not write in FIELD and SERVICE (Table 19-6B): all of 0x1030 but lc.cmd, by which the device
leaves those states (R437).
[DEDUCED, log row 51] -/
def fieldLocked (call : Nat) : Bool :=
  (callIdx call == 0x1030 && callSub call != 7) || callIdx call == 0x1040 || (callIdx call == 0x1000 && decide (5 ≤ callSub call))

/-- The life-cycle state narrows what a ring or the host may do (R334, Table 19-6B).
[DESIGN CHOICE, log row 33; DEDUCED, log row 51] -/
def lcDenied (s : State) (route : Nat) (write : Bool) (call : Nat) : Bool :=
  if route = 0 ∨ route = 4 then false
  else match lifecycle s with
    | 2 => write && fieldLocked call
    | 3 => write && fieldLocked call
    | 4 => write || !(callIdx call == 0x1000 || callIdx call == 0x1030)
    | _ => false

/-- An engine counts as running for its RWS entries (R66, R68). -/
def engineRuns (s : State) (n : Nat) : Bool :=
  let st := shownState s n
  countsChecked (getPair s (pairOf n)) || !(st == .off || st == .retained || st == .halted || st == .fused)

/-- A tile counts as running (R157). -/
def tileRuns (s : State) (t : Nat) : Bool :=
  (List.range 8).any fun e =>
    let st := shownState s (8 * t + e)
    !(st == .off || st == .retained || st == .halted || st == .fused)

/-- A pair or split engine that runs a folio which defines an entry (R345). -/
def ownerRuns (s : State) (o : Nat) : Bool :=
  if o < 128 then countsChecked (getPair s o)
  else
    let st := shownState s (o - 128)
    st == .armed || st == .running || st == .held || st == .debug

/-- The owning unit of an RWS entry runs.
[DESIGN CHOICE, log row 21] -/
def unitRuns (s : State) (call : Nat) : Bool :=
  let i := callIdx call
  if i = 0x1110 then valGet s (callNo 0x1110 4) == 1
  else if i = 0x1050 then s.svc.folios.any fun f => f.sects.any fun x => x.dram
  else if i = 0x1510 then (List.range 16).any fun p => valGet s (cTio p 1) != 0
  else if 0x1600 ≤ i ∧ i < 0x1800 then valGet s (cRing ((i - 0x1600) / 0x100) 1) != 0
  else if 0x1800 ≤ i ∧ i < 0x1840 then chanBusy (getChan s (i - 0x1800))
  else if 0x2000 ≤ i ∧ i < 0x2020 then tileRuns s (i - 0x2000)
  else if 0x2100 ≤ i ∧ i < 0x2200 then engineRuns s (i - 0x2100)
  else if 0x2200 ≤ i ∧ i < 0x2280 then countsChecked (getPair s (i - 0x2200))
  else s.cat.folio.any fun e => e.call == call && e.owners.any (ownerRuns s)

/-! ### Values (R14, R328) -/

/-- Bits of a short entry that are not reserved (R14).
[DESIGN CHOICE, log row 33] -/
def writeMask (call : Nat) : Nat :=
  let i := callIdx call
  let u := callSub call
  if call = callNo 0x1010 3 then 0x7F
  else if call = callNo 0x1220 2 then 0x030F
  else if call = callNo 0x1400 3 then 0x000FFFFF
  else if call = callNo 0x1400 6 then 0x007FFFFF
  else if call = callNo 0x1920 1 then 0x0F
  else if 0x2000 ≤ i ∧ i < 0x2020 ∧ u = 5 then 0x0307
  else if 0x1800 ≤ i ∧ i < 0x1840 ∧ (u = 1 ∨ u = 2) then 0xFFFFFFFFFF
  else if 0x1800 ≤ i ∧ i < 0x1840 ∧ u = 4 then 0x000FFFFF
  else if 0x1800 ≤ i ∧ i < 0x1840 ∧ u = 7 then 0xFFFF03FF
  else if 0x6000 ≤ i ∧ i < 0x6800 then 0x00FF3FFF
  else 2 ^ 64 - 1

/-- The folio-defined entry of a call number that no device-defined entry has (R342). -/
def folioEnt (s : State) (call : Nat) : Option FolioEnt :=
  match deviceDesc call with
  | some _ => none
  | none => s.cat.folio.find? fun e => e.call == call

/-- A value lies outside the range its descriptor states. -/
def descRange (s : State) (call : Nat) (d : Desc) (v : Nat) : Bool :=
  match folioEnt s call with
  | some e =>
    if e.type = 1 then decide (1 < v)
    else realNanOf e.type v || decide (scaleOf e.type e.size v < scaleOf e.type e.size e.min_) || decide (scaleOf e.type e.size e.max_ < scaleOf e.type e.size v)
  | none => decide (typedValue d.type d.size v < d.lo) || decide (d.hi < typedValue d.type d.size v)
where
  /-- A NaN of a real type. -/
  realNanOf (t v : Nat) : Bool := (t == 10 || t == 11) && realNan t v

/-- A value fails a limit of its unit that the descriptor does not state. -/
def unitRange (s : State) (call v : Nat) : Bool :=
  let i := callIdx call
  let u := callSub call
  if call = callNo 0x1110 3 then periodLen s != 0 && decide (periodLen s ≤ v)
  else if call = callNo 0x1050 2 then decide (7 < v) && v != 0xFE
  else if call = callNo 0x1050 7 then v % 256 != 0
  else if call = callNo 0x1220 2 then decide (9 < v % 16) || v / 256 == 3
  else if call = callNo 0x1400 6 then v % 256 == 0 || decide (3 < v % 256)
  else if call = callNo 0x1510 0x0B then (List.range 4).any fun k => decide (5 < bits v (4 * k) 4)
  else if call = callNo 0x1920 1 then v % 4 == 3 || v / 4 == 3
  else if 0x1210 ≤ i ∧ i < 0x1218 then v % 5 != 0 || (u == 3 && decide (v < valGet s (callNo i 2)))
  else if (i = 0x1601 ∨ i = 0x1701) ∧ u = 1 then roleCode s ((i - 0x1601) / 0x100) v == 7
  else if (i = 0x1601 ∨ i = 0x1701) ∧ u = 2 then decide (62500 * 2 ^ v ≤ valGet s (callNo i 7))
  else if (i = 0x1601 ∨ i = 0x1701) ∧ u = 3 then v == 0x88F7 || v == 0x8100
  else if (i = 0x1601 ∨ i = 0x1701) ∧ u = 7 then decide (62500 * 2 ^ valGet s (callNo i 2) ≤ v)
  else if (i = 0x1601 ∨ i = 0x1701) ∧ u = 0x0C then v % 8 != 0
  else if (i = 0x1601 ∨ i = 0x1701) ∧ u = 0x0F then decide (127 < v) && v != 0xFF
  else if 0x1800 ≤ i ∧ i < 0x1840 ∧ u = 8 then decide (255 < v) && v != 0xFFFF
  else if 0x2000 ≤ i ∧ i < 0x2020 ∧ u = 5 then v / 256 == 3
  else if 0x2000 ≤ i ∧ i < 0x2020 ∧ u = 0x10 then decide (v < heavySum s (i - 0x2000) (groupShare s ((i - 0x2000) / 4)) [])
  else if 0x2200 ≤ i ∧ i < 0x2280 ∧ u = 4 then v != 0 && (decide (v < 1000) || decide (16000000 < v))
  else if 0x2200 ≤ i ∧ i < 0x2280 ∧ u = 8 then v == 1 && valGet s call == 0 && !spareFits s (i - 0x2200)
  else if 0x6000 ≤ i ∧ i < 0x6800 ∧ u = 1 then decide (4096 < v % 4096 + bits v 16 8)
  else false

/-- The reserved bits of svc.plan read 0 (R14, Table 20-8). -/
def maskPlan (l : List Byte) : List Byte :=
  (List.range l.length).map fun j =>
    let b := l.getD j 0#8
    if j = 2 then b &&& 0x01#8
    else if (3 ≤ j ∧ j < 16) ∨ 404 ≤ j then 0#8
    else if 16 ≤ j ∧ j < 272 then (if j % 4 < 2 then b else 0#8)
    else if 272 ≤ j ∧ j < 400 then (if j % 4 = 0 then b else if j % 4 = 1 then b &&& 0x7F#8 else 0#8)
    else if j = 401 ∨ j = 403 then 0#8
    else b

/-- The reserved bits of folio.auto read 0 (R14, Table 20-7). -/
def maskAuto (l : List Byte) : List Byte :=
  (List.range l.length).map fun j =>
    let b := l.getD j 0#8
    if 8 ≤ j % 16 then 0#8 else if j % 16 = 5 then b &&& 0x7F#8 else b

/-- A key of lc.keys differs from its fused hash, outside BLANK. -/
def keysDiffer (s : State) (l : List Byte) : Bool :=
  lifecycle s != 0 && (List.range 4).any fun k =>
    let h := kvGet [] s.boot.keyHash k
    h != [] && h != sha256 (bytesAt l (64 * k) 64)

/-- A long value lies outside its entry's range. -/
def longRange (s : State) (call : Nat) (d : Desc) (l : List Byte) : Bool :=
  if d.type = 13 then l.any fun b => decide (b.toNat < 0x20) || decide (0x7E < b.toNat)
  else if call = callNo 0x1030 8 then keysDiffer s l
  else false

/-! ### What a write does -/

/-- A short entry takes a value, journaled where its entry is (R330). -/
def putShort (call v : Nat) (s : State) : State :=
  match descOf s call with
  | some d => if d.jrn then journalEntry call (leBytes d.size v) (valPut call v s) else valPut call v s
  | none => s

/-- A long entry takes a value, journaled where its entry is. -/
def putLong (call : Nat) (l : List Byte) (s : State) : State :=
  match descOf s call with
  | some d => if d.jrn then journalEntry call l (longPut call l s) else longPut call l s
  | none => s

/-- The newest waiting START of a tile keeps the route of its command. -/
def tagWait (t route n : Nat) (s : State) : State :=
  let l := (getTile s t).waiting
  if l.length = n then s
  else modTile t (fun x => { x with waiting := setAt l (l.length - 1) { l.getD (l.length - 1) ⟨0, 0, 0⟩ with route := route } }) s

/-- A command to an engine or a pair of tile t: it is a wake event (Table 18-5), then `f` judges it.
[DESIGN CHOICE, log row 21; DESIGN CHOICE, log row 33] -/
def tileCommand (t route : Nat) (f : State → Nat × State) (s : State) : Nat × State :=
  let n := (getTile s t).waiting.length
  let r := f s
  (r.1, tagWait t route n (wakeEvent (.tile (Fin.ofNat 32 t)) r.2))

/-- Period generator and time entries. -/
def writeTime (call v : Nat) (s : State) : Nat × State :=
  if call = callNo 0x1110 1 ∨ call = callNo 0x1110 2 then (0, phaseReduce (putShort call v s))
  else if call = callNo 0x1110 4 then (0, periodRun v (putShort call v s))
  else if call = callNo 0x1100 3 then (0, timeSource (putShort call v s))
  else if call = callNo 0x1100 8 then (if valGet s (callNo 0x1100 3) = 0 then (0, timeSet v s) else (8, s))
  else (0, putShort call v s)

/-- Ring and port entries: a write wakes the ring's ports (Table 18-5). -/
def writeRing (call v : Nat) (s0 : State) : Nat × State :=
  let i := callIdx call
  let r := (i - 0x1600) / 0x100
  let s := wakeEvent (.dev (Fin.ofNat 10 (2 * r + 1))) (wakeEvent (.dev (Fin.ofNat 10 (2 * r))) s0)
  if (i - 0x1600) % 0x100 = 1 ∧ callSub call = 1 then
    (let c := roleCode s r v; if c ≠ 0 then (c, s) else (0, phaseReduce (roleApply r v (putShort call v s))))
  else if (i - 0x1600) % 0x100 = 1 ∧ callSub call = 0x20 then (if v = 1 then scanCmd r s else stopRelease s)
  else (0, putShort call v s)

/-- Transfer channel entries; EN written 1 wakes the unit (Table 18-5). -/
def writeXf (c u v : Nat) (s : State) : Nat × State :=
  match u with
  | 1 => (0, setChan c { getChan s c with src := v } s)
  | 2 => (0, setChan c { getChan s c with dst := v } s)
  | 4 => let r := xfCtlWrite c v s; (r.1, if v % 2 = 1 then wakeEvent (.dev (Fin.ofNat 10 (5 + c / 16))) r.2 else r.2)
  | _ => (0, putShort (cXf c u) v s)

/-- Tile entries. -/
def writeTile (t u v : Nat) (s : State) : Nat × State :=
  let call := cTile t u
  match u with
  | 0x02 => domRequest (.tile (Fin.ofNat 32 t)) (v - 1) s
  | 0x05 => domRequest (.bank (Fin.ofNat 256 (8 * t + v % 8))) (v / 256) s
  | 0x22 => (0, valPut call (valGet s call - Nat.land (valGet s call) v) s)
  | 0x26 => (0, putShort call v ((List.range 8).foldl (fun a e => modEng (8 * t + e) (fun x =>
      { x with pos := { x.pos with wait := x.pos.wait.map fun w => if x.st = .held then { w with block := x.exc.irqpend } else w } }) a) s))
  | 0x40 => if v = 0 ∧ valGet s call = 1 then (8, s) else (0, putShort call v s)
  | 0x41 => (0, putShort call v (if v = valGet s call then s else wipeStacks t s))
  | _ => (0, putShort call v s)

/-- A pin leaves its mode: pending writes are discarded and counted, and the pin is released (R399). -/
def writeTioMode (p v : Nat) (s : State) : State :=
  let x := getPin s p
  pinHolds p (putShort (cTio p 1) v (bump (cTio p 7) x.pend.length 32 (setPin p { x with pend := [], drive := none } s)))

/-- Entries of a timed pin. -/
def writeTio (p u v : Nat) (s : State) : State :=
  match u with
  | 1 => writeTioMode p v s
  | 3 => pinHolds p (putShort (cTio p 3) v s)
  | _ => putShort (cTio p u) v s

/-- Pair entries. `bad` is what an injection finds. pair.spare is taken in an IDLE pair that still holds a folio too, and the folio stays: Table
11-9 lists no refusal for it.
[DESIGN CHOICE, log row 21] -/
def writePair (route m u v : Nat) (bad : Option Nat) (s : State) : Nat × State :=
  match u with
  | 2 => tileCommand (pairTile m) route (pairCmdWrite m v bad) s
  | 8 => if (getPair s m).st = .idle then (0, servicePoll (putShort (cPair m 8) v s)) else (8, s)
  | _ => (0, putShort (cPair m u) v s)

/-- The single entries whose write acts. `m` is the pair that writes through the window, 255 for any other writer. -/
def writeOne (call v m : Nat) (s : State) : Nat × State :=
  if call = callNo 0x1000 9 then (0, warmReset s)
  else if call = callNo 0x1040 1 then (0, tamperClear v s)
  else if call = callNo 0x1220 2 then domRequest (.dev (Fin.ofNat 10 (v % 16))) (v / 256) s
  else if call = callNo 0x1300 4 then (0, weed true (wakeEvent (.dev 9) s))
  else if call = callNo 0x1400 3 then (0, submitPair m v s)
  else if call = callNo 0x1400 4 then (0, ledgerDone m v s)
  else if call = callNo 0x1400 6 then ledgerCmd v s
  else (0, putShort call v s)

/-- The effect of a write of a short entry whose value has passed the checks: the abort code and the state. -/
def applyShort (route who call v : Nat) (bad : Option Nat) (s : State) : Nat × State :=
  let i := callIdx call
  let u := callSub call
  if i = 0x1100 ∨ i = 0x1110 then writeTime call v s
  else if 0x1600 ≤ i ∧ i < 0x1800 then writeRing call v s
  else if 0x1800 ≤ i ∧ i < 0x1840 then writeXf (i - 0x1800) u v s
  else if 0x1930 ≤ i ∧ i < 0x1934 then (0, if v = 1 then xfuDisable (i - 0x1930) s else xfuReenable (i - 0x1930) s)
  else if 0x2000 ≤ i ∧ i < 0x2020 then writeTile (i - 0x2000) u v s
  else if 0x2100 ≤ i ∧ i < 0x2200 ∧ u = 2 then tileCommand ((i - 0x2100) / 8) route (engCmdWrite (i - 0x2100) v) s
  else if 0x2200 ≤ i ∧ i < 0x2280 then writePair route (i - 0x2200) u v bad s
  else if 0x1520 ≤ i ∧ i < 0x1530 then (0, writeTio (i - 0x1520) u v s)
  else writeOne call v (if who < 256 then pairOf who else 255) s

/-- The effect of a write of a long entry whose value has passed the checks. -/
def applyLong (call : Nat) (l : List Byte) (bad : Option Nat) (s : State) : Nat × State :=
  if call = callNo 0x1030 7 then lcWrite l s
  else if call = callNo 0x1050 1 then svcWrite l bad s
  else if call = callNo 0x1050 4 then chunkWrite l s
  else if call = callNo 0x1050 5 then (0, putLong call (maskPlan l) s)
  else if call = callNo 0x1050 6 then (0, putLong call (maskAuto l) s)
  else if call = cStreams then (let m := maskStreams l; let c := streamsCode s m; if c ≠ 0 then (c, s) else (0, putStreams m s))
  else (0, putLong call l s)

/-! ### Whole writes -/

/-- The abort code that forbids writing an entry at all, 0 = none (R335). -/
def accessCode (s : State) (route call : Nat) : Nat :=
  if s.cat.ready = false then 8
  else match descOf s call with
    | none => 1
    | some d =>
      if d.acc = 0 ∨ d.acc = 4 then 2
      else if lcDenied s route true call then 4
      else if d.acc = 3 ∧ unitRuns s call = true then 5
      else 0

/-- A whole value is written: the abort code, and the state. `who` is the engine that stores through the window, 256 for any other
writer; `bad` is what a self-test or an injection finds.
[DEDUCED, log row 7; DESIGN CHOICE, log row 33] -/
def writeValue (route who call : Nat) (l : List Byte) (bad : Option Nat) (s : State) : Nat × State :=
  let c := accessCode s route call
  if c ≠ 0 then (c, s)
  else match descOf s call with
    | none => (1, s)
    | some d =>
      if shortType d.type then
        let v := Nat.land (leNat l) (writeMask call)
        if l.length ≠ d.size then (6, s)
        else if descRange s call d v || unitRange s call v then (7, s)
        else
          let r := applyShort route who call v bad s
          if r.1 = 0 ∧ d.jrn = true ∧ archiveLow s = true then (0x0C, s) else r
      else if (d.type = 15 ∧ l.length ≠ d.size) ∨ d.size < l.length then (6, s)
      else if longRange s call d l then (7, s)
      else
        let r := applyLong call l bad s
        if r.1 = 0 ∧ d.jrn = true ∧ archiveLow s = true then (0x0C, s) else r

/-- A write of lc.cmd that is refused before its own checks replaces lc.nonce and logs event 0x83 as any refusal does (R437).
[DESIGN CHOICE, log row 33] -/
def lcRefused (call : Nat) (l : List Byte) (s : State) (r : Nat × State) : Nat × State :=
  if call = callNo 0x1030 7 ∧ r.1 ≠ 0 ∧ r.2.boot.nonces = s.boot.nonces then (r.1, logEvent 0x83 false (fieldAt l 0 1) r.1 0 (freshNonce r.2))
  else r

/-! ### Segmented writes (R336, R337) -/

/-- The open segmented write of an entry is closed. -/
def segDrop (call : Nat) (s : State) : State := { s with cat := { s.cat with segs := s.cat.segs.filter fun g => g.call != call } }

/-- A segment of a write: the abort code and the state. The value is applied when the last one has come.
[DESIGN CHOICE, log row 33] -/
def segWrite (route call off : Nat) (d : List Byte) (last : Bool) (s : State) : Nat × State :=
  let c := accessCode s route call
  match s.cat.segs.find? fun g => g.call == call with
  | none =>
    if c ≠ 0 then (c, s)
    else if off ≠ 0 then (0x0A, s)
    else if last then writeValue route 256 call d none s
    else (0, { s with cat := { s.cat with segs := s.cat.segs ++ [⟨call, route, d, s.up⟩] } })
  | some g =>
    if c ≠ 0 then (c, if g.route = route then segDrop call s else s)
    else if off = 0 then (9, s)
    else if g.route ≠ route then (0x0A, s)
    else if off ≠ g.data.length then (0x0A, segDrop call s)
    else if last then writeValue route 256 call (g.data ++ d) none (segDrop call s)
    else (0, { s with cat := { s.cat with segs := s.cat.segs.map fun x => if x.call = call then { x with data := x.data ++ d, at_ := s.up } else x } })

/-- A segmented write has been idle for more than 100 ms: it fails with TIMEOUT. -/
def segTimeout (call : Nat) (s : State) : State :=
  match s.cat.segs.find? fun g => g.call == call with
  | some g => if g.at_ + 400000000 < s.up then noteAbort g.route call 0x0B (segDrop call s) else s
  | none => s

/-! ### The services (R334) -/

/-- The abort code of a READ, 0 = served. -/
def readCode (s : State) (route call : Nat) : Nat :=
  if s.cat.ready = false then (if earlyRead call then 0 else 8)
  else match descOf s call with
    | none => 1
    | some d => if d.acc = 2 then 3 else if lcDenied s route false call then 4 else 0

/-- The value of an entry as bytes, and the state after a read. -/
def valueBytes (call : Nat) (s : State) : List Byte × State :=
  match descOf s call with
  | some d => if shortType d.type then (let r := shortRead call s; (leBytes d.size r.1, r.2)) else (longRead s call, s)
  | none => ([], s)

/-- MIN and MAX as INFO shows them: 64 bits each, 0 for a long type. -/
def infoLimits (s : State) (call : Nat) (d : Desc) : List Byte :=
  if shortType d.type = false then List.replicate 16 0#8
  else match folioEnt s call with
    | some e => leBytes 8 e.min_ ++ leBytes 8 e.max_
    | none => leBytes 8 (d.lo % 2 ^ 64).toNat ++ leBytes 8 (d.hi % 2 ^ 64).toNat

/-- What INFO returns: descriptor (Table 15-3), MIN, MAX and name. -/
def infoBytes (s : State) (call : Nat) (d : Desc) : List Byte :=
  let folio := decide (0x3000 ≤ callIdx call ∧ callIdx call < 0x6000)
  let head := d.type + 256 * d.acc + bitAt d.jrn 11 + bitAt (taskWritable s call) 12 + bitAt folio 13 + 65536 * d.size
  leBytes 8 head ++ leBytes 8 (if shortType d.type then unitDefault call d.dflt else 0) ++ infoLimits s call d
    ++ (if folio then Config.folioName call else textBytes d.name)

/-- Part of a value from an offset, and whether the value ends with it. -/
def chunkOf (l : List Byte) (off n : Nat) : List Byte × Bool := ((l.drop off).take n, decide (l.length ≤ off + n))

/-- A request's answer, noted as the last one given, and a refusal recorded (R335). -/
def answer (route call code : Nat) (l : List Byte) (last : Bool) (s : State) : SvcOut :=
  let s1 := if code = 0 then s else noteAbort route call code s
  { code := code, bytes := l, last := last, st := { s1 with cat := { s1.cat with reply := some ⟨route, call, code, l⟩ } } }

/-- The catalogue service for a request of a ring, the host or the debug port. A short value is written whole; the debug port
writes one of more than 4 bytes in segments (R402). -/
def serve : CatServe := fun route kind call off d last n s =>
  match kind with
  | 1 =>
    let c := readCode s route call
    if c ≠ 0 then answer route call c [] true s
    else
      let v := valueBytes call s
      let p := chunkOf v.1 off n
      answer route call 0 p.1 p.2 v.2
  | 2 =>
    let wide : Bool := match descOf s call with
      | some x => !shortType x.type || (route == 4 && decide (4 < x.size))
      | none => false
    let r := lcRefused call d s (if wide then segWrite route call off d last s
      else if accessCode s route call = 0 ∧ off ≠ 0 then (6, s)
      else writeValue route 256 call d none s)
    answer route call r.1 [] true r.2
  | _ =>
    if s.cat.ready = false then answer route call 8 [] true s
    else match descOf s call with
      | none => answer route call 1 [] true s
      | some x => let p := chunkOf (infoBytes s call x) off n; answer route call 0 p.1 p.2 s

/-! ### The control window (R338 to R341) -/

/-- A refusal to an engine is recorded in its tile too (R341). -/
def windowAbort (n call code : Nat) (s : State) : State :=
  let t := tileOf n
  bump (cTile t 0x0E) 1 32 (valPut (cTile t 0x0D) (code + call % 16777216 * 2 ^ 32 + n % 8 * 2 ^ 56) (noteAbort 0 call code s))

/-- A load of `k` bytes at `off` in a slot: a short value, or the present length of a long one. -/
def windowLoad : CatLoad := fun n call off k s =>
  let c := readCode s 0 call
  if c ≠ 0 then (c, 0, windowAbort n call c s)
  else match descOf s call with
    | none => (1, 0, windowAbort n call 1 s)
    | some d =>
      let r := if shortType d.type then shortRead call s else ((longRead s call).length, s)
      (0, r.1 / 256 ^ off % 256 ^ k, r.2)

/-- A store of `k` bytes at `off` in a slot. -/
def windowStore : CatStore := fun n call off k v s =>
  let c := accessCode s 0 call
  let r :=
    if c ≠ 0 then (c, s)
    else match descOf s call with
      | none => (1, s)
      | some d => if shortType d.type = false ∨ off ≠ 0 ∨ k ≠ d.size then (6, s) else writeValue 0 n call (leBytes k v) none s
  if r.1 = 0 then r else let x := lcRefused call (leBytes k v) s r; (x.1, windowAbort n call x.1 x.2)

/-! ### A command that is the write of an entry -/

/-- Bytes of a short entry's value. -/
def shortBytes (s : State) (call v : Nat) : List Byte := leBytes (match descOf s call with | some d => d.size | none => 8) v

/-- A command that is the write of an entry on a route, 0 the control window of engine `who`: the whole value at once. The window takes
no long entry, and the debug port none while it is closed or in FIELD (R341, R402).
[DEDUCED, log row 7] -/
def catCommand (route who call : Nat) (l : List Byte) (bad : Option Nat) (s : State) : State :=
  if route = 4 ∧ (valGet s cDbgOpen = 0 ∨ lifecycle s = 2) then s
  else
    let long : Bool := match descOf s call with | some d => !shortType d.type | none => false
    let r := lcRefused call l s (if route = 0 ∧ accessCode s 0 call = 0 ∧ long = true then (6, s) else writeValue route who call l bad s)
    if route = 0 then
      let s1 := if r.1 = 0 then r.2 else windowAbort who call r.1 r.2
      { s1 with cat := { s1.cat with reply := some ⟨0, call, r.1, []⟩ } }
    else (answer route call r.1 [] true r.2).st

end Sys2Proof.Machine
end

