-- ==== Sys2Proof/Machine/Entries.lean ====
section
/-! DEFINITION. Machine/Entries.lean: a bundle's step, the heavy-unit meter, and the entries of exceptions and interrupts (R44, R54, R55,
R154, R155, R189 to R209, R225). -/

namespace Sys2Proof.Machine

/-! ### Interrupts (R197, R200, R207) -/

/-- An entry's token joins the delay chain with one for each further step, and its steps count towards the next capture. -/
def entryToken (m : Nat) (k : TokKind) (i : Inp) (due : List Due) (items : List Item) (s : State) : State :=
  pushTokens m ⟨k, i, AccRes.nil, AccRes.nil, due, items, []⟩ 9 (modPair m (fun p => { p with sinceCap := p.sinceCap + 10 }) s)

/-- An eligible interrupt is taken (R197, R200, R206); `over` names a source whose event comes in the first 6 entry steps and takes the
entry over where R205 would choose it (R207). An RFE whose source is no longer eligible pops its frame.
[DESIGN CHOICE, log row 15] -/
def interruptEntry (n : Nat) (alt : Option Nat) (s : State) : State :=
  let m := pairOf n
  let p := getPair s m
  match irqTaken s n with
  | none =>
    let e := getEng s n
    if issuesItself s n = false ∨ e.exc.rfe = false then s
    else
      let i := sampleInp s n 1
      let r := popFrame i e
      let s1 := setEng n r.eng s
      let s2 := if r.late then countLate n s1 else s1
      pairAfter m (applyEngCmd n (
        if pairSplit p then splitSteps n 2 false s2
        else pushTokens m ⟨.pop, i, AccRes.nil, AccRes.nil, [], entryItems e r.eng, []⟩ 1 (modPair m (fun p => { p with sinceCap := p.sinceCap + 2 }) s2)))
  | some k =>
    let s1 := match alt with | some j => if inReplay p then s else setPend n j s | none => s
    let j := if inReplay p then k else (irqTaken s1 n).getD k
    let i := sampleInp s n 1
    let e0 := getEng s1 n
    let e := takeIrq j e0
    let s2 := setEng n e s1
    pairAfter m (applyEngCmd n (
      if pairSplit p then splitSteps n 10 false s2
      else entryToken m (.irq j) i [] (entryItems e0 e) (logItems m [(0x0B, BitVec.ofNat 32 (j + bitAt (j != k) 5))] s2)))

/-! ### Exceptions at a boundary (R190, R197, R201, R202) -/

/-- An exception due at the boundary is taken: the lowest code, and the log gets a record for each exception from outside (Table 11-4);
while the reserved frame is occupied it is a third fault (R202). -/
def exceptionEntry (n : Nat) (s : State) : State :=
  let m := pairOf n
  let p := getPair s m
  let e := closeWindow (getEng s n)
  let due := dueNow s n
  if issuesItself s n = false ∨ (e.st ≠ .running ∧ ¬(e.st = .restoring ∧ inReplay p = true)) ∨ e.pos.ins ≠ 0 ∨ e.exc.rfe = true then s
  else match lowestDue due with
    | none => s
    | some d =>
      if e.exc.dframe.isSome then thirdFault n d.addr false s
      else
        let i := sampleInp s n 1
        let e2 := enterExc d { e with exc := { e.exc with due := due } }
        let s1 := setEng n e2 s
        if pairSplit p then splitSteps n 10 false s1
        else
          let out := due.filter outsideDue
          let s2 := logItems m (out.map fun x => (0x0C, BitVec.ofNat 32 x.code)) s1
          let s3 := if inReplay p then s2 else modPair m (fun q => { q with dues := (q.dues ++ out).take ((getPair s2 m).logN - p.logN + p.dues.length) }) s2
          entryToken m .exc i out (entryItems e e2) s3

/-- An atomic window still open after its n steps (R209). -/
def atomicOverrun (n : Nat) (s : State) : State := if issuesItself s n then modEng n closeWindow s else s

/-! ### A bundle's step -/

/-- Engine-state items of a debugger's write as the log names them are applied again at their boundary, where the log has them next (R240);
`put` writes one. -/
def replayDebug (put : Nat → Word → Engine → Engine) (m : Nat) (s : State) : State :=
  let p := getPair s m
  let dbg (r : LogRec) : Bool := r.kind == 0x0D || r.kind == 0x0E
  let here := (p.rlog.filter fun r => decide (0x0B ≤ r.kind ∧ r.kind ≤ 0x0E) && r.count == p.count % 2 ^ 24).takeWhile dbg
  if inReplay p = false ∨ here = [] then s
  else
    let its := (here.filter fun r => r.kind == 0x0D).zip (here.filter fun r => r.kind == 0x0E)
    let f (e : Engine) : Engine := its.foldl (fun a x => put x.1.value.toNat x.2.value a) e
    let s1 := drainChain 64 m 0 s
    if (getPair s1 m).phase = .resetting then s1
    else modPair m (fun q => { q with rlog := here.foldl (fun l r => l.erase r) q.rlog }) (modEng (mainOf m) f (modEng (checkerOf m) f s1))

/-- Parcels of the bundle at engine n's program counter fail their parity: bit i of `u` is parcel i (R72). -/
def upsetParcels (n u : Nat) (s : State) : State :=
  if u = 0 then s
  else modEng n (fun e => { e with pbad := e.pbad ++ ((List.range 4).filter fun i => u.testBit i).map fun i => (e.pos.pc, i) }) s

/-- One bundle issues in one step of `q` quarter-nanoseconds (R44). A bundle that must hold for lsu.q data spends a stall step instead
(R54).
[DESIGN CHOICE, log row 12] -/
def bundleIssue (n q : Nat) (s : State) : State := if bundleNext s n then issueOne n q s else s

/-- An engine that holds a bundle for lsu.q data spends a stall step (R54).
[DESIGN CHOICE, log row 12] -/
def engineStall (n : Nat) (s : State) : State :=
  if mayIssue s n = true ∧ (issueStep (sampleInp s n 1) (accessCheck s n) (getEng s n)).stalled = true then issueOne n 1 s else s

/-! ### The heavy-unit meter (R154, R155) -/

/-- A meter stall step of engine n: it counts, and an engine that would issue spends the step with its bundle held.
[DESIGN CHOICE, log row 13] -/
def meterStall (s : State) (n : Nat) : State :=
  let s1 := modEng n (fun e => { e with ctr := { e.ctr with stallHeavy := (e.ctr.stallHeavy + 1) % 2 ^ 32 } }) s
  let m := pairOf n
  if mayIssue s1 n = true ∧ (getEng s1 n).heldLsu = false then
    let i := sampleInp s1 n 1
    let s2 := modEng n (fun e => addSteps 1 { e with heldHeavy := true }) s1
    if pairSplit (getPair s m) then splitSteps n 1 false s2
    else pushTokens m ⟨.meter, i, AccRes.nil, AccRes.nil, [], [], []⟩ 0 (modPair m (fun p => { p with sinceCap := p.sinceCap + 1 }) s2)
  else s1

/-- The engines of a tile.
[DESIGN CHOICE, log row 13] -/
def tileEngines (t : Nat) : List Nat := (List.range 8).map fun e => 8 * t + e

/-- An engine that exceeds its share is marked; a checker's mark reaches its main copy (R154, R155, R217). A pair that restarts takes 0x0B
from its log only (R225). -/
def meterMark (s : State) (n : Nat) : State :=
  let e := getEng s n
  if valGet s (cEng n 0x0B) < e.acts.foldl (· + ·) 0 ∧ (getPair s (pairOf n)).phase = .none then
    let k := if countsChecked (getPair s (pairOf n)) then mainOf (pairOf n) else n
    modEng k (fun x => { x with marked := some (x.actAddr, x.actFirst) }) s
  else s

/-- A mark falls due at the boundary after the stall: at once where the engine stands at one, else at its next (R155).
[DESIGN CHOICE, log row 13; DEDUCED, log row 14] -/
def markDue (s : State) (n : Nat) : State :=
  let e := getEng s n
  match e.marked with
  | none => s
  | some a =>
    let d : Due := ⟨0x0B, a.1, false, false, a.2⟩
    let now : Bool := e.st == .running && !e.heldLsu && e.pos.ins == 0 && !e.exc.rfe && !(e.exc.fresh.any fun f => f.issued == 0)
    if now then setEng n { e with marked := none, exc := { e.exc with due := e.exc.due ++ [d] } } s
    else setEng n { e with marked := none, exc := { e.exc with keep := e.exc.keep ++ [d] } } s

/-- The meter step of tile t that ends is counted or pays debt (R154). `rel`: a release of a timed wait or an ARMED start falls due in
the meter step that begins. Activations that a stall step's tokens bring are charged in the next step that is no stall (R156).
[DESIGN CHOICE, log row 13] -/
def meterStep (t : Nat) (rel : Bool) (s : State) : State :=
  let x := getTile s t
  let es := tileEngines t
  if x.dom ≠ 0 then s
  else if 0 < x.debt ∧ x.relStep = false then
    let s1 := es.foldl meterStall s
    let s2 := es.foldl (fun a n => modEng n (fun e => { e with acts := (0 :: e.acts).take 16 }) a) s1
    let s3 := modTile t (fun y => { y with window := (0 :: y.window).take 16, debt := y.debt - 1, stall := true, relStep := rel }) s2
    if x.debt = 1 then es.foldl markDue s3 else s3
  else
    let a := (es.map fun n => (getEng s n).actNow).foldl (· + ·) 0
    let prior := (x.window.take 15).foldl (· + ·) 0
    let excess := min a (prior + a - valGet s (cTile t 0x10))
    let s1 := es.foldl (fun b n => modEng n (fun e => { e with acts := (e.actNow :: e.acts).take 16, actNow := 0 }) b) s
    let s2 := modTile t (fun y => { y with window := (a :: y.window).take 16, debt := y.debt + excess, stall := false, relStep := rel }) s1
    let s3 := bump (cTile t 0x12) excess 32 s2
    if 0 < excess ∧ valGet s (cTile t 0x11) = 1 then es.foldl meterMark s3
    else if x.debt = 0 then es.foldl markDue s3 else s3

/-! ### Source events (R204, Table 10-6) -/

/-- Sources whose event concerns one engine; the others have one event for every engine. -/
def ownSource (k : Nat) : Bool := decide (k ≤ 2) || decide (7 ≤ k ∧ k ≤ 11) || decide (30 ≤ k)

/-- An event of source `k`, at engine n where the source's event is an engine's own. -/
def sourceEvent (k n : Nat) (s : State) : State := if ownSource k then setPend n k s else setPendAll k s

end Sys2Proof.Machine
end

