-- ==== Sys2Proof/Machine/Recovery.lean ====
section
/-! DEFINITION. Machine/Recovery.lean: what happens to a pair of its own accord: captures that fall due, mismatches, the restart, an overrun,
checker faults and the catch-up of a spare (R221 to R234). -/

namespace Sys2Proof.Machine

/-- pair.ckpt.interval steps have passed since the last capture (R221).
[DESIGN CHOICE, log row 20] -/
def captureInterval (m : Nat) (s : State) : State :=
  let p := getPair s m
  let n := valGet s (cPair m 4)
  if (countsChecked p = true ∨ mergeWaits p = true) ∧ n ≠ 0 ∧ n ≤ p.sinceCap then setPair m { p with capDue := true } s else s

/-- The spare of a checker fault has not caught up before the log filled (R233): it stops, and the home pair stays UNCHECKED. -/
def catchUpFailed (m : Nat) (s : State) : State :=
  match (getPair s m).mig with
  | some g => logEvent 0x24 true m g.spare 0 (loseMask m (modPair m (fun p => { p with mig := none }) s))
  | none => s

/-- The input log has reached 1,344 records (R221); the kept log of a checker fault has filled (R233).
[DESIGN CHOICE, log row 20] -/
def logFull (m : Nat) (s : State) : State :=
  let p := getPair s m
  if p.logKept then (if 1408 ≤ p.logN then catchUpFailed m s else s)
  else if countsChecked p = true ∧ 1344 ≤ p.logN ∧ p.capDue = false then setPair m { p with capDue := true } s
  else s

/-- A due capture is taken, where the boundary permits it (R221, R222). -/
def checkpoint (m : Nat) (s : State) : State :=
  if mergeReady s m then takeMergeCapture m s
  else if (getPair s m).capDue = true ∧ captureAllowed s m = true then captureFollow m s
  else s

/-- A compared item of pair m differs, by a fault of one engine (R224), also while a restart resets, restores or replays (R34, R227). -/
def itemDiffers (m : Nat) (s : State) : State := if compares (getPair s m) then mismatch m (armedOut s m) s else s

/-- Both engines have been reset (Table 11-5): the restore begins. -/
def resetDone (m : Nat) (s : State) : State :=
  if (getPair s m).phase = .resetting then modPair m (fun p => { p with phase := .restoring }) s else s

/-- The 60 restore steps have ended and the CRC is checked (Table 11-5).
[DESIGN CHOICE, log row 18; DESIGN CHOICE, log row 37] -/
def restoreDone (m : Nat) (bad : Bool) (s : State) : State :=
  if (getPair s m).phase = .restoring then restorePair m bad s else s

/-- Replay reaches Br, and every entry and debugger's write logged at that boundary has been taken (R225, R240). `bad`: the log had an
uncorrectable error (Table 11-7, R229).
[DESIGN CHOICE, log row 37] -/
def replayEnd (put : Nat → Word → Engine → Engine) (m : Nat) (bad : Bool) (s0 : State) : State :=
  let s := replayDebug put m s0
  let p := getPair s m
  match p.phase with
  | .replay br => if bad then unrecoverable m s else if br ≤ p.count ∧ (nextEvent p p.count).isNone then replayDone m s else s
  | _ => s

/-- The DEADLINE of the segment in which the mismatch was detected has come, and the pair still restarts (R228). -/
def recoveryOverrun (m : Nat) (s : State) : State :=
  let p := getPair s m
  match p.dead with
  | some d =>
    if p.phase ≠ .none ∧ d.1 ≤ s.now then
      logEvent 0x23 false m d.2 0 (pairEvent m 8 (setPair m { p with subst := true, dead := none } s))
    else s
  | none => s

/-- A checker fault (R230, R233, R234): `lane` is the compare lane or the delay-chain stage. The pair continues UNCHECKED, and a free
spare sets out to catch up with it.
[DEDUCED, log row 19] -/
def checkerFault (m lane : Nat) (s : State) : State :=
  let p := getPair s m
  if compares p = false then s
  else
    let s1 := pairEvent m 0 (logEvent 0x21 false m lane 0 s)
    let s2 := match p.mig with
      | some g => modPair m (fun q => { q with mig := some { g with armed := false, fault := true } }) s1
      | none => startMigration m 0 true s1
    modPair m (fun q =>
      let k : Pair := { q with logKept := true, capDue := false }
      if q.st = .restoring then { k with after := .unchecked } else if q.st = .debug then { k with prev := .unchecked } else { k with st := .unchecked }) s2

/-- An engine of the spare as its replay leaves it at the tu.wait at which the home main copy `e` is HELD (R233).
[DEDUCED, log row 19] -/
def caughtUp (e : Engine) (steps : Nat) (old : Engine) : Engine :=
  { e with
    pmem := old.pmem, pbad := old.pbad, slotFetch := old.slotFetch, rq := old.rq, stb := [], pwb := [], lockN := none, lockOpen := false
    past := old.past, pastSt := old.pastSt ++ old.stb
    ldq := e.ldq.map fun l => if l.data.isSome then l else { l with perf := none, logged := none }
    ctr := ⟨steps, 0, 0, 0⟩, cause := old.cause, marked := none, acts := old.acts, actNow := old.actNow, actAddr := old.actAddr
    actFirst := old.actFirst }

/-- The spare of a checker fault has caught up with the home main copy, which is HELD in a timed wait, and takes over (R232, R233), with the
home pair's slot and log in its own part of bank 7.
[DEDUCED, log row 19] -/
def spareCatchUp (m : Nat) (s : State) : State :=
  let p := getPair s m
  let e := getEng s (mainOf m)
  match p.mig with
  | some g =>
    if g.fault = true ∧ g.copied = true ∧ p.st = .unchecked ∧ e.st = .held ∧ p.valid = true ∧ p.logN < 1408 then
      let k := g.spare
      let s0 := drainChain 64 m 0 s
      let s1 := haltPair m (copyBytes (logAt m 0) (logAt k 0) (8 * p.logN) (copyBytes (slotAt m p.cur) (slotAt k false) 320 s0))
      let s2 := moveQueue (mainOf m) (mainOf k) s1
      let steps := 60 + p.count
      let s3 := modEng (mainOf k) (caughtUp e steps)
        (modEng (checkerOf k) (fun c => { caughtUp e steps c with st := .running, rq := ⟨[], false, false⟩ }) s2)
      let q : Pair := { Pair.fresh with
        st := .checked, valid := true, logN := p.logN, void := p.void, dues := p.dues, count := p.count, sinceCap := p.count
        captures := p.captures, outseq := (getPair s0 m).outseq, lastThird := p.lastThird }
      let s4 := setPair k q (modPair m (fun x => { x with
        st := .out, chain := [], phase := .none, capDue := false, mig := none, taker := some k, cmd := 0, cmdDue := false, subst := false
        held := false, logKept := false }) s3)
      tryMask k (workFollows m k [] (logEvent 0x24 false m k 0 s4))
    else s
  | none => s

end Sys2Proof.Machine
end

