-- ==== Sys2Proof/Machine/Debug.lean ====
section
/-! DEFINITION. Machine/Debug.lean: the TAP and the debug port (R401, R402, R439, R240). -/

namespace Sys2Proof.Machine

/-! ### Engine-state items (R402, Table 17-13) -/

/-- A writable item as read. -/
def itemRead (e : Engine) (k : Nat) : Word :=
  if k < 24 then kvGet 0#32 e.g k
  else if k = 0x18 then (if e.flag then 1#32 else 0#32)
  else if k < 0x30 then latchRead e.lat (k - 0x20)
  else if k < 0x37 then resultRead e.res (k - 0x30)
  else if k = 0x37 then BitVec.ofNat 32 e.lnk
  else BitVec.ofNat 32 e.pos.pc

/-- A writable item takes a value. -/
def itemWrite (k : Nat) (v : Word) (e : Engine) : Engine :=
  if k < 24 then { e with g := kvSet 0#32 e.g k v }
  else if k = 0x18 then { e with flag := v.getLsbD 0 }
  else if k < 0x30 then { e with lat := latchWrite e.lat (k - 0x20) v }
  else if k < 0x37 then { e with res := resultWrite e.res (k - 0x30) v }
  else if k = 0x37 then { e with lnk := v.toNat % 8192 }
  else { e with pos := { e.pos with pc := v.toNat % 8192 } }

/-- An item number that is not reserved. -/
def itemKnown (k : Nat) : Bool := decide (k ≤ 0x18) || decide (0x20 ≤ k ∧ k ≤ 0x38) || k == 0x40

/-- Frame f: 0 to 7 of the save stack, counted from the outermost, 8 the reserved frame. -/
def frameAt (x : ExcSt) (f : Nat) : Option Frame := if f = 8 then x.dframe else x.frames.reverse[f]?

/-- Word 0 of an occupied frame: kind, number and the occupied bit. -/
def frameHead : FrameKind → Nat
  | .irq s => 256 * s + 2147483648
  | .exc c => 1 + 256 * c + 2147483648
  | .sys k => 2 + 256 * k + 2147483648
  | .dbl c => 3 + 256 * c + 2147483648

/-- Words 12 to 57 of a frame that holds a unit context. `ctx` is the context's number, `irq` an interrupt frame. -/
def frameUnit (e : Engine) (ctx : Nat) (irq : Bool) (u : UnitCtx) (w : Nat) : Nat :=
  let es := ctxEntries e ctx
  if w < 28 then (latchRead u.lat (w - 12)).toNat
  else if w < 35 then (resultRead u.res (w - 28)).toNat
  else if w = 35 then es.length + 16 * joinFields 1 es.length (fun i => bitAt ((es.getD i (false, 0#32, 0)).1) 0)
  else if w < 44 then (es.getD (w - 36) (false, 0#32, 0)).2.1.toNat
  else if w = 44 then joinFields 3 es.length fun i => (es.getD i (false, 0#32, 0)).2.2
  else if irq = false then 0
  else if w < 51 then
    match u.mulP[(w - 45) / 2]? with
    | some o => (if (w - 45) % 2 = 0 then o.value.toNat % 2 ^ 32 else o.value.toNat / 2 ^ 32)
    | none => 0
  else if w = 51 then
    u.mulP.length + 4 * joinFields 2 u.mulP.length (fun i => ((u.mulP.map fun o => o.left).getD i 0) % 4)
      + 256 * u.fpuP.length + 2048 * joinFields 3 u.fpuP.length (fun i => ((u.fpuP.map fun o => o.left).getD i 0) % 8)
  else if w < 56 then ((u.fpuP.map fun o => o.value).getD (w - 52) 0#32).toNat
  else if w = 56 then
    joinFields 5 u.fpuP.length (fun i => ((u.fpuP.map fun o => o.flags.toNat).getD i 0))
      + 2 ^ 20 * joinFields 3 u.fpuP.length (fun i => ((u.fpuP.map fun o => o.traps.toNat).getD i 0))
  else if w = 57 then (match u.traps with | t :: _ => t.addr % 8192 + 8192 * (t.left % 32) + 2147483648 | [] => 0)
  else 0

/-- Word w of frame f (Table 17-13): 0 where the frame is not occupied or its kind holds no such word. -/
def frameWord (e : Engine) (f w : Nat) : Nat :=
  match frameAt e.exc f with
  | none => 0
  | some x =>
    let ctx := ((e.exc.frames.reverse.take f).filter fun y => y.unit.isSome).length
    let irq : Bool := match x.kind with | .irq _ => true | _ => false
    match w with
    | 0 => frameHead x.kind
    | 1 => x.ret % 8192
    | 2 => (match x.slot with | some t => t.origin % 8192 + 65536 * (t.target % 8192) + 2147483648 | none => 0)
    | 3 => bitAt x.flag 0
    | 4 => bitAt x.super 0 + bitAt x.precise 1
    | 5 => x.run + 256 * x.mask
    | 6 => (match x.loop with | some l => l.start % 8192 + 8192 * (l.len - 1) + 131072 * l.pos + 2147483648 | none => 0)
    | 7 => (match x.loop with | some l => l.rem | none => 0)
    | 8 => (match x.rep with | some r => r.addr % 8192 + 8192 * r.rem + bitAt r.noirq 30 + 2147483648 | none => 0)
    | 9 => (match x.wait with | some t => t.tol / 4 % 1024 + 2147483648 | none => 0)
    | 10 => (match x.wait with | some t => t.target % 2 ^ 32 | none => 0)
    | 11 => (match x.wait with | some t => t.target / 2 ^ 32 | none => 0)
    | _ => (match x.unit with | some u => frameUnit e ctx irq u w | none => 0)

/-! ### DBG_ACC (R402, Table 17-7) -/

/-- The outcome of an access. -/
def dbgOut (status data : Nat) (s : State) : State := { s with tap := { s.tap with status := status, data := data % 2 ^ 32 } }

/-- A physical access: it waits for its target, or is performed now. A path or right that is absent is answered with an error response
(R278, R281); a locked target serves it later (R284).
[DESIGN CHOICE, log row 40] -/
def dbgPhys (write : Bool) (pa v : Nat) (s : State) : State :=
  let s0 : State := { s with tap := { s.tap with want := none } }
  if lockedOut s0 257 (.phys pa) 4 then dbgOut 1 0 { s0 with tap := { s0.tap with want := some (write, pa, v) } }
  else
    let r := if physCode s0 write 257 pa 4 ≠ 0 then accError s0 else if write then writePhys 257 pa 4 v s0 else readPhys pa 4 s0
    if r.ok = false then
      let s1 : State := { r.st with tap := { r.st.tap with want := some (write, pa, v) } }
      dbgOut 1 0 s1
    else if r.err = 0 then dbgOut 0 (if write then v else r.value) r.st
    else dbgOut 3 (if r.err = 0x0C ∧ write = false then memRead s0 pa 4 else 0) r.st

/-- What the catalogue service answered. -/
def dbgSvc (o : SvcOut) : State := dbgOut (if o.code = 0 then 0 else 3) (leNat (o.bytes.take 4)) o.st

/-- A catalogue access: an entry of at most 4 bytes whole, a wider one in segments of 4 bytes.
[DESIGN CHOICE, log row 40] -/
def dbgCat (write : Bool) (a v : Nat) (s : State) : State :=
  let call := a % 2 ^ 24
  let off := bits a 24 13
  let last := a.testBit 37
  let n := bits a 38 2
  let size := match descOf s call with | some d => d.size | none => 4
  if size ≤ 4 then
    if a / 2 ^ 24 ≠ 0 then dbgOut 6 0 s
    else if write then dbgSvc (serve 4 2 call 0 (leBytes size v) true 4 s)
    else dbgSvc (serve 4 1 call 0 [] true 4 s)
  else if off % 4 ≠ 0 then dbgOut 6 0 s
  else if write then
    if last = false ∧ n ≠ 3 then dbgOut 6 0 s
    else dbgSvc (serve 4 2 call off (leBytes (n + 1) v) last 4 s)
  else if a / 2 ^ 37 ≠ 0 then dbgOut 6 0 s
  else if off = 0 then
    let o := serve 4 1 call 0 [] true size s
    let s1 : State := if o.code = 0 then { o.st with tap := { o.st.tap with captured := o.bytes } } else o.st
    dbgSvc { o with st := s1 }
  else dbgOut 0 (leNat (bytesAt s.tap.captured off 4)) s

/-- An engine-state access. A pair is reached through its main copy; a write of a checked pair goes to both copies and is logged
(R240).
[DESIGN CHOICE, log row 40] -/
def dbgEngine (write : Bool) (a v : Nat) (s0 : State) : State :=
  let n := if countsChecked (getPair s0 (pairOf (a % 256))) then mainOf (pairOf (a % 256)) else a % 256
  let k := bits a 8 8
  let m := pairOf n
  let s := wakeEvent (.tile (Fin.ofNat 32 (tileOf n))) s0
  if itemKnown k = false ∨ (k ≠ 0x40 ∧ a / 65536 ≠ 0) ∨ (k = 0x40 ∧ (8 < bits a 16 4 ∨ a / 2 ^ 26 ≠ 0)) then dbgOut 6 0 s0
  else if write = true ∧ k = 0x40 then dbgOut 5 0 s0
  else if shownState s n ≠ .halted ∧ shownState s n ≠ .debug then dbgOut 4 0 s
  else if write = false then dbgOut 0 (if k = 0x40 then frameWord (getEng s n) (bits a 16 4) (bits a 20 6) else (itemRead (getEng s n) k).toNat) s
  else
    let w := BitVec.ofNat 32 v
    let s1 := modEng n (itemWrite k w) s
    if countsChecked (getPair s m) then
      dbgOut 0 v (logItems m [(0x0D, BitVec.ofNat 32 k), (0x0E, w)] (modEng (checkerOf m) (itemWrite k w) s1))
    else dbgOut 0 v s1

/-- The data register shows the outcome of the last access.
[DESIGN CHOICE, log row 40] -/
def dbgCapture (s : State) : State := { s with tap := { s.tap with ir := 0x11, dr := s.tap.status * 16 + s.tap.data * 2 ^ 48 } }

/-- An access by DBG_ACC: `space` 0 device physical, 1 catalogue, 2 engine state, 3 reserved; `a` the 40 bits of ADDR.
[DESIGN CHOICE, log row 40] -/
def dbgAccess (write : Bool) (space a v : Nat) (s0 : State) : State :=
  let s : State := { s0 with tap := { s0.tap with lastAcc := s0.up } }
  dbgCapture (
    if valGet s cDbgOpen = 0 then dbgOut 2 0 s
    else if 3 ≤ space then dbgOut 6 0 s
    else if write = true ∧ lifecycle s = 2 then dbgOut 5 0 s
    else match space with
      | 0 => dbgPhys write (a % 2 ^ 40) v s
      | 1 => dbgCat write (a % 2 ^ 40) v s
      | _ => dbgEngine write (a % 2 ^ 40) v s)

/-- A poll returns the outcome of the last access, which is tried again where it waits; `reserved`: OP is 0b11.
[DESIGN CHOICE, log row 40] -/
def dbgPoll (reserved : Bool) (s0 : State) : State :=
  let s : State := { s0 with tap := { s0.tap with lastAcc := s0.up } }
  dbgCapture (
    if valGet s cDbgOpen = 0 then dbgOut 2 0 s
    else if reserved then dbgOut 6 0 s
    else match s.tap.want with
      | some (w, a, v) => dbgPhys w a v s
      | none => s)

/-! ### Opening and closing (R402, R439) -/

/-- DBG_OPEN: a 64-byte signature by key 2 over device.serial, lc.nonce and device.lifecycle opens debug access; in BLANK any value does,
in RETIRED none. Every attempt replaces lc.nonce (R437). Served from the fuse step on. -/
def dbgOpen (sig : List Byte) (s : State) : State :=
  let s0 : State := { s with tap := { s.tap with ir := 0x10 } }
  if stepDone s 1 = false then s0
  else
    let lc := lifecycle s
    let good := lc == 0 || (lc != 4 && ecdsaValid (lcKey s 2) sig
      (bytesAt s.boot.serial 0 16 ++ longRead s (callNo 0x1030 6) ++ leBytes 1 lc))
    let s1 := freshNonce s0
    if good then
      let s2 := valPut cDbgOpen 1 s1
      logEvent 0x90 false 0 lc 0 { s2 with tap := { s2.tap with lastAcc := s.up, want := none } }
    else s1

/-- dbg.timeout has passed without an access. -/
def dbgTimeout (s : State) : State :=
  if s.tap.lastAcc + valGet s (callNo 0x1510 0x0D) * 4000000 ≤ s.up then debugClose 5 s else s

/-! ### Boundary scan (R401) -/

/-- EXTEST, CLAMP or HIGHZ is selected: the device is held as under RESET_N.
[DESIGN CHOICE, log row 41] -/
def tapHold (s : State) : State :=
  if s.tap.held then s
  else
    let s1 := deviceReset 2 s
    { s1 with tap := { s1.tap with held := true } }

/-- Another instruction is selected: a held device is released.
[DESIGN CHOICE, log row 41] -/
def tapFree (s : State) : State :=
  if s.tap.held = false then s
  else
    let s1 : State := { s with tap := { s.tap with held := false } }
    if s1.boot.held then s1
    else modBoot (fun b => { b with startAt := s.up, stage := if b.steps % 16 = 15 then romStage s1 else b.stage }) s1

/-- An instruction is selected, and its data register captures `dr`. -/
def tapSelect (ir dr : Nat) (s : State) : State :=
  let s1 := if ir = 0 ∨ ir = 4 ∨ ir = 5 then tapHold s else tapFree s
  { s1 with tap := { s1.tap with ir := ir, dr := dr } }

/-- Levels as a number, the first one lowest. -/
def levelBits (l : List Bool) : Nat := l.foldr (fun b a => (if b then 1 else 0) + 2 * a) 0

/-- The boundary scan is selected: `levels` are captured from the pins and `shift` is shifted in. -/
def tapScan (ir : Nat) (levels shift : List Bool) (s : State) : State :=
  let s1 := tapSelect ir (levelBits levels) s
  { s1 with tap := { s1.tap with bsr := shift } }

/-- TRST_N low: Test-Logic-Reset, which selects IDCODE, and debug access closes. -/
def trstLow (s : State) : State := tapSelect 1 0x12560793 (debugClose 1 s)

end Sys2Proof.Machine
end

