-- ==== Sys2Proof/Machine/Host.lean ====
section
/-! DEFINITION. Machine/Host.lean: the host port (its frames, notifications and CCCs), the dedicated pins and SYNC_OUT (R391 to R398,
R403). -/

namespace Sys2Proof.Machine

/-! ### Frames (R392 to R394) -/

/-- host.addr. -/
def cHostAddr : Nat := callNo 0x1500 1

/-- host.ibi.enable. -/
def cIbiEnable : Nat := callNo 0x1500 4

/-- The I3C port answers: the device is powered and not held (R397, R401). -/
def portAlive (s : State) : Bool := s.boot.vin && !deviceHeld s

/-- The port serves frames and CCCs other than the addressing ones: it holds a dynamic address, and the device is not in HOLD mode
(R391, Table 19-2).
[PRESUMED, log row 38] -/
def portServes (s : State) : Bool := portAlive s && valGet s cHostAddr != 0 && s.boot.stage != 8

/-- A frame as bytes (Table 17-2): header, payload, CRC. -/
def frameBytes (f : HFrame) : List Byte :=
  let b := leBytes 1 f.kind ++ leBytes 1 f.seq ++ leBytes 1 (if f.last then 1 else 0) ++ leBytes 1 f.status ++ leBytes 2 f.payload.length
    ++ leBytes 2 0 ++ leBytes 4 f.arg ++ leBytes 4 f.offset ++ f.payload
  b ++ leBytes 2 (crc16 b)

/-- The request of a frame whose checks pass. -/
def frameParse (b : List Byte) : HFrame :=
  { kind := fieldAt b 0 1, seq := fieldAt b 1 1, last := (fieldAt b 2 1).testBit 0, status := 0, arg := fieldAt b 8 4, offset := fieldAt b 12 4
    payload := bytesAt b 16 (fieldAt b 4 2) }

/-- Kinds that a host may send (Table 17-3). -/
def requestKind (k : Nat) : Bool := k == 1 || k == 2 || k == 3 || k == 0x10 || k == 0x13 || k == 0x20 || k == 0x21

/-- A reserved field of a request is not 0, ARG and OFFSET among them where the kind has no use for them.
[DESIGN CHOICE, log row 39] -/
def frameReserved (b : List Byte) : Bool :=
  let k := fieldAt b 0 1
  fieldAt b 2 1 / 2 != 0 || fieldAt b 3 1 != 0 || fieldAt b 6 2 != 0
    || ((k == 0x10 || k == 0x13) && (fieldAt b 8 4 != 0 || fieldAt b 12 4 != 0)) || (k == 0x21 && fieldAt b 12 4 != 0)

/-- Requests that have not been answered: those taken, and host submissions that the ledger holds (R304, R394). -/
def unanswered (s : State) : Nat :=
  s.host.reqs.length + (s.ledger.items.filter fun i => i.st == .held && (streamRec s i.stream).src == 3).length

/-- STATUS of the ERROR frame that answers a request which cannot be taken, 0 = taken (R394).
[DESIGN CHOICE, log row 39] -/
def frameError (s : State) (b : List Byte) : Nat :=
  let n := b.length
  if n < 2 ∨ crc16 (b.take (n - 2)) ≠ fieldAt b (n - 2) 2 then 1
  else if n < 18 ∨ min (s.host.mwl - 18) 256 < fieldAt b 4 2 ∨ n ≠ 18 + fieldAt b 4 2 then 2
  else if requestKind (fieldAt b 0 1) = false ∨ frameReserved b = true then 3
  else if 16 ≤ unanswered s then 4
  else 0

/-- A response to request r. -/
def responseTo (r : HFrame) (kind status : Nat) (last : Bool) (p : List Byte) : HFrame :=
  { kind := kind, seq := r.seq, last := last, status := status, arg := r.arg, offset := r.offset, payload := p }

/-- A doorbell's word for engine n: the STATUS of DOORBELL_RESP and the state (R58, R61, R393).
[DESIGN CHOICE, log row 39; DESIGN CHOICE, log row 52] -/
def doorbell (n : Nat) (w : Word) (s : State) : Nat × State :=
  if 256 ≤ n then (1, s)
  else
    let k := queueOwner s n
    let d := tileDom s (tileOf k)
    if d = 2 ∨ (d = 3 ∧ s.power.filling.contains (512 + tileOf k)) then (1, s)
    else
      let s1 := setPend k 30 s
      let s2 := wakeTile (tileOf k) s1
      if d = 0 then (if 64 ≤ (getEng s k).rq.words.length then 1 else 0, rqEnter k w s2)
      else
        (0, { s2 with net := { s2.net with flights := s2.net.flights ++ [⟨256, k, w, none, none⟩] } })

/-- FOLIO_DATA: STATUS of FOLIO_RESP and the state. Stage 0xFF takes a boot image in HOST mode (R429), the others take a folio or a
firmware image once the catalogue is ready (R448, R461).
[DESIGN CHOICE, log row 39] -/
def folioData (r : HFrame) (s : State) : Nat × State :=
  if r.arg = 0xFF then
    if s.boot.stage ≠ 9 ∨ 0x800000 < r.offset + r.payload.length then (1, s)
    else
      let old := if r.offset = 0 then [] else s.boot.hostImg
      let n := max old.length (r.offset + r.payload.length)
      (0, modBoot (fun b => { b with hostImg := overlayBytes (bytesAt old 0 n) r.offset r.payload, hostEnd := r.last }) s)
  else if s.cat.ready = false ∨ (7 < r.arg ∧ r.arg ≠ 0xFE) ∨ stageCode s r.arg r.offset r.payload.length ≠ 0 then (1, s)
  else (0, stageTake r.arg r.offset r.payload s)

/-- A response is queued as it completes; with the queue full it waits before the requests behind it (R394, R395).
[DESIGN CHOICE, log row 39] -/
def hostRespond (f : HFrame) (s : State) : State :=
  if s.host.queue.length < 32 then hostPush f s else { s with host := { s.host with reqs := f :: s.host.reqs } }

/-- One request is served; a response that has waited is queued. A device reset that it causes drops its response with everything else
(R403).
[DESIGN CHOICE, log row 39] -/
def serveOne (r : HFrame) (s : State) : State :=
  if 0x80 ≤ r.kind then hostPush r s
  else if r.kind ≤ 3 then
    let o := serve 3 r.kind r.arg r.offset r.payload r.last (min (valGet s (callNo 0x1500 6) - 18) 256) s
    if valGet o.st cHostAddr = 0 then o.st
    else hostRespond (if o.code = 0 then responseTo r (r.kind + 0x80) 0 (o.last && r.kind != 2) o.bytes
      else responseTo r 0x8F 0 false (leBytes 4 o.code)) o.st
  else match r.kind with
    | 0x10 => submit 3 0 r.seq r.payload (decide (r.payload.length < 16 + fieldAt r.payload 2 1)) s
    | 0x13 => reportAck 3 0 (fieldAt r.payload 0 1) (fieldAt r.payload 2 6) s
    | 0x20 => let x := folioData r s; hostRespond (responseTo r 0xA0 x.1 false []) x.2
    | _ => let x := doorbell r.arg (BitVec.ofNat 32 (fieldAt r.payload 0 4)) s; hostRespond (responseTo r 0xA1 x.1 false []) x.2

/-- Requests are served in arrival order, but none while the queue is full (R394, R395).
[DESIGN CHOICE, log row 39] -/
def hostServeN : Nat → State → State
  | 0, s => s
  | f + 1, s =>
    match s.host.reqs with
    | [] => s
    | r :: rs => if 32 ≤ s.host.queue.length then s else hostServeN f (serveOne r { s with host := { s.host with reqs := rs } })

/-- Every request that can be served now is. -/
def hostServe (s : State) : State := hostServeN (2 * s.host.reqs.length) s

/-- A private write carries one request frame. ERROR answers one that cannot be taken, in its turn behind those that wait. -/
def hostRequest (b : List Byte) (s : State) : State :=
  if portServes s = false then s
  else
    let c := frameError s b
    if c ≠ 0 then
      let s1 : State := { s with host := { s.host with
        ferr := true
        reqs := s.host.reqs ++ [{ kind := 0x8E, seq := fieldAt b 1 1, last := false, status := c, arg := 0, offset := 0, payload := [] }] } }
      hostServe (bump (callNo 0x1500 9) 1 32 s1)
    else hostServe (bump (callNo 0x1500 8) 1 32 { s with host := { s.host with reqs := s.host.reqs ++ [frameParse b] } })

/-- A frame of FOLIO_DATA or DOORBELL as the host sends it. -/
def hostFrameBytes (kind seq : Nat) (last : Bool) (arg offset : Nat) (p : List Byte) : List Byte :=
  frameBytes { kind := kind, seq := seq, last := last, status := 0, arg := arg, offset := offset, payload := p }

/-- The frame of a read that finds the queue empty. -/
def emptyFrame : HFrame := { kind := 0, seq := 0, last := false, status := 0, arg := 0, offset := 0, payload := [] }

/-- A private read removes and returns the oldest frame, or EMPTY; an IBI still requested for it is withdrawn (R395, R403). -/
def privateRead (s : State) : State :=
  if portServes s = false then s
  else match s.host.queue with
    | [] => { s with host := { s.host with out := frameBytes emptyFrame } }
    | f :: fs => hostServe { s with host := { s.host with queue := fs, out := frameBytes f, ibi := none } }

/-- An IBI goes out for the announced frame; refused or lost, it stays requested (R395). -/
def ibiTry (accepted : Bool) (s : State) : State :=
  if portServes s = true ∧ s.host.ibi.isSome = true ∧ valGet s cIbiEnable = 1 ∧ accepted = true then
    bump (callNo 0x1500 0x0C) 1 32 { s with host := { s.host with ibi := none } }
  else s

/-! ### CCCs (Table 17-1) -/

/-- A CCC other than ENTHDR0 runs in SDR; a direct one needs the dynamic address, and HOLD mode serves the addressing ones only.
[PRESUMED, log row 38] -/
def ccc (direct addressing : Bool) (f : State → State) (s : State) : State :=
  if portAlive s = false ∨ (direct = true ∧ valGet s cHostAddr = 0) ∨ (addressing = false ∧ s.boot.stage = 8) then s
  else f (valPut (callNo 0x1500 3) 0 s)

/-- The bytes that a CCC returns.
[PRESUMED, log row 38] -/
def hostOut (b : List Byte) (s : State) : State := { s with host := { s.host with out := b } }

/-- ENEC: event bit 0 is ENINT. -/
def cccEnec (direct : Bool) (events : Byte) (s : State) : State :=
  ccc direct false (fun a => if events.getLsbD 0 then valPut cIbiEnable 1 a else a) s

/-- DISEC: no further IBI (R403). -/
def cccDisec (direct : Bool) (events : Byte) (s : State) : State :=
  ccc direct false (fun a => if events.getLsbD 0 then valPut cIbiEnable 0 { a with host := { a.host with ibi := none } } else a) s

/-- The dynamic address becomes `a`, 0 = none.
[PRESUMED, log row 38] -/
def cccAddr (ok : Bool) (a : Nat) (s : State) : State := ccc false true (fun x => if ok then valPut cHostAddr (a % 128) x else x) s

/-- SETMWL: 32 to 280 bytes are accepted. -/
def cccMwl (direct : Bool) (n : Nat) (s : State) : State :=
  ccc direct false (fun a => if 32 ≤ n ∧ n ≤ 280 then { a with host := { a.host with mwl := n } } else a) s

/-- SETMRL: 32 to 280 bytes are accepted. -/
def cccMrl (direct : Bool) (n : Nat) (s : State) : State :=
  ccc direct false (fun a => if 32 ≤ n ∧ n ≤ 280 then valPut (callNo 0x1500 6) n a else a) s

/-- A CCC that returns bytes. -/
def cccGet (f : State → List Byte) (s : State) : State := ccc true false (fun a => hostOut (f a) a) s

/-- GETSTATUS: the queue level and the frame-error flag, which it clears. -/
def cccStatus (s : State) : State :=
  ccc true false (fun a =>
    let b := min 15 a.host.queue.length + bitAt a.host.ferr 5
    hostOut (beBytes 2 b) { a with host := { a.host with ferr := false } }) s

/-- ENTHDR0: the port goes into HDR-DDR. -/
def cccHdr (s : State) : State := ccc false false (fun a => valPut (callNo 0x1500 3) 1 a) s

/-- A host-port reset: queue and unanswered requests dropped, open segmented writes failed, host.addr kept (R403).
[PRESUMED, log row 38] -/
def hostReset (action : Nat) (s : State) : State :=
  let s1 : State := { s with
    host := { HostSt.reset with out := s.host.out }
    cat := { s.cat with segs := s.cat.segs.filter fun g => g.route != 3 } }
  logEvent 0x93 false 0 action 0 (valPut (callNo 0x1500 6) 280 s1)

/-- RSTACT.
[PRESUMED, log row 38] -/
def cccRstact (direct : Bool) (action : Nat) (s : State) : State :=
  ccc direct false (fun a => if action = 0 then a else if action = 2 then warmReset a else hostReset action a) s

/-! ### Dedicated pins and SYNC_OUT (R387, R395, R397, R398) -/

/-- The value of pin.levels as a NOTIFY carries it. -/
def notifyLevels (s : State) : State := let r := shortRead (callNo 0x1510 1) s; hostNotify 0xA4 r.1 r.2

/-- STOP_N has been low past its filter. -/
def stopLow (s : State) : State :=
  if s.pins.stopN = false ∨ s.boot.vin = false then s
  else
    let s1 := bump (callNo 0x1510 8) 1 32 { s with pins := { s.pins with stopN := false } }
    let s2 := if deviceHeld s then s1 else safeStop s1
    notifyLevels s2

/-- STOP_N is high again after its filter. -/
def stopRise (s : State) : State :=
  if s.pins.stopN ∨ s.boot.vin = false then s else notifyLevels { s with pins := { s.pins with stopN := true } }

/-- Instants of SYNC_OUT's mode, before the offset. -/
def syncInstant (s : State) (t : Nat) : Bool :=
  match valGet s (callNo 0x1510 3) with
  | 1 => s.time.valid && t % 4000000000 == 0
  | 2 => marksOccur s && decide (s.time.runFrom + (s.now - t) < s.up + 1) && markInstant s t
  | 3 => cycleStart s 0 t
  | _ => false

/-- SYNC_OUT rises, unless its previous pulse lasts still. -/
def syncOutPulse (s : State) : State :=
  let off := 4 * valGet s (callNo 0x1510 5)
  if s.cat.ready = true ∧ deviceHeld s = false ∧ off ≤ s.now ∧ syncInstant s (s.now - off) = true ∧ s.pins.syncEnd ≤ s.up then
    { s with pins := { s.pins with syncEnd := s.up + 4 * valGet s (callNo 0x1510 4) } }
  else s

end Sys2Proof.Machine
end

