-- ==== Sys2Proof/Machine/Commands.lean ====
section
/-! DEFINITION. Machine/Commands.lean: how the operands of a command reach the operations: its route into the catalogue, the entry it
writes, its lock target, its submission. -/

namespace Sys2Proof.Machine

/-! ### Catalogue commands by route (R334, R335, R341) -/

/-- The number of a route: 0 a control window, 1 and 2 the rings, 3 the host, 4 the debug port. -/
def routeNo : Route → Nat
  | .window _ => 0
  | .ringA => 1
  | .ringB => 2
  | .host => 3
  | .debug => 4

/-- The engine of a control window; 256 for any other route.
[DEDUCED, log row 30] -/
def routeWho : Route → Nat
  | .window n => n.val
  | _ => 256

/-- A command that is the write of a long value to an entry. -/
def entryLong (r : Route) (call : Nat) (l : List Byte) (bad : Option Nat) (s : State) : State :=
  catCommand (routeNo r) (routeWho r) call l bad s

/-- A command that is the write of a short value to an entry.
[DEDUCED, log row 7] -/
def entryCmd (r : Route) (call v : Nat) (bad : Option Nat) (s : State) : State := entryLong r call (shortBytes s call v) bad s

/-- The debug port serves nothing while debug access is closed or the life cycle is FIELD (R402). -/
def routeClosed (s : State) (r : Route) : Bool := r == .debug && (valGet s cDbgOpen == 0 || lifecycle s == 2)

/-- The answer of a control window, noted as the last one given. -/
def windowReply (call code : Nat) (l : List Byte) (s : State) : State :=
  { s with cat := { s.cat with reply := some ⟨0, call, code, l⟩ } }

/-- READ (R334): in a control window a load of `n` bytes (R341). -/
def entryRead (r : Route) (call off n : Nat) (s : State) : State :=
  match r with
  | .window e => let x := windowLoad e.val call off n s; windowReply call x.1 (leBytes n x.2.1) x.2.2
  | _ => if routeClosed s r then s else (serve (routeNo r) 1 call off [] true n s).st

/-- WRITE (R334): in a control window a store of the bytes (R341).
[DEDUCED, log row 7] -/
def entryWrite (r : Route) (call off : Nat) (d : List Byte) (last : Bool) (s : State) : State :=
  match r with
  | .window e => let x := windowStore e.val call off d.length (leNat d) s; windowReply call x.1 [] x.2
  | _ => if routeClosed s r then s else (serve (routeNo r) 2 call off d last 0 s).st

/-- INFO (R334): the control window and the debug port have no such access.
[DESIGN CHOICE, log row 33] -/
def entryInfo (r : Route) (call off n : Nat) (s : State) : State :=
  match r with
  | .window _ => s
  | .debug => s
  | _ => (serve (routeNo r) 3 call off [] true n s).st

/-- A life-cycle command (R437). -/
def lcCommand (r : Route) (cmd : Nat) (x : LcFields) (s : State) : State :=
  entryLong r (callNo 0x1030 7) (lcBytes cmd x.value.toNat x.nonce x.serial x.sig x.resv) none s

/-- A service command (R445). `bad` is what a self-test finds. -/
def svcCommand (r : Route) (cmd : Nat) (x : SvcFields) (bad : Option Nat) (s : State) : State :=
  let c : SvcCmd := { cmd := cmd, job := x.job.val, source := x.source.toNat, subject := x.subject.val, half := if x.half then 1 else 0,
                      folio := x.folio.toNat, base := x.base.val, bias := x.bias.toNat, at_ := x.at_.toNat }
  entryLong r (callNo 0x1050 1) (svcBytes c x.resv.toNat) bad s

/-- A domain command: request 0 on, 1 retention, 2 off (R417, R418, R421). -/
def domainCmd (r : Route) (d : Dom) (req : Nat) (s : State) : State :=
  match d with
  | .tile t => entryCmd r (cTile t.val 2) (req + 1) none s
  | .bank b => entryCmd r (cTile (b.val / 8) 5) (b.val % 8 + 256 * req) none s
  | .dev k => entryCmd r (callNo 0x1220 2) (k.val + 256 * req) none s

/-! ### Other operands -/

/-- The number of a lock target (R284). -/
def lockNo : LockTarget → Nat
  | .bank b => b.val
  | .dram c => 1000 + c.val

/-- A submission reaches the ledger (R302): from a ring as an ACYC message longer than its segment allows is judged, from the host with
its slot the SEQ of the frame. -/
def ledgerSubmit (x : Submission) (s : State) : State :=
  match x with
  | .ring r p b => submit (r.val + 1) p.val 0 b (decide (valGet s (cRing r.val 0x0C) - 8 < 16 + fieldAt b 2 1)) s
  | .host q b => submit 3 0 q.toNat b (decide (b.length < 16 + fieldAt b 2 1)) s
  | .pair m w => submitPair m.val w.toNat s

/-- The SOURCE number of an origin (Table 14-1). -/
def originSrc : Origin → Nat
  | .ring r _ => r.val + 1
  | .host => 3

/-- The SRCID of an origin. -/
def originId : Origin → Nat
  | .ring _ p => p.val
  | .host => 0

/-- A load of engine n from its own-queue view (R248): the head word leaves, or, at the level word, the sticky bits clear. A running
pair's own loads are entered in its input log (R225, KIND 0x0F), its checker makes none, and in replay none is performed. -/
def ownQueuePop (n : Nat) (level : Bool) (s : State) : State :=
  let m := pairOf n
  let p := getPair s m
  let off : Nat := if level then 4 else 0
  if pairSplit p then
    modEng n (fun e => { e with rq := readRq e.rq (!level) level }) s
  else if n = mainOf m ∧ inReplay p = false then
    let q := (getEng s n).rq
    let v : Word := if off = 0 then q.words.headD 0#32 else xuLvl q
    logItems m [(0x0F, v)] (modEng n (fun e => { e with rq := readRq e.rq (!level) level }) s)
  else s

/-- A woken domain is on, and what waited for it goes on: a tile with no class to confirm lets its waiting STARTs through, and the
jobs that wait for it are looked at (R416, R420). -/
def wakeFollow (d : Dom) (s : State) : State :=
  let s1 := wakeComplete d s
  servicePoll (match d with
    | .tile t => if valGet s (cTile t.val 6) = 0 then startWaiting t.val s1 else s1
    | _ => s1)

/-- An evaluation of rail k, and what its confirmations set going (R412 to R416). -/
def paceStep (k : Nat) (rates : List Nat) (s : State) : State :=
  loaderPoll ((List.range 4).foldl (fun a i => paceTake (4 * k + i) a) (paceEvaluate k rates s))

/-- A link READ of a rail (R409): OP 2 voltage, 3 current, 4 phase state. -/
def linkRead (k op : Nat) (s : State) : State := linkSend k op 0 s

/-- A junction sensor of tile t rises above 115 °C (Table 18-9). -/
def junctionWarning (t : Nat) (s : State) : State :=
  let r := tileTemp t s
  logEvent 0x74 false t (BitVec.ofInt 32 r.1).toNat 0 r.2

/-- A quarter-nanosecond passes while no command waits (R169): Sirkan time, a 64-bit count, advances by one, and the resonator at the rate that
the discipline's adjustment gives the two (R172).
[DESIGN CHOICE, log row 2; DESIGN CHOICE, log row 48] -/
def tick (s : State) : State :=
  let unit := (1000000000 + s.time.rate).toNat
  let f := s.time.frac + 1000000000
  { s with now := (s.now + 1) % 2 ^ 64, up := s.up + f / unit, time := { s.time with frac := f % unit } }

end Sys2Proof.Machine
end

