-- ==== Sys2Proof/Machine/BootCmds.lean ====
section
/-! DEFINITION. Machine/BootCmds.lean: commands: start-up, resets, the life cycle and tampering (chapter 19). -/

namespace Sys2Proof.Machine

/-- VIN_VALID: VIN has been valid for 100 µs, and BOOT_MODE is sampled (R397, R424). -/
def execVinValid (mode : Fin 4) (s : State) : Host.Outcome State Fault Refusal := .next (vinValid mode.val s)

/-- UNDERVOLTAGE_RESET: VIN below 2.55 V for 2 µs (R424). -/
def execUndervoltageReset (s : State) : Host.Outcome State Fault Refusal := .next (powerOnReset s)

/-- RAILS_IN_BAND: Every rail is in its band (R425). -/
def execRailsInBand (s : State) : Host.Outcome State Fault Refusal := .next (railsInBand s)

/-- FUSE_LOAD_COMPLETE: Fuses and the repair list are loaded and applied (R263, R428). -/
def execFuseLoadComplete (s : State) : Host.Outcome State Fault Refusal := .next (fuseLoad s)

/-- INJECTION_COMPLETE: The comparator injection of all pairs completes; `fails` are the pairs that failed, with the lane or stage (R235). -/
def execInjectionComplete (fails : List (Fin 128 × Fin 256)) (s : State) : Host.Outcome State Fault Refusal :=
  .next (injectionDone (fails.map fun x => (x.1.val, x.2.val)) s)

/-- SHELF_INIT_COMPLETE: Every shelf word has been written with zero (R252). -/
def execShelfInitComplete (s : State) : Host.Outcome State Fault Refusal := .next (shelfInitDone s)

/-- FIRMWARE_VERIFIED: The boot ROM has verified the slots (R431). -/
def execFirmwareVerified (s : State) : Host.Outcome State Fault Refusal := .next (firmwareVerified s)

/-- HOST_BOOT_IMAGE: A host image is verified and run, or discarded (R429, R431). -/
def execHostBootImage (s : State) : Host.Outcome State Fault Refusal := .next (hostBootImage s)

/-- CATALOGUE_READY: The catalogue is ready (R426). -/
def execCatalogueReady (s : State) : Host.Outcome State Fault Refusal := .next (catalogueReady s)

/-- RESET_N: RESET_N has been low for 1 µs (R397, R433). -/
def execResetN (s : State) : Host.Outcome State Fault Refusal := .next (resetN s)

/-- WARM_RESET: device.cmd 0x01 (R433). -/
def execWarmReset (r : Route) (s : State) : Host.Outcome State Fault Refusal := .next (entryCmd r (callNo 0x1000 9) 1 none s)

/-- WATCHDOG_EXPIRY: The firmware has not served its watchdog for 100 ms (R433, R442). -/
def execWatchdogExpiry (s : State) : Host.Outcome State Fault Refusal := .next (watchdogReset s)

/-- PROVISION: Life-cycle command PROVISION (R437, R438). -/
def execProvision (r : Route) (x : LcFields) (s : State) : Host.Outcome State Fault Refusal := .next (lcCommand r 1 x s)

/-- FIELD: Life-cycle command FIELD (R437, R438). -/
def execField (r : Route) (x : LcFields) (s : State) : Host.Outcome State Fault Refusal := .next (lcCommand r 2 x s)

/-- SERVICE: Life-cycle command SERVICE (R437, R438). -/
def execService (r : Route) (x : LcFields) (s : State) : Host.Outcome State Fault Refusal := .next (lcCommand r 3 x s)

/-- RETIRE: Life-cycle command RETIRE (R437, R438). -/
def execRetire (r : Route) (x : LcFields) (s : State) : Host.Outcome State Fault Refusal := .next (lcCommand r 4 x s)

/-- ADVANCE: Life-cycle command ADVANCE (R437, R438). -/
def execAdvance (r : Route) (x : LcFields) (s : State) : Host.Outcome State Fault Refusal := .next (lcCommand r 5 x s)

/-- LIFECYCLE_COMMIT: A transition commits (R438). -/
def execLifecycleCommit (s : State) : Host.Outcome State Fault Refusal := .next (lifecycleCommit s)

/-- TAMPER_EVENT: Tamper source TAMPER_N, voltage monitor or temperature monitor fires (R440 to R442). -/
def execTamperEvent (src : Fin 3) (s : State) : Host.Outcome State Fault Refusal := .next (tamperEvent (src.val + 1) s)

/-- TAMPER_STATE_CLEAR: A write of tamper.state (R441). -/
def execTamperStateClear (r : Route) (v : Byte) (s : State) : Host.Outcome State Fault Refusal :=
  .next (entryCmd r (callNo 0x1040 1) v.toNat none s)

/-- RESET_N_RELEASE: RESET_N is high again and BOOT_MODE is sampled (R397, R433). -/
def execResetNRelease (mode : Fin 4) (s : State) : Host.Outcome State Fault Refusal := .next (resetRelease mode.val s)

end Sys2Proof.Machine
end

