-- ==== Sys2Proof/Machine/CatalogueCmds.lean ====
section
/-! DEFINITION. Machine/CatalogueCmds.lean: commands: the catalogue services (chapter 15). -/

namespace Sys2Proof.Machine

/-- CATALOGUE_READ: A READ of n bytes from an offset (R334, R426). -/
def execCatalogueRead (r : Route) (call : BitVec 24) (off : Nat) (n : Nat) (s : State) : Host.Outcome State Fault Refusal :=
  .next (entryRead r call.toNat off n s)

/-- CATALOGUE_WRITE: A WRITE of a value or a segment of one (R334 to R337). -/
def execCatalogueWrite (r : Route) (call : BitVec 24) (off : Nat) (data : List Byte) (last : Bool) (s : State) : Host.Outcome State Fault Refusal :=
  .next (entryWrite r call.toNat off data last s)

/-- CATALOGUE_INFO: An INFO of n bytes from an offset (R334). -/
def execCatalogueInfo (r : Route) (call : BitVec 24) (off : Nat) (n : Nat) (s : State) : Host.Outcome State Fault Refusal :=
  .next (entryInfo r call.toNat off n s)

/-- SEGMENT_TIMEOUT: A segmented write has been idle for more than 100 ms (R335, R337). -/
def execSegmentTimeout (call : BitVec 24) (s : State) : Host.Outcome State Fault Refusal := .next (segTimeout call.toNat s)

end Sys2Proof.Machine
end

