-- ==== Sys2Proof/Machine/EngineCmds.lean ====
section
/-! DEFINITION. Machine/EngineCmds.lean: commands: engines: issue, loads and stores, entries, waits, the exchange network and engine.cmd (chapters 3 to 10). -/

namespace Sys2Proof.Machine

/-- BUNDLE_ISSUE: Engine n issues one bundle in a step (R44), whose parcels that a disturbance has left with bad parity come with it (R72);
in replay a debugger's logged writes come first (R240). -/
def execBundleIssue (n : Fin 256) (a : IssueStep) (s : State) : Host.Outcome State Fault Refusal :=
  .next (unloadHalted (bundleIssue n.val a.q (upsetParcels n.val a.upset.val (replayDebug itemWrite (pairOf n.val) s))))

/-- LOAD_RETURN: The oldest outstanding load of engine n returns (R116, R191). `upset` disturbs the word it reads: 0 none, 1 to 72 one bit, above that more. -/
def execLoadReturn (n : Fin 256) (upset : Fin 128) (s : State) : Host.Outcome State Fault Refusal :=
  .next (loadReturn windowLoad n.val upset.val s)

/-- STORE_PERFORMED: The oldest buffered store of engine n is performed (R117, R191). -/
def execStorePerformed (n : Fin 256) (s : State) : Host.Outcome State Fault Refusal := .next (storePerformed windowStore n.val s)

/-- ENGINE_STALL_STEP: Engine n spends a stall step on a bundle held for lsu.q (R54, R56). -/
def execEngineStallStep (n : Fin 256) (s : State) : Host.Outcome State Fault Refusal := .next (engineStall n.val s)

/-- HEAVY_METER_STEP: A meter step of tile t ends (R154, R155); `release` says whether a release falls due in the one that begins. -/
def execHeavyMeterStep (t : Fin 32) (release : Bool) (s : State) : Host.Outcome State Fault Refusal :=
  .next (meterStep t.val release s)

/-- EXCEPTION_ENTRY: The exception due at engine n's boundary is entered (R190, R197, R201, R202). -/
def execExceptionEntry (n : Fin 256) (s : State) : Host.Outcome State Fault Refusal := .next (exceptionEntry n.val s)

/-- INTERRUPT_SOURCE_EVENT: An event of source k (R204), at engine n where the source is an engine's own. -/
def execInterruptSourceEvent (k : Fin 32) (n : Fin 256) (s : State) : Host.Outcome State Fault Refusal :=
  .next (sourceEvent k.val n.val s)

/-- INTERRUPT_ENTRY: An eligible interrupt is taken at engine n (R206); `takeover` is a source whose event comes in the first 6 entry steps (R207). -/
def execInterruptEntry (n : Fin 256) (takeover : Option (Fin 32)) (s : State) : Host.Outcome State Fault Refusal :=
  .next (interruptEntry n.val (takeover.map fun k => k.val) s)

/-- ATOMIC_WINDOW_OVERRUN: An atomic window still open after its n steps raises 0x06 (R209). -/
def execAtomicWindowOverrun (n : Fin 256) (s : State) : Host.Outcome State Fault Refusal := .next (atomicOverrun n.val s)

/-- TIMED_WAIT_RELEASE: Engine n's hold ends and the released bundle issues (R174, R176, R188). -/
def execTimedWaitRelease (n : Fin 256) (q : Nat) (s : State) : Host.Outcome State Fault Refusal := .next (waitRelease n.val q s)

/-- ARMED_START_RELEASE: ARMED engine n issues its first bundle at engine.start.at (R64, R178). -/
def execArmedStartRelease (n : Fin 256) (q : Nat) (s : State) : Host.Outcome State Fault Refusal := .next (startRelease n.val q s)

/-- XU_WORD_ARRIVAL: The oldest words of the senders, 256 a transfer channel or the debug port, reach engine dst in one step (R58, R60). -/
def execXuWordArrival (dst : Fin 256) (senders : List (Fin 257)) (s : State) : Host.Outcome State Fault Refusal :=
  .next ((bySender (senders.map fun x => x.val)).foldl (fun a x => wordArrives dst.val a x) s)

/-- XU_STAMPED_ENTRY: The stamped words for engine dst whose T has come enter its queue (R182). -/
def execXuStampedEntry (dst : Fin 256) (s : State) : Host.Outcome State Fault Refusal := .next (stampedEntry dst.val s)

/-- ENGINE_START: engine.cmd START of engine n (R63, R64, R416). -/
def execEngineStart (r : Route) (n : Fin 256) (s : State) : Host.Outcome State Fault Refusal :=
  .next (entryCmd r (cEng n.val 2) 1 none s)

/-- ENGINE_STOP: engine.cmd STOP of engine n (R64, R65). -/
def execEngineStop (r : Route) (n : Fin 256) (s : State) : Host.Outcome State Fault Refusal :=
  .next (entryCmd r (cEng n.val 2) 2 none s)

/-- ENGINE_HALT: engine.cmd HALT of engine n (R65). -/
def execEngineHalt (r : Route) (n : Fin 256) (s : State) : Host.Outcome State Fault Refusal :=
  .next (entryCmd r (cEng n.val 2) 3 none s)

/-- ENGINE_RESUME: engine.cmd RESUME of engine n (R63, R65). -/
def execEngineResume (r : Route) (n : Fin 256) (s : State) : Host.Outcome State Fault Refusal :=
  .next (entryCmd r (cEng n.val 2) 4 none s)

/-- ENGINE_STEP: engine.cmd STEP of engine n (R63). -/
def execEngineStep (r : Route) (n : Fin 256) (s : State) : Host.Outcome State Fault Refusal :=
  .next (entryCmd r (cEng n.val 2) 5 none s)

/-- ENGINE_RESET: engine.cmd RESET of engine n (R63). -/
def execEngineReset (r : Route) (n : Fin 256) (s : State) : Host.Outcome State Fault Refusal :=
  .next (entryCmd r (cEng n.val 2) 6 none s)

end Sys2Proof.Machine
end

