-- ==== Sys2Proof/Machine/HostCmds.lean ====
section
/-! DEFINITION. Machine/HostCmds.lean: commands: the host port, the pins and their levels (chapter 17). -/

namespace Sys2Proof.Machine

/-- ENEC: CCC ENEC (Table 17-1). -/
def execEnec (direct : Bool) (events : Byte) (s : State) : Host.Outcome State Fault Refusal := .next (cccEnec direct events s)

/-- DISEC: CCC DISEC (Table 17-1, R403). -/
def execDisec (direct : Bool) (events : Byte) (s : State) : Host.Outcome State Fault Refusal := .next (cccDisec direct events s)

/-- RSTDAA: CCC RSTDAA clears host.addr (Table 17-1). -/
def execRstdaa (s : State) : Host.Outcome State Fault Refusal := .next (cccAddr true 0 s)

/-- ENTDAA: CCC ENTDAA: the port takes part while it has no address, and takes `a` if it wins (Table 17-1). -/
def execEntdaa (won : Bool) (a : Fin 128) (s : State) : Host.Outcome State Fault Refusal :=
  .next (cccAddr (won && valGet s cHostAddr == 0) a.val s)

/-- SETDASA: CCC SETDASA at static address 0x5C while host.addr is 0 (Table 17-1). -/
def execSetdasa (static : Fin 128) (a : Fin 128) (s : State) : Host.Outcome State Fault Refusal :=
  .next (cccAddr (static.val == 0x5C && valGet s cHostAddr == 0) a.val s)

/-- SETNEWDA: CCC SETNEWDA replaces the dynamic address (Table 17-1). -/
def execSetnewda (a : Fin 128) (s : State) : Host.Outcome State Fault Refusal := .next (cccAddr (valGet s cHostAddr != 0) a.val s)

/-- SETMWL: CCC SETMWL (Table 17-1). -/
def execSetmwl (direct : Bool) (n : BitVec 16) (s : State) : Host.Outcome State Fault Refusal := .next (cccMwl direct n.toNat s)

/-- SETMRL: CCC SETMRL (Table 17-1). -/
def execSetmrl (direct : Bool) (n : BitVec 16) (s : State) : Host.Outcome State Fault Refusal := .next (cccMrl direct n.toNat s)

/-- GETMWL: CCC GETMWL (Table 17-1). -/
def execGetmwl (s : State) : Host.Outcome State Fault Refusal := .next (cccGet (fun a => beBytes 2 a.host.mwl) s)

/-- GETMRL: CCC GETMRL, with the IBI payload size (Table 17-1). -/
def execGetmrl (s : State) : Host.Outcome State Fault Refusal :=
  .next (cccGet (fun a => beBytes 2 (valGet a (callNo 0x1500 6)) ++ [1#8]) s)

/-- GETPID: CCC GETPID returns host.pid (Table 17-1). -/
def execGetpid (s : State) : Host.Outcome State Fault Refusal :=
  .next (cccGet (fun a => beBytes 6 (valGet a (callNo 0x1500 2))) s)

/-- GETBCR: CCC GETBCR returns 0x26 (Table 17-1). -/
def execGetbcr (s : State) : Host.Outcome State Fault Refusal := .next (cccGet (fun _ => [0x26#8]) s)

/-- GETDCR: CCC GETDCR returns 0x00 (Table 17-1). -/
def execGetdcr (s : State) : Host.Outcome State Fault Refusal := .next (cccGet (fun _ => [0x00#8]) s)

/-- GETSTATUS: CCC GETSTATUS (Table 17-1). -/
def execGetstatus (s : State) : Host.Outcome State Fault Refusal := .next (cccStatus s)

/-- ENTHDR0: CCC ENTHDR0 enters HDR-DDR (Table 17-1). -/
def execEnthdr0 (s : State) : Host.Outcome State Fault Refusal := .next (cccHdr s)

/-- RSTACT: CCC RSTACT (Table 17-1, R403). -/
def execRstact (direct : Bool) (action : Byte) (s : State) : Host.Outcome State Fault Refusal :=
  .next (cccRstact direct action.toNat s)

/-- FOLIO_DATA: A FOLIO_DATA frame writes image bytes into a stage (R393, R429, R448). -/
def execFolioData (seq : Byte) (last : Bool) (stage : Word) (off : Word) (data : List Byte) (s : State) : Host.Outcome State Fault Refusal :=
  .next (hostRequest (hostFrameBytes 0x20 seq.toNat last stage.toNat off.toNat data) s)

/-- DOORBELL: A DOORBELL frame delivers a word to engine n (R393). -/
def execDoorbell (seq : Byte) (n : Word) (w : Word) (s : State) : Host.Outcome State Fault Refusal :=
  .next (hostRequest (hostFrameBytes 0x21 seq.toNat false n.toNat 0 (leBytes 4 w.toNat)) s)

/-- HOST_REQUEST_FRAME: A private write carries one request frame (R392 to R394). -/
def execHostRequestFrame (b : List Byte) (s : State) : Host.Outcome State Fault Refusal := .next (hostRequest b s)

/-- PRIVATE_READ: A private read returns the oldest frame, or EMPTY (R395). -/
def execPrivateRead (s : State) : Host.Outcome State Fault Refusal := .next (privateRead s)

/-- IBI_REQUEST: The device requests an IBI for a newly announced frame (R395). -/
def execIbiRequest (accepted : Bool) (s : State) : Host.Outcome State Fault Refusal := .next (ibiTry accepted s)

/-- IBI_RETRY: A refused or lost IBI is requested again (R395). -/
def execIbiRetry (accepted : Bool) (s : State) : Host.Outcome State Fault Refusal := .next (ibiTry accepted s)

/-- SYNC_OUT_PULSE: SYNC_OUT pulses at the selected instant plus its offset (R398). -/
def execSyncOutPulse (s : State) : Host.Outcome State Fault Refusal := .next (syncOutPulse s)

/-- TIO_MODE: A write of tio.mode of pin p (R399). -/
def execTioMode (r : Route) (p : Fin 16) (v : Byte) (s : State) : Host.Outcome State Fault Refusal :=
  .next (entryCmd r (cTio p.val 1) v.toNat none s)

/-- STOP_N_RISE: STOP_N is high again after its filter (R387, R395). -/
def execStopNRise (s : State) : Host.Outcome State Fault Refusal := .next (stopRise s)

end Sys2Proof.Machine
end

