-- ==== Sys2Proof/Machine/LedgerCmds.lean ====
section
/-! DEFINITION. Machine/LedgerCmds.lean: commands: the accession ledger and the archive (chapter 14). -/

namespace Sys2Proof.Machine

/-- LEDGER_SUBMIT: A submission is judged against its stream's expected tag (R302, R303, R482). -/
def execLedgerSubmit (x : Submission) (s : State) : Host.Outcome State Fault Refusal := .next (ledgerSubmit x (ledgerDrain s))

/-- ACKNOWLEDGE: The oldest held submission of stream k is acknowledged and accepted (R304). -/
def execAcknowledge (k : Fin 256) (s : State) : Host.Outcome State Fault Refusal := .next (acknowledge k.val (ledgerDrain s))

/-- DISPATCH: The next item of stream k is written to its dispatch slot (R309). -/
def execDispatch (k : Fin 256) (s : State) : Host.Outcome State Fault Refusal := .next (dispatch k.val (ledgerDrain s))

/-- LEDGER_DONE: A write of ledger.done (R310). -/
def execLedgerDone (r : Route) (v : Word) (s : State) : Host.Outcome State Fault Refusal :=
  .next (entryCmd r (callNo 0x1400 4) v.toNat none s)

/-- REPORT: A done item of stream k is reported in accession order (R311). -/
def execReport (k : Fin 256) (s : State) : Host.Outcome State Fault Refusal := .next (report k.val (ledgerDrain s))

/-- REPORT_ACK: The source acknowledges a report (R311). -/
def execReportAck (x : Origin) (k : Fin 256) (acc : BitVec 48) (s : State) : Host.Outcome State Fault Refusal :=
  .next (reportAck (originSrc x) (originId x) k.val acc.toNat s)

/-- REPORT_RETRY_EXPIRY: An unacknowledged report of stream k falls due again (R377, R393). -/
def execReportRetryExpiry (k : Fin 256) (s : State) : Host.Outcome State Fault Refusal := .next (reportRetry k.val s)

/-- ITEM_LOST: Both copies of an item have become unreadable (R308, R312). -/
def execItemLost (k : Fin 256) (acc : BitVec 48) (s : State) : Host.Outcome State Fault Refusal :=
  .next (itemLost k.val acc.toNat s)

/-- HANDOVER: ledger.cmd HANDOVER of stream k to pair m (R315). -/
def execHandover (r : Route) (k : Fin 256) (m : Fin 128) (s : State) : Host.Outcome State Fault Refusal :=
  .next (entryCmd r (callNo 0x1400 6) (1 + 256 * k.val + 65536 * m.val) none s)

/-- RELEASE: ledger.cmd RELEASE of stream k (R312). -/
def execRelease (r : Route) (k : Fin 256) (s : State) : Host.Outcome State Fault Refusal :=
  .next (entryCmd r (callNo 0x1400 6) (2 + 256 * k.val) none s)

/-- RESETSTREAM: ledger.cmd RESETSTREAM of stream k (R306). -/
def execResetstream (r : Route) (k : Fin 256) (s : State) : Host.Outcome State Fault Refusal :=
  .next (entryCmd r (callNo 0x1400 6) (3 + 256 * k.val) none s)

/-- LEDGER_STREAMS: A write of ledger.streams (R301). -/
def execLedgerStreams (r : Route) (table : List Byte) (s : State) : Host.Outcome State Fault Refusal :=
  .next (entryLong r cStreams table none s)

/-- PAGE_PROGRAM_START: The waiting records go into a page program (R319); a sleeping archive interface wakes for it (Table 18-5). -/
def execPageProgramStart (s : State) : Host.Outcome State Fault Refusal :=
  .next (if domGet s (.dev 9) = 0 then programStart s else wakeEvent (.dev 9) s)

/-- PAGE_PROGRAM_COMPLETE: A page program completes and its records become durable (R319). -/
def execPageProgramComplete (s : State) : Host.Outcome State Fault Refusal := .next (programDone s)

/-- BLOCK_ERASE_COMPLETE: A block erase completes (R323). -/
def execBlockEraseComplete (b : Fin 4096) (s : State) : Host.Outcome State Fault Refusal := .next (eraseDone b.val s)

/-- ARCHIVE_BLOCK_FAILURE: Block b fails a program or an erase (R321). -/
def execArchiveBlockFailure (b : Fin 4096) (s : State) : Host.Outcome State Fault Refusal := .next (blockFailure b.val s)

/-- ARCHIVE_REPLAY: The journal is replayed; `bad` are the SEQs of the records whose check fails (R322). -/
def execArchiveReplay (bad : List Nat) (s : State) : Host.Outcome State Fault Refusal := .next (replayRun bad s)

/-- WEED: archive.cmd WEED, or the free share below its threshold, starts a weeding run (R323, R324). -/
def execWeed (by_ : Option Route) (s : State) : Host.Outcome State Fault Refusal :=
  .next (match by_ with | some r => entryCmd r (callNo 0x1300 4) 1 none s | none => weedAuto s)

end Sys2Proof.Machine
end

