-- ==== Sys2Proof/Machine/MemoryCmds.lean ====
section
/-! DEFINITION. Machine/MemoryCmds.lean: commands: memory: shelf banks, error correction, shelf-read, wipes, DRAM and locked sequences (chapters 12, 13). -/

namespace Sys2Proof.Machine

/-- SHELF_ACCESS: Bank b of tile t serves one of the masters that reach it, 0 to 7 the engines and 8 the tile port (R149, R249, R250). -/
def execShelfAccess (t : Fin 32) (b : Fin 8) (reqs : List (Fin 9)) (upset : Fin 128) (s : State) : Host.Outcome State Fault Refusal :=
  .next (shelfAccess t.val b.val (reqs.map fun k => k.val) upset.val s)

/-- ECC_WRITEBACK: A corrected word of bank b is written back in an idle step (R250). -/
def execEccWriteback (b : Fin 256) (s : State) : Host.Outcome State Fault Refusal := .next (eccWriteback b.val s)

/-- SHELF_READ_REGION: The due region of bank b is tested; `cols` are the columns found faulty (R259 to R262, R264). -/
def execShelfReadRegion (b : Fin 256) (cols : List Nat) (s : State) : Host.Outcome State Fault Refusal :=
  .next (shelfReadRegion b.val cols s)

/-- COLUMN_REPAIR_SWAP: The filled spare column replaces column c of bank b (R264). -/
def execColumnRepairSwap (b : Fin 256) (c : Nat) (s : State) : Host.Outcome State Fault Refusal := .next (columnSwap b.val c s)

/-- BANK7_WIPE: Every bank 7 is wiped (R256): the wipe is triggered with its cause, 1 to 4, or writes its zeros while one runs. -/
def execBank7Wipe (cause : Fin 4) (s : State) : Host.Outcome State Fault Refusal :=
  .next (if s.mem.wipe.isSome then wipeBanks s else startWipe (cause.val + 1) s)

/-- WIPE_COMPLETE: The wipe ends (R256, R257). -/
def execWipeComplete (s : State) : Host.Outcome State Fault Refusal := .next (wipeComplete s)

/-- TILE_STACKS_ENABLE: A write of tile.stacks.enable (R255). -/
def execTileStacksEnable (r : Route) (t : Fin 32) (v : Byte) (s : State) : Host.Outcome State Fault Refusal :=
  .next (entryCmd r (cTile t.val 0x41) v.toNat none s)

/-- TILE_REMAP: A write of tile.remap (R243). -/
def execTileRemap (r : Route) (t : Fin 32) (v : Byte) (s : State) : Host.Outcome State Fault Refusal :=
  .next (entryCmd r (cTile t.val 0x40) v.toNat none s)

/-- DRAM_INIT_COMPLETE: DRAM initialisation ends, and the ledger's accesses that waited for it are served (R268). -/
def execDramInitComplete (s : State) : Host.Outcome State Fault Refusal := .next (ledgerDrain (dramInitDone s))

/-- DRAM_CHANNEL_OUT: DRAM channel c has an unrecoverable link error, or 16 uncorrectable errors within 1 s (R269); the mirror copies
on it are gone (R308), and the ledger's accesses that waited for it are answered with errors. -/
def execDramChannelOut (c : Fin 8) (linkError : Bool) (s : State) : Host.Outcome State Fault Refusal :=
  .next (if linkError = true ∨ 16 ≤ channelErrors s c.val then ledgerDrain (mirrorFollow c.val (channelOut c.val s)) else s)

/-- LOCK_LIMIT_EXPIRY: An open locked sequence has reached matrix.lock.limit (R284). -/
def execLockLimitExpiry (x : LockTarget) (s : State) : Host.Outcome State Fault Refusal :=
  .next (ledgerDrain (lockExpire (lockNo x) s))

end Sys2Proof.Machine
end

