-- ==== Sys2Proof/Machine/PairCmds.lean ====
section
/-! DEFINITION. Machine/PairCmds.lean: commands: pairs: captures, mismatches, restarts, spares and pair.cmd (chapter 11). -/

namespace Sys2Proof.Machine

/-- CAPTURE_INTERVAL_EXPIRY: pair.ckpt.interval steps have passed since the last capture (R221). -/
def execCaptureIntervalExpiry (m : Fin 128) (s : State) : Host.Outcome State Fault Refusal := .next (captureInterval m.val s)

/-- INPUT_LOG_FULL: The input log has reached its capture level (R221), or after a checker fault its end (R233). -/
def execInputLogFull (m : Fin 128) (s : State) : Host.Outcome State Fault Refusal := .next (logFull m.val s)

/-- CHECKPOINT_CAPTURE: A due capture is taken at a boundary that permits it, and what waits for it follows (R222, R231, R238). -/
def execCheckpointCapture (m : Fin 128) (s : State) : Host.Outcome State Fault Refusal := .next (servicePoll (checkpoint m.val s))

/-- MISMATCH: A compared item of pair m differs (R224, R227, R229, R230). -/
def execMismatch (m : Fin 128) (s : State) : Host.Outcome State Fault Refusal := .next (itemDiffers m.val s)

/-- PAIR_RESET_DONE: The engines of pair m have been reset and the restore begins (Table 11-5). -/
def execPairResetDone (m : Fin 128) (s : State) : Host.Outcome State Fault Refusal := .next (resetDone m.val s)

/-- RESTORE_COMPLETE: The restore steps have ended and the CRC is checked (R224); `bad`: it fails, or the slot is uncorrectable (R229). -/
def execRestoreComplete (m : Fin 128) (bad : Bool) (s : State) : Host.Outcome State Fault Refusal :=
  .next (restoreDone m.val bad s)

/-- REPLAY_COMPLETE: Replay reaches Br (R225); `bad`: the log was uncorrectable (Table 11-7). -/
def execReplayComplete (m : Fin 128) (bad : Bool) (s : State) : Host.Outcome State Fault Refusal := .next (replayEnd itemWrite m.val bad s)

/-- RECOVERY_OVERRUN: The segment's DEADLINE finds pair m still restarting (R228). -/
def execRecoveryOverrun (m : Fin 128) (s : State) : Host.Outcome State Fault Refusal := .next (recoveryOverrun m.val s)

/-- CHECKER_FAULT: A checker fault of pair m in a compare lane or a delay-chain stage (R233, R234). -/
def execCheckerFault (m : Fin 128) (lane : Fin 256) (s : State) : Host.Outcome State Fault Refusal :=
  .next (checkerFault m.val lane.val s)

/-- PROGRAM_COPY_COMPLETE: The loader's copy to the spare of pair m is complete (R231). -/
def execProgramCopyComplete (m : Fin 128) (s : State) : Host.Outcome State Fault Refusal := .next (programCopied m.val s)

/-- SPARE_CATCH_UP: The spare of pair m has caught up at a timed wait and takes over (R233). -/
def execSpareCatchUp (m : Fin 128) (s : State) : Host.Outcome State Fault Refusal := .next (servicePoll (spareCatchUp m.val s))

/-- PERIOD_MARK: A period mark occurs, and the actions that wait for it are applied (R20, R237, R315, R449, R454). -/
def execPeriodMark (s : State) : Host.Outcome State Fault Refusal := .next (periodMark s)

/-- SPLIT: pair.cmd SPLIT of pair m (R238, Table 11-11). -/
def execSplit (r : Route) (m : Fin 128) (s : State) : Host.Outcome State Fault Refusal :=
  .next (entryCmd r (cPair m.val 2) 3 none s)

/-- SPLIT_KEEP: pair.cmd SPLIT_KEEP of pair m (R238, Table 11-11). -/
def execSplitKeep (r : Route) (m : Fin 128) (s : State) : Host.Outcome State Fault Refusal :=
  .next (entryCmd r (cPair m.val 2) 4 none s)

/-- MERGE: pair.cmd MERGE of pair m (R238, Table 11-11). -/
def execMerge (r : Route) (m : Fin 128) (s : State) : Host.Outcome State Fault Refusal :=
  .next (entryCmd r (cPair m.val 2) 5 none s)

/-- MERGE_KEEP: pair.cmd MERGE_KEEP of pair m (R238, Table 11-11). -/
def execMergeKeep (r : Route) (m : Fin 128) (s : State) : Host.Outcome State Fault Refusal :=
  .next (entryCmd r (cPair m.val 2) 6 none s)

/-- MIGRATE: pair.cmd MIGRATE of pair m (R231, Table 11-11). -/
def execMigrate (r : Route) (m : Fin 128) (s : State) : Host.Outcome State Fault Refusal :=
  .next (entryCmd r (cPair m.val 2) 7 none s)

/-- PAIR_START: pair.cmd START of pair m (R241, Table 11-11). -/
def execPairStart (r : Route) (m : Fin 128) (s : State) : Host.Outcome State Fault Refusal :=
  .next (entryCmd r (cPair m.val 2) 1 none s)

/-- PAIR_STOP: pair.cmd STOP of pair m (R241, Table 11-11). -/
def execPairStop (r : Route) (m : Fin 128) (s : State) : Host.Outcome State Fault Refusal :=
  .next (entryCmd r (cPair m.val 2) 2 none s)

/-- PAIR_HALT: pair.cmd HALT of pair m (R239, Table 11-11). -/
def execPairHalt (r : Route) (m : Fin 128) (s : State) : Host.Outcome State Fault Refusal :=
  .next (entryCmd r (cPair m.val 2) 8 none s)

/-- PAIR_RESUME: pair.cmd RESUME of pair m (R239, Table 11-11). -/
def execPairResume (r : Route) (m : Fin 128) (s : State) : Host.Outcome State Fault Refusal :=
  .next (entryCmd r (cPair m.val 2) 9 none s)

/-- PAIR_STEP: pair.cmd STEP of pair m (R239, Table 11-11). -/
def execPairStep (r : Route) (m : Fin 128) (s : State) : Host.Outcome State Fault Refusal :=
  .next (entryCmd r (cPair m.val 2) 10 none s)

/-- INJECT: pair.cmd INJECT of pair m (R235); `fault` is the lane or stage that fails a step of Table 11-6. -/
def execInject (r : Route) (m : Fin 128) (fault : Option (Fin 256)) (s : State) : Host.Outcome State Fault Refusal :=
  .next (entryCmd r (cPair m.val 2) 11 (fault.map fun k => k.val) s)

end Sys2Proof.Machine
end

