-- ==== Sys2Proof/Machine/PowerCmds.lean ====
section
/-! DEFINITION. Machine/PowerCmds.lean: commands: the supply, pace control and the power domains (chapter 18). -/

namespace Sys2Proof.Machine

/-- PACE_EVALUATION: The controller of rail k evaluates the measured rates of its four tiles (R412 to R415). -/
def execPaceEvaluation (k : Fin 8) (rates : List (BitVec 16)) (s : State) : Host.Outcome State Fault Refusal :=
  .next (paceStep k.val (rates.map fun x => x.toNat) s)

/-- READ_VOLTAGE: A link READ of rail k, OP 2 of Table 18-2 (R409). -/
def execReadVoltage (k : Fin 8) (s : State) : Host.Outcome State Fault Refusal := .next (linkRead k.val 2 s)

/-- READ_CURRENT: A link READ of rail k, OP 3 of Table 18-2 (R409). -/
def execReadCurrent (k : Fin 8) (s : State) : Host.Outcome State Fault Refusal := .next (linkRead k.val 3 s)

/-- READ_PHASE_STATE: A link READ of rail k, OP 4 of Table 18-2 (R409). -/
def execReadPhaseState (k : Fin 8) (s : State) : Host.Outcome State Fault Refusal := .next (linkRead k.val 4 s)

/-- LINK_ACKNOWLEDGEMENT: An acknowledgement with good CRC arrives (R409, R410). -/
def execLinkAcknowledgement (k : Fin 8) (seq : Fin 256) (result : Fin 4) (data : BitVec 14) (s : State) : Host.Outcome State Fault Refusal :=
  .next (linkAck k.val seq.val result.val data.toNat s)

/-- LINK_ERROR: A bad or missing acknowledgement (R411). -/
def execLinkError (k : Fin 8) (s : State) : Host.Outcome State Fault Refusal := .next (linkError k.val s)

/-- PHASE_FAILURE: Buck phase p fails (R407); mv is the voltage a second failure leaves. -/
def execPhaseFailure (p : Fin 13) (mv : Nat) (s : State) : Host.Outcome State Fault Refusal := .next (phaseFailure p.val mv s)

/-- PACE_CONFIRM_TIMEOUT: No confirmation of tile t within 400 µs (R415, R416). -/
def execPaceConfirmTimeout (t : Fin 32) (s : State) : Host.Outcome State Fault Refusal := .next (confirmTimeout t.val s)

/-- IDLE_TIMER_EXPIRY: The idle timer of a domain has run out (R418). -/
def execIdleTimerExpiry (d : Dom) (s : State) : Host.Outcome State Fault Refusal := .next (idleExpiry d s)

/-- DOMAIN_ON: A domain command with request on (R417, R418, R421). -/
def execDomainOn (r : Route) (d : Dom) (s : State) : Host.Outcome State Fault Refusal := .next (domainCmd r d 0 s)

/-- DOMAIN_RETENTION: A domain command with request retention (R417, R418, R421). -/
def execDomainRetention (r : Route) (d : Dom) (s : State) : Host.Outcome State Fault Refusal := .next (domainCmd r d 1 s)

/-- DOMAIN_OFF: A domain command with request off (R417, R418, R421). -/
def execDomainOff (r : Route) (d : Dom) (s : State) : Host.Outcome State Fault Refusal := .next (domainCmd r d 2 s)

/-- RETENTION_COMMIT_POINT: The quiesce phase of a domain ends (R419). -/
def execRetentionCommitPoint (d : Dom) (s : State) : Host.Outcome State Fault Refusal := .next (commitPoint d s)

/-- RETENTION_SAVE_COMPLETE: The save phase of a domain ends (R419, R421). -/
def execRetentionSaveComplete (d : Dom) (s : State) : Host.Outcome State Fault Refusal := .next (saveComplete d s)

/-- WAKE_EVENT: A wake event of a domain (R419, R421). -/
def execWakeEvent (d : Dom) (s : State) : Host.Outcome State Fault Refusal := .next (wakeEvent d s)

/-- WAKE_COMPLETE: A woken domain is on, and what waited for it goes on (R416, R420). -/
def execWakeComplete (d : Dom) (s : State) : Host.Outcome State Fault Refusal := .next (ledgerDrain (wakeFollow d s))

/-- DOMAIN_FILL_COMPLETE: A tile or bank that leaves off has been filled (R253, R417). -/
def execDomainFillComplete (d : Dom) (s : State) : Host.Outcome State Fault Refusal := .next (servicePoll (fillComplete d s))

/-- RATING_BREACH: A rating is left: 0 VIN, 1 input power, 2 + t the junction of tile t (R422, R423). -/
def execRatingBreach (what : Fin 34) (value : Nat) (s : State) : Host.Outcome State Fault Refusal :=
  .next (ratingBreach what.val value s)

/-- RATING_RESTORED: A rating holds again (R422, R423). -/
def execRatingRestored (what : Fin 34) (value : Nat) (s : State) : Host.Outcome State Fault Refusal :=
  .next (ratingRestored what.val value s)

/-- JUNCTION_WARNING: A junction sensor of tile t rises above 115 °C (R423). -/
def execJunctionWarning (t : Fin 32) (s : State) : Host.Outcome State Fault Refusal := .next (junctionWarning t.val s)

/-- LINEAR_REGULATOR_FAULT: A fault of a linear regulator: 0 VANA, 1 the always-on rail (R407). -/
def execLinearRegulatorFault (which : Fin 2) (mv : Nat) (s : State) : Host.Outcome State Fault Refusal :=
  .next (regulatorFault (11 + which.val) mv s)

/-- NON_SINGLE_PART_FAULT: A fault of a part that is not single (R33). -/
def execNonSinglePartFault (s : State) : Host.Outcome State Fault Refusal := .next (nonSingleFault s)

end Sys2Proof.Machine
end

