-- ==== Sys2Proof/Machine/RingCmds.lean ====
section
/-! DEFINITION. Machine/RingCmds.lean: commands: the rings and their ports (chapter 16). -/

namespace Sys2Proof.Machine

/-- RING_CYCLE_START: A master's cycle starts and its cyclic frame is launched (R355). -/
def execRingCycleStart (r : Fin 2) (s : State) : Host.Outcome State Fault Refusal := .next (cycleLaunch r.val s)

/-- NODE_FRAME_PASS: A frame reaches a node's in-port at timestamp point ts and stays resid quarter-nanoseconds (R356 to R362, R373). -/
def execNodeFramePass (r : Fin 2) (ts : Nat) (resid : Nat) (f : List Byte) (s : State) : Host.Outcome State Fault Refusal :=
  .next (nodePass serve r.val ts resid f s)

/-- NODE_MISSING_LIMIT: A node's cyclic frame has not arrived 2 µs after its expected arrival (R356). -/
def execNodeMissingLimit (r : Fin 2) (s : State) : Host.Outcome State Fault Refusal := .next (nodeMissing r.val s)

/-- MASTER_DECISION: The master decides the returned cyclic frame (R369 to R371, R380). -/
def execMasterDecision (r : Fin 2) (ts : Nat) (f : List Byte) (s : State) : Host.Outcome State Fault Refusal :=
  .next (masterDecide serve r.val ts f s)

/-- MISSING_LIMIT: The returned frame has not arrived by E + 2 µs (R380). -/
def execMissingLimit (r : Fin 2) (s : State) : Host.Outcome State Fault Refusal := .next (missingLimit r.val s)

/-- ACYCLIC_FRAME_SEND: The master sends an acyclic frame in the frame window (R373, R381), or a waiting PROBE (R382). -/
def execAcyclicFrameSend (r : Fin 2) (s : State) : Host.Outcome State Fault Refusal := .next (acycSend r.val s)

/-- ACYC_SEGMENT_RECEIVE: A received ACYC segment is taken and routed (R374 to R378). -/
def execAcycSegmentReceive (r : Fin 2) (peer : Fin 256) (taken : Fin 4) (xid : Fin 256) (data : List Byte) (s : State) : Host.Outcome State Fault Refusal :=
  .next (acycReturned serve r.val peer.val taken.val xid.val data s)

/-- ACYC_RETRY_EXPIRY: An unacknowledged segment falls due again (R374). -/
def execAcycRetryExpiry (r : Fin 2) (peer : Fin 256) (s : State) : Host.Outcome State Fault Refusal :=
  .next (acycRetry r.val peer.val s)

/-- ACYC_TRANSMIT: A store to the transmit word by engine `who`, or 256 for another master, queues the staged segment (R378). -/
def execAcycTransmit (r : Fin 2) (who : Fin 257) (dest : Fin 256) (s : State) : Host.Outcome State Fault Refusal :=
  .next (if mayStage s r.val who.val then acycTransmit r.val dest.val s else s)

/-- ACYC_QUEUE_POP: A load of byte 0x2FF removes the head entry of the acyclic receive queue (R378). -/
def execAcycQueuePop (r : Fin 2) (s : State) : Host.Outcome State Fault Refusal := .next (viewPop (.acyc r.val 0x2FF) 1 s)

/-- CAPTURE_QUEUE_POP: A load of byte 0x2F removes the head capture record of source q (R248). -/
def execCaptureQueuePop (q : Fin 17) (s : State) : Host.Outcome State Fault Refusal := .next (viewPop (.cap q.val 0x2F) 1 s)

/-- RECEIVE_QUEUE_VIEW_POP: A load from the own-queue view of engine n removes the head word, or with `level` clears the sticky bits (R248). -/
def execReceiveQueueViewPop (n : Fin 256) (level : Bool) (s : State) : Host.Outcome State Fault Refusal :=
  .next (ownQueuePop n.val level s)

/-- SCAN: ring.cmd SCAN (R382). -/
def execScan (rt : Route) (r : Fin 2) (s : State) : Host.Outcome State Fault Refusal :=
  .next (entryCmd rt (cRing r.val 0x20) 1 none s)

/-- LINK_DOWN: The link of port q goes down (R383). -/
def execLinkDown (q : Fin 4) (s : State) : Host.Outcome State Fault Refusal := .next (linkDown q.val s)

/-- LINK_UP: The link of port q comes up: 1 = 100BASE-TX, 2 = 1000BASE-T (R352). -/
def execLinkUp (q : Fin 4) (speed : Fin 3) (s : State) : Host.Outcome State Fault Refusal := .next (linkUpAt q.val speed.val s)

/-- MASTER_LOOP_ENTRY: The master receives its own frame at its out-port, or launches with a link down (R384). -/
def execMasterLoopEntry (r : Fin 2) (f : List Byte) (s : State) : Host.Outcome State Fault Refusal := .next (masterLoop r.val f s)

/-- RING_CLOSE: The loop closes after CLOSE (R385). -/
def execRingClose (r : Fin 2) (s : State) : Host.Outcome State Fault Refusal := .next (ringClose r.val s)

/-- PATH_DELAY_MEASURED: The path delays of ring r are measured, from the out-port's link on (R37). -/
def execPathDelayMeasured (r : Fin 2) (ds : List Nat) (s : State) : Host.Outcome State Fault Refusal :=
  .next (pathMeasured r.val ds s)

/-- PTP_SYNC_SEND: A Sync message is sent in the PTP window (R363, R364). -/
def execPtpSyncSend (q : Fin 4) (s : State) : Host.Outcome State Fault Refusal := .next (syncSend q.val s)

/-- PDELAY_SEND: A Pdelay exchange starts in the PTP window (R363, R364). -/
def execPdelaySend (q : Fin 4) (s : State) : Host.Outcome State Fault Refusal := .next (pdelaySend q.val s)

/-- PTP_MESSAGE_RECEIVE: An 802.1AS message of type k and sequence number n reaches port q at ts; v is the time it carries (R363). -/
def execPtpMessageReceive (q : Fin 4) (k : Nat) (n : Nat) (ts : Nat) (v : Nat) (s : State) : Host.Outcome State Fault Refusal :=
  .next (ptpReceive q.val k n ts v s)

/-- RING_ROLE: A write of ring.role (R354). -/
def execRingRole (rt : Route) (r : Fin 2) (v : Byte) (s : State) : Host.Outcome State Fault Refusal :=
  .next (entryCmd rt (cRing r.val 1) v.toNat none s)

/-- SAFE_STOP: STOP_N is low past its filter (R387, R397, R400). -/
def execSafeStop (s : State) : Host.Outcome State Fault Refusal := .next (stopLow s)

/-- STOP_RELEASE: ring.cmd RELEASE (R387). -/
def execStopRelease (rt : Route) (r : Fin 2) (s : State) : Host.Outcome State Fault Refusal :=
  .next (entryCmd rt (cRing r.val 0x20) 2 none s)

/-- REVERSE_FRAME_PASS: A frame arrives in the reverse direction during loopback (R383). -/
def execReverseFramePass (r : Fin 2) (resid : Nat) (f : List Byte) (s : State) : Host.Outcome State Fault Refusal :=
  .next (reversePass r.val resid f s)

/-- LINK_HEALED: A looping node's broken link has been up for 100 ms (R385). -/
def execLinkHealed (q : Fin 4) (s : State) : Host.Outcome State Fault Refusal := .next (linkHealed q.val s)

/-- PROBE_RETURN: The PROBE frame has returned (R382). -/
def execProbeReturn (r : Fin 2) (ts : Nat) (f : List Byte) (s : State) : Host.Outcome State Fault Refusal :=
  .next (probeReturn r.val ts f s)

end Sys2Proof.Machine
end

