-- ==== Sys2Proof/Machine/ServiceCmds.lean ====
section
/-! DEFINITION. Machine/ServiceCmds.lean: commands: service jobs and the folio loader (chapter 20). -/

namespace Sys2Proof.Machine

/-- LOAD: svc.cmd LOAD (R449, Table 20-1). -/
def execLoad (r : Route) (x : SvcFields) (s : State) : Host.Outcome State Fault Refusal := .next (svcCommand r 1 x none s)

/-- UNLOAD: svc.cmd UNLOAD (R450, Table 20-1). -/
def execUnload (r : Route) (x : SvcFields) (s : State) : Host.Outcome State Fault Refusal := .next (svcCommand r 2 x none s)

/-- STORE: svc.cmd STORE (R445, Table 20-1). -/
def execStore (r : Route) (x : SvcFields) (s : State) : Host.Outcome State Fault Refusal := .next (svcCommand r 3 x none s)

/-- DELETE: svc.cmd DELETE (R445, Table 20-1). -/
def execDelete (r : Route) (x : SvcFields) (s : State) : Host.Outcome State Fault Refusal := .next (svcCommand r 4 x none s)

/-- CUTOVER: svc.cmd CUTOVER (R453, Table 20-1). -/
def execCutover (r : Route) (x : SvcFields) (s : State) : Host.Outcome State Fault Refusal := .next (svcCommand r 5 x none s)

/-- CUTOVER_ARMING_DEADLINE: 20 µs before its mark the cut-over of job j is checked again (R454). -/
def execCutoverArmingDeadline (j : Fin 16) (s : State) : Host.Outcome State Fault Refusal := .next (armingDeadline j.val s)

/-- CANCEL: svc.cmd CANCEL (R453, Table 20-1). -/
def execCancel (r : Route) (x : SvcFields) (s : State) : Host.Outcome State Fault Refusal := .next (svcCommand r 6 x none s)

/-- SELFTEST: svc.cmd SELFTEST (R457); `fault` is what the test finds. -/
def execSelftest (r : Route) (x : SvcFields) (fault : Option (Fin 256)) (s : State) : Host.Outcome State Fault Refusal :=
  .next (svcCommand r 7 x (fault.map fun k => k.val) s)

/-- CALIB: svc.cmd CALIB (R459, Table 20-1). -/
def execCalib (r : Route) (x : SvcFields) (s : State) : Host.Outcome State Fault Refusal := .next (svcCommand r 8 x none s)

/-- AUTO_CALIBRATION: tile.temp has moved 30 K since the last calibration of tile t (R459). -/
def execAutoCalibration (t : Fin 32) (temp : Int) (s : State) : Host.Outcome State Fault Refusal :=
  .next (autoCalibrate t.val temp s)

/-- REPAIR: svc.cmd REPAIR (R460, Table 20-1). -/
def execRepair (r : Route) (x : SvcFields) (s : State) : Host.Outcome State Fault Refusal := .next (svcCommand r 9 x none s)

/-- FWBEGIN: svc.cmd FWBEGIN (R461, Table 20-1). -/
def execFwbegin (r : Route) (x : SvcFields) (s : State) : Host.Outcome State Fault Refusal := .next (svcCommand r 10 x none s)

/-- FWCOMMIT: svc.cmd FWCOMMIT (R461, Table 20-1). -/
def execFwcommit (r : Route) (x : SvcFields) (s : State) : Host.Outcome State Fault Refusal := .next (svcCommand r 11 x none s)

/-- SERVICERESET: svc.cmd SERVICERESET (R460, Table 20-1). -/
def execServicereset (r : Route) (x : SvcFields) (s : State) : Host.Outcome State Fault Refusal :=
  .next (svcCommand r 12 x none s)

/-- SVC_STAGE_CHUNK: A write of svc.stage.chunk (R448). -/
def execSvcStageChunk (r : Route) (data : List Byte) (s : State) : Host.Outcome State Fault Refusal :=
  .next (entryLong r (callNo 0x1050 4) data none s)

end Sys2Proof.Machine
end

