-- ==== Sys2Proof/Machine/TapCmds.lean ====
section
/-! DEFINITION. Machine/TapCmds.lean: commands: the test port and debug access (chapter 17). -/

namespace Sys2Proof.Machine

/-- EXTEST: EXTEST: `levels` are captured from the pins, `shift` drives them; the device is held (R401). -/
def execExtest (levels : List Bool) (shift : List Bool) (s : State) : Host.Outcome State Fault Refusal :=
  .next (tapScan 0x00 levels shift s)

/-- IDCODE: IDCODE (Table 17-6). -/
def execIdcode (s : State) : Host.Outcome State Fault Refusal := .next (tapSelect 0x01 0x12560793 s)

/-- SAMPLE_PRELOAD: SAMPLE/PRELOAD: `levels` are captured from the pins, `shift` is preloaded (Table 17-6). -/
def execSamplePreload (levels : List Bool) (shift : List Bool) (s : State) : Host.Outcome State Fault Refusal :=
  .next (tapScan 0x02 levels shift s)

/-- CLAMP: CLAMP selects bypass and holds the device (R401). -/
def execClamp (s : State) : Host.Outcome State Fault Refusal := .next (tapSelect 0x04 0 s)

/-- HIGHZ: HIGHZ selects bypass and holds the device (R401). -/
def execHighz (s : State) : Host.Outcome State Fault Refusal := .next (tapSelect 0x05 0 s)

/-- BYPASS: BYPASS (Table 17-6). -/
def execBypass (s : State) : Host.Outcome State Fault Refusal := .next (tapSelect 0x1F 0 s)

/-- DBG_OPEN: An unlock is shifted through DBG_OPEN (R402, R437, R439). -/
def execDbgOpen (sig : List Byte) (s : State) : Host.Outcome State Fault Refusal := .next (dbgOpen sig (tapFree s))

/-- DBG_ACC_POLL: A poll returns the outcome of the last access (R402); `reserved`: OP is 0b11. -/
def execDbgAccPoll (reserved : Bool) (s : State) : Host.Outcome State Fault Refusal := .next (dbgPoll reserved (tapFree s))

/-- DBG_ACC_READ: A DBG_ACC read (R402). -/
def execDbgAccRead (space : Fin 4) (a : BitVec 40) (s : State) : Host.Outcome State Fault Refusal :=
  .next (dbgAccess false space.val a.toNat 0 (tapFree s))

/-- DBG_ACC_WRITE: A DBG_ACC write (R240, R402). -/
def execDbgAccWrite (space : Fin 4) (a : BitVec 40) (v : Word) (s : State) : Host.Outcome State Fault Refusal :=
  .next (dbgAccess true space.val a.toNat v.toNat (tapFree s))

/-- TRST_N_LOW: TRST_N low closes debug access and selects IDCODE (R401, R402). -/
def execTrstNLow (s : State) : Host.Outcome State Fault Refusal := .next (trstLow s)

/-- DBG_TIMEOUT: dbg.timeout has passed without an access (R402). -/
def execDbgTimeout (s : State) : Host.Outcome State Fault Refusal := .next (dbgTimeout s)

end Sys2Proof.Machine
end

