-- ==== Sys2Proof/Machine/TimeCmds.lean ====
section
/-! DEFINITION. Machine/TimeCmds.lean: commands: device time: periods, the discipline, followers, stamps, refresh and quiet windows (chapters 1, 9, 12, 13). -/

namespace Sys2Proof.Machine

/-- TIME_PERIOD_RUN: A write of time.period.run (R21). -/
def execTimePeriodRun (r : Route) (v : Byte) (s : State) : Host.Outcome State Fault Refusal :=
  .next (entryCmd r (callNo 0x1110 4) v.toNat none s)

/-- DISCIPLINE_MEASUREMENT: A valid measurement of the selected source: its offset and the rate that the discipline chooses (R172, R173). -/
def execDisciplineMeasurement (off : Int) (rate : Int) (s : State) : Host.Outcome State Fault Refusal :=
  .next (measure off rate s)

/-- SOURCE_LOST: Eight expected intervals have passed without a valid measurement (R172). -/
def execSourceLost (s : State) : Host.Outcome State Fault Refusal := .next (sourceLost s)

/-- HOLDOVER_LIMIT_EXPIRY: Holdover has outlasted time.holdover.limit (R172). -/
def execHoldoverLimitExpiry (s : State) : Host.Outcome State Fault Refusal := .next (holdoverOver s)

/-- TIME_SET: A write of time.set (R173). -/
def execTimeSet (r : Route) (v : BitVec 64) (s : State) : Host.Outcome State Fault Refusal :=
  .next (entryCmd r (callNo 0x1100 8) v.toNat none s)

/-- TIME_SOURCE: A write of time.source (R175). -/
def execTimeSource (r : Route) (v : Byte) (s : State) : Host.Outcome State Fault Refusal :=
  .next (entryCmd r (callNo 0x1100 3) v.toNat none s)

/-- FOLLOWER_LOCK_LOSS: The follower of tile t loses lock (R174). -/
def execFollowerLockLoss (t : Fin 32) (s : State) : Host.Outcome State Fault Refusal := .next (followerLost t.val s)

/-- FOLLOWER_RELOCK: The follower of tile t locks (R174). -/
def execFollowerRelock (t : Fin 32) (s : State) : Host.Outcome State Fault Refusal := .next (followerLock t.val s)

/-- FOLLOWER_RELOCK_TIMEOUT: The follower of tile t has not relocked in time (R174). -/
def execFollowerRelockTimeout (t : Fin 32) (s : State) : Host.Outcome State Fault Refusal := .next (followerTimeout t.val s)

/-- STAMPED_OUTPUT_APPLY: The stamped outputs whose T has come take effect (R182, R184). -/
def execStampedOutputApply (s : State) : Host.Outcome State Fault Refusal := .next (stampedDue s)

/-- OUTPUT_WRITE_ARRIVAL: The oldest write of a sender reaches its image or pin (R23, R182, R183). -/
def execOutputWriteArrival (src : Fin 257) (s : State) : Host.Outcome State Fault Refusal := .next (outArrival src.val s)

/-- INPUT_CAPTURE: An edge at TIO pin q, or at SYNC_IN for q = 16 (R185, R204). -/
def execInputCapture (q : Fin 17) (rising : Bool) (s : State) : Host.Outcome State Fault Refusal := .next (edgeAt q.val rising s)

/-- TILE_TIME_LATE_CLEAR: A write of tile.time.late clears the bits written 1 (R181). -/
def execTileTimeLateClear (r : Route) (t : Fin 32) (v : Byte) (s : State) : Host.Outcome State Fault Refusal :=
  .next (entryCmd r (cTile t.val 0x22) v.toNat none s)

/-- REFRESH_WINDOW: A DRAM refresh window begins (R187, R270, R271). -/
def execRefreshWindow (s : State) : Host.Outcome State Fault Refusal := .next (refreshWindow s)

/-- REFRESH_COMMAND: A refresh command of all channels issues (R270, R271). -/
def execRefreshCommand (s : State) : Host.Outcome State Fault Refusal := .next (refreshCommand s)

/-- QUIET_WINDOW_LEAD: 600 ns before a quiet window opens (R293). -/
def execQuietWindowLead (s : State) : Host.Outcome State Fault Refusal := .next (quietLead s)

/-- QUIET_WINDOW_CLOSE: A quiet window closes (R293). -/
def execQuietWindowClose (s : State) : Host.Outcome State Fault Refusal := .next (quietClose s)

/-- OUTPUT_IMAGE_FREEZE: Ring r's output image is frozen for its next frame (R23). -/
def execOutputImageFreeze (r : Fin 2) (s : State) : Host.Outcome State Fault Refusal := .next (freezeImage r.val s)

end Sys2Proof.Machine
end

