-- ==== Sys2Proof/Machine/XferCmds.lean ====
section
/-! DEFINITION. Machine/XferCmds.lean: commands: transfer channels and units (chapter 13). -/

namespace Sys2Proof.Machine

/-- XF_START: A write of xf.ctl with EN = 1 (R289). -/
def execXfStart (r : Route) (c : Fin 64) (ctl : BitVec 32) (s : State) : Host.Outcome State Fault Refusal :=
  .next (entryCmd r (cXf c.val 4) (ctl ||| 1#32).toNat none s)

/-- XF_STOP: A write of xf.ctl with EN = 0 (R296). -/
def execXfStop (r : Route) (c : Fin 64) (ctl : BitVec 32) (s : State) : Host.Outcome State Fault Refusal :=
  .next (entryCmd r (cXf c.val 4) (ctl &&& ~~~1#32).toNat none s)

/-- XF_TRANSACTION_ISSUE: Transfer unit u issues its next transaction (R292). -/
def execXfTransactionIssue (u : Fin 4) (s : State) : Host.Outcome State Fault Refusal :=
  .next (if domGet s (.dev (Fin.ofNat 10 (5 + u.val))) = 0 then xfIssue u.val s else s)

/-- XF_TRANSACTION_DONE: The oldest read or write in flight of channel c is performed (R290, R294 to R296). -/
def execXfTransactionDone (c : Fin 64) (write : Bool) (upset : Fin 128) (s : State) : Host.Outcome State Fault Refusal :=
  .next (if write then xfWrite c.val upset.val s else xfRead c.val upset.val s)

/-- XFU_DISABLE: A write of 1 to xfu.disable (R297). -/
def execXfuDisable (r : Route) (u : Fin 4) (s : State) : Host.Outcome State Fault Refusal :=
  .next (entryCmd r (callNo (0x1930 + u.val) 1) 1 none s)

/-- XFU_REENABLE: A write of 0 to xfu.disable (R297). -/
def execXfuReenable (r : Route) (u : Fin 4) (s : State) : Host.Outcome State Fault Refusal :=
  .next (entryCmd r (callNo (0x1930 + u.val) 1) 0 none s)

end Sys2Proof.Machine
end

