-- ==== Sys2Proof/Machine/Dispatch.lean ====
section
/-! DEFINITION. Machine/Dispatch.lean: every command and its meaning. -/

namespace Sys2Proof.Machine

/-- The effect of a command on everything but the queue of waiting commands.
[DESIGN CHOICE, log row 1; DESIGN CHOICE, log row 5; DESIGN CHOICE, log row 6; DESIGN CHOICE, log row 48; DESIGN CHOICE, log row 49] -/
def exec (i : Instr) (s : State) : Host.Outcome State Fault Refusal :=
  match i with
  | .bundleIssue n a => Sys2Proof.Machine.execBundleIssue n a s
  | .loadReturn n upset => Sys2Proof.Machine.execLoadReturn n upset s
  | .storePerformed n => Sys2Proof.Machine.execStorePerformed n s
  | .engineStallStep n => Sys2Proof.Machine.execEngineStallStep n s
  | .heavyMeterStep t release => Sys2Proof.Machine.execHeavyMeterStep t release s
  | .exceptionEntry n => Sys2Proof.Machine.execExceptionEntry n s
  | .interruptSourceEvent k n => Sys2Proof.Machine.execInterruptSourceEvent k n s
  | .interruptEntry n takeover => Sys2Proof.Machine.execInterruptEntry n takeover s
  | .atomicWindowOverrun n => Sys2Proof.Machine.execAtomicWindowOverrun n s
  | .timedWaitRelease n q => Sys2Proof.Machine.execTimedWaitRelease n q s
  | .armedStartRelease n q => Sys2Proof.Machine.execArmedStartRelease n q s
  | .xuWordArrival dst senders => Sys2Proof.Machine.execXuWordArrival dst senders s
  | .xuStampedEntry dst => Sys2Proof.Machine.execXuStampedEntry dst s
  | .engineStart r n => Sys2Proof.Machine.execEngineStart r n s
  | .engineStop r n => Sys2Proof.Machine.execEngineStop r n s
  | .engineHalt r n => Sys2Proof.Machine.execEngineHalt r n s
  | .engineResume r n => Sys2Proof.Machine.execEngineResume r n s
  | .engineStep r n => Sys2Proof.Machine.execEngineStep r n s
  | .engineReset r n => Sys2Proof.Machine.execEngineReset r n s
  | .captureIntervalExpiry m => Sys2Proof.Machine.execCaptureIntervalExpiry m s
  | .inputLogFull m => Sys2Proof.Machine.execInputLogFull m s
  | .checkpointCapture m => Sys2Proof.Machine.execCheckpointCapture m s
  | .mismatch m => Sys2Proof.Machine.execMismatch m s
  | .pairResetDone m => Sys2Proof.Machine.execPairResetDone m s
  | .restoreComplete m bad => Sys2Proof.Machine.execRestoreComplete m bad s
  | .replayComplete m bad => Sys2Proof.Machine.execReplayComplete m bad s
  | .recoveryOverrun m => Sys2Proof.Machine.execRecoveryOverrun m s
  | .checkerFault m lane => Sys2Proof.Machine.execCheckerFault m lane s
  | .programCopyComplete m => Sys2Proof.Machine.execProgramCopyComplete m s
  | .spareCatchUp m => Sys2Proof.Machine.execSpareCatchUp m s
  | .periodMark => Sys2Proof.Machine.execPeriodMark s
  | .split r m => Sys2Proof.Machine.execSplit r m s
  | .splitKeep r m => Sys2Proof.Machine.execSplitKeep r m s
  | .merge r m => Sys2Proof.Machine.execMerge r m s
  | .mergeKeep r m => Sys2Proof.Machine.execMergeKeep r m s
  | .migrate r m => Sys2Proof.Machine.execMigrate r m s
  | .pairStart r m => Sys2Proof.Machine.execPairStart r m s
  | .pairStop r m => Sys2Proof.Machine.execPairStop r m s
  | .pairHalt r m => Sys2Proof.Machine.execPairHalt r m s
  | .pairResume r m => Sys2Proof.Machine.execPairResume r m s
  | .pairStep r m => Sys2Proof.Machine.execPairStep r m s
  | .inject r m fault => Sys2Proof.Machine.execInject r m fault s
  | .timePeriodRun r v => Sys2Proof.Machine.execTimePeriodRun r v s
  | .disciplineMeasurement off rate => Sys2Proof.Machine.execDisciplineMeasurement off rate s
  | .sourceLost => Sys2Proof.Machine.execSourceLost s
  | .holdoverLimitExpiry => Sys2Proof.Machine.execHoldoverLimitExpiry s
  | .timeSet r v => Sys2Proof.Machine.execTimeSet r v s
  | .timeSource r v => Sys2Proof.Machine.execTimeSource r v s
  | .followerLockLoss t => Sys2Proof.Machine.execFollowerLockLoss t s
  | .followerRelock t => Sys2Proof.Machine.execFollowerRelock t s
  | .followerRelockTimeout t => Sys2Proof.Machine.execFollowerRelockTimeout t s
  | .stampedOutputApply => Sys2Proof.Machine.execStampedOutputApply s
  | .outputWriteArrival src => Sys2Proof.Machine.execOutputWriteArrival src s
  | .inputCapture q rising => Sys2Proof.Machine.execInputCapture q rising s
  | .tileTimeLateClear r t v => Sys2Proof.Machine.execTileTimeLateClear r t v s
  | .refreshWindow => Sys2Proof.Machine.execRefreshWindow s
  | .refreshCommand => Sys2Proof.Machine.execRefreshCommand s
  | .quietWindowLead => Sys2Proof.Machine.execQuietWindowLead s
  | .quietWindowClose => Sys2Proof.Machine.execQuietWindowClose s
  | .outputImageFreeze r => Sys2Proof.Machine.execOutputImageFreeze r s
  | .shelfAccess t b reqs upset => Sys2Proof.Machine.execShelfAccess t b reqs upset s
  | .eccWriteback b => Sys2Proof.Machine.execEccWriteback b s
  | .shelfReadRegion b cols => Sys2Proof.Machine.execShelfReadRegion b cols s
  | .columnRepairSwap b c => Sys2Proof.Machine.execColumnRepairSwap b c s
  | .bank7Wipe cause => Sys2Proof.Machine.execBank7Wipe cause s
  | .wipeComplete => Sys2Proof.Machine.execWipeComplete s
  | .tileStacksEnable r t v => Sys2Proof.Machine.execTileStacksEnable r t v s
  | .tileRemap r t v => Sys2Proof.Machine.execTileRemap r t v s
  | .dramInitComplete => Sys2Proof.Machine.execDramInitComplete s
  | .dramChannelOut c linkError => Sys2Proof.Machine.execDramChannelOut c linkError s
  | .lockLimitExpiry x => Sys2Proof.Machine.execLockLimitExpiry x s
  | .xfStart r c ctl => Sys2Proof.Machine.execXfStart r c ctl s
  | .xfStop r c ctl => Sys2Proof.Machine.execXfStop r c ctl s
  | .xfTransactionIssue u => Sys2Proof.Machine.execXfTransactionIssue u s
  | .xfTransactionDone c write upset => Sys2Proof.Machine.execXfTransactionDone c write upset s
  | .xfuDisable r u => Sys2Proof.Machine.execXfuDisable r u s
  | .xfuReenable r u => Sys2Proof.Machine.execXfuReenable r u s
  | .ledgerSubmit x => Sys2Proof.Machine.execLedgerSubmit x s
  | .acknowledge k => Sys2Proof.Machine.execAcknowledge k s
  | .dispatch k => Sys2Proof.Machine.execDispatch k s
  | .ledgerDone r v => Sys2Proof.Machine.execLedgerDone r v s
  | .report k => Sys2Proof.Machine.execReport k s
  | .reportAck x k acc => Sys2Proof.Machine.execReportAck x k acc s
  | .reportRetryExpiry k => Sys2Proof.Machine.execReportRetryExpiry k s
  | .itemLost k acc => Sys2Proof.Machine.execItemLost k acc s
  | .handover r k m => Sys2Proof.Machine.execHandover r k m s
  | .release r k => Sys2Proof.Machine.execRelease r k s
  | .resetstream r k => Sys2Proof.Machine.execResetstream r k s
  | .ledgerStreams r table => Sys2Proof.Machine.execLedgerStreams r table s
  | .pageProgramStart => Sys2Proof.Machine.execPageProgramStart s
  | .pageProgramComplete => Sys2Proof.Machine.execPageProgramComplete s
  | .blockEraseComplete b => Sys2Proof.Machine.execBlockEraseComplete b s
  | .archiveBlockFailure b => Sys2Proof.Machine.execArchiveBlockFailure b s
  | .archiveReplay bad => Sys2Proof.Machine.execArchiveReplay bad s
  | .weed by_ => Sys2Proof.Machine.execWeed by_ s
  | .catalogueRead r call off n => Sys2Proof.Machine.execCatalogueRead r call off n s
  | .catalogueWrite r call off data last => Sys2Proof.Machine.execCatalogueWrite r call off data last s
  | .catalogueInfo r call off n => Sys2Proof.Machine.execCatalogueInfo r call off n s
  | .segmentTimeout call => Sys2Proof.Machine.execSegmentTimeout call s
  | .ringCycleStart r => Sys2Proof.Machine.execRingCycleStart r s
  | .nodeFramePass r ts resid f => Sys2Proof.Machine.execNodeFramePass r ts resid f s
  | .nodeMissingLimit r => Sys2Proof.Machine.execNodeMissingLimit r s
  | .masterDecision r ts f => Sys2Proof.Machine.execMasterDecision r ts f s
  | .missingLimit r => Sys2Proof.Machine.execMissingLimit r s
  | .acyclicFrameSend r => Sys2Proof.Machine.execAcyclicFrameSend r s
  | .acycSegmentReceive r peer taken xid data => Sys2Proof.Machine.execAcycSegmentReceive r peer taken xid data s
  | .acycRetryExpiry r peer => Sys2Proof.Machine.execAcycRetryExpiry r peer s
  | .acycTransmit r who dest => Sys2Proof.Machine.execAcycTransmit r who dest s
  | .acycQueuePop r => Sys2Proof.Machine.execAcycQueuePop r s
  | .captureQueuePop q => Sys2Proof.Machine.execCaptureQueuePop q s
  | .receiveQueueViewPop n level => Sys2Proof.Machine.execReceiveQueueViewPop n level s
  | .scan rt r => Sys2Proof.Machine.execScan rt r s
  | .linkDown q => Sys2Proof.Machine.execLinkDown q s
  | .linkUp q speed => Sys2Proof.Machine.execLinkUp q speed s
  | .masterLoopEntry r f => Sys2Proof.Machine.execMasterLoopEntry r f s
  | .ringClose r => Sys2Proof.Machine.execRingClose r s
  | .pathDelayMeasured r ds => Sys2Proof.Machine.execPathDelayMeasured r ds s
  | .ptpSyncSend q => Sys2Proof.Machine.execPtpSyncSend q s
  | .pdelaySend q => Sys2Proof.Machine.execPdelaySend q s
  | .ptpMessageReceive q k n ts v => Sys2Proof.Machine.execPtpMessageReceive q k n ts v s
  | .ringRole rt r v => Sys2Proof.Machine.execRingRole rt r v s
  | .safeStop => Sys2Proof.Machine.execSafeStop s
  | .stopRelease rt r => Sys2Proof.Machine.execStopRelease rt r s
  | .enec direct events => Sys2Proof.Machine.execEnec direct events s
  | .disec direct events => Sys2Proof.Machine.execDisec direct events s
  | .rstdaa => Sys2Proof.Machine.execRstdaa s
  | .entdaa won a => Sys2Proof.Machine.execEntdaa won a s
  | .setdasa static a => Sys2Proof.Machine.execSetdasa static a s
  | .setnewda a => Sys2Proof.Machine.execSetnewda a s
  | .setmwl direct n => Sys2Proof.Machine.execSetmwl direct n s
  | .setmrl direct n => Sys2Proof.Machine.execSetmrl direct n s
  | .getmwl => Sys2Proof.Machine.execGetmwl s
  | .getmrl => Sys2Proof.Machine.execGetmrl s
  | .getpid => Sys2Proof.Machine.execGetpid s
  | .getbcr => Sys2Proof.Machine.execGetbcr s
  | .getdcr => Sys2Proof.Machine.execGetdcr s
  | .getstatus => Sys2Proof.Machine.execGetstatus s
  | .enthdr0 => Sys2Proof.Machine.execEnthdr0 s
  | .rstact direct action => Sys2Proof.Machine.execRstact direct action s
  | .folioData seq last stage off data => Sys2Proof.Machine.execFolioData seq last stage off data s
  | .doorbell seq n w => Sys2Proof.Machine.execDoorbell seq n w s
  | .hostRequestFrame b => Sys2Proof.Machine.execHostRequestFrame b s
  | .privateRead => Sys2Proof.Machine.execPrivateRead s
  | .ibiRequest accepted => Sys2Proof.Machine.execIbiRequest accepted s
  | .ibiRetry accepted => Sys2Proof.Machine.execIbiRetry accepted s
  | .syncOutPulse => Sys2Proof.Machine.execSyncOutPulse s
  | .tioMode r p v => Sys2Proof.Machine.execTioMode r p v s
  | .extest levels shift => Sys2Proof.Machine.execExtest levels shift s
  | .idcode => Sys2Proof.Machine.execIdcode s
  | .samplePreload levels shift => Sys2Proof.Machine.execSamplePreload levels shift s
  | .clamp => Sys2Proof.Machine.execClamp s
  | .highz => Sys2Proof.Machine.execHighz s
  | .bypass => Sys2Proof.Machine.execBypass s
  | .dbgOpen sig => Sys2Proof.Machine.execDbgOpen sig s
  | .dbgAccPoll reserved => Sys2Proof.Machine.execDbgAccPoll reserved s
  | .dbgAccRead space a => Sys2Proof.Machine.execDbgAccRead space a s
  | .dbgAccWrite space a v => Sys2Proof.Machine.execDbgAccWrite space a v s
  | .trstNLow => Sys2Proof.Machine.execTrstNLow s
  | .dbgTimeout => Sys2Proof.Machine.execDbgTimeout s
  | .paceEvaluation k rates => Sys2Proof.Machine.execPaceEvaluation k rates s
  | .readVoltage k => Sys2Proof.Machine.execReadVoltage k s
  | .readCurrent k => Sys2Proof.Machine.execReadCurrent k s
  | .readPhaseState k => Sys2Proof.Machine.execReadPhaseState k s
  | .linkAcknowledgement k seq result data => Sys2Proof.Machine.execLinkAcknowledgement k seq result data s
  | .linkError k => Sys2Proof.Machine.execLinkError k s
  | .phaseFailure p mv => Sys2Proof.Machine.execPhaseFailure p mv s
  | .paceConfirmTimeout t => Sys2Proof.Machine.execPaceConfirmTimeout t s
  | .idleTimerExpiry d => Sys2Proof.Machine.execIdleTimerExpiry d s
  | .domainOn r d => Sys2Proof.Machine.execDomainOn r d s
  | .domainRetention r d => Sys2Proof.Machine.execDomainRetention r d s
  | .domainOff r d => Sys2Proof.Machine.execDomainOff r d s
  | .retentionCommitPoint d => Sys2Proof.Machine.execRetentionCommitPoint d s
  | .retentionSaveComplete d => Sys2Proof.Machine.execRetentionSaveComplete d s
  | .wakeEvent d => Sys2Proof.Machine.execWakeEvent d s
  | .wakeComplete d => Sys2Proof.Machine.execWakeComplete d s
  | .domainFillComplete d => Sys2Proof.Machine.execDomainFillComplete d s
  | .ratingBreach what value => Sys2Proof.Machine.execRatingBreach what value s
  | .vinValid mode => Sys2Proof.Machine.execVinValid mode s
  | .undervoltageReset => Sys2Proof.Machine.execUndervoltageReset s
  | .railsInBand => Sys2Proof.Machine.execRailsInBand s
  | .fuseLoadComplete => Sys2Proof.Machine.execFuseLoadComplete s
  | .injectionComplete fails => Sys2Proof.Machine.execInjectionComplete fails s
  | .shelfInitComplete => Sys2Proof.Machine.execShelfInitComplete s
  | .firmwareVerified => Sys2Proof.Machine.execFirmwareVerified s
  | .hostBootImage => Sys2Proof.Machine.execHostBootImage s
  | .catalogueReady => Sys2Proof.Machine.execCatalogueReady s
  | .resetN => Sys2Proof.Machine.execResetN s
  | .warmReset r => Sys2Proof.Machine.execWarmReset r s
  | .watchdogExpiry => Sys2Proof.Machine.execWatchdogExpiry s
  | .provision r x => Sys2Proof.Machine.execProvision r x s
  | .field r x => Sys2Proof.Machine.execField r x s
  | .service r x => Sys2Proof.Machine.execService r x s
  | .retire r x => Sys2Proof.Machine.execRetire r x s
  | .advance r x => Sys2Proof.Machine.execAdvance r x s
  | .lifecycleCommit => Sys2Proof.Machine.execLifecycleCommit s
  | .tamperEvent src => Sys2Proof.Machine.execTamperEvent src s
  | .tamperStateClear r v => Sys2Proof.Machine.execTamperStateClear r v s
  | .load r x => Sys2Proof.Machine.execLoad r x s
  | .unload r x => Sys2Proof.Machine.execUnload r x s
  | .store r x => Sys2Proof.Machine.execStore r x s
  | .delete r x => Sys2Proof.Machine.execDelete r x s
  | .cutover r x => Sys2Proof.Machine.execCutover r x s
  | .cutoverArmingDeadline j => Sys2Proof.Machine.execCutoverArmingDeadline j s
  | .cancel r x => Sys2Proof.Machine.execCancel r x s
  | .selftest r x fault => Sys2Proof.Machine.execSelftest r x fault s
  | .calib r x => Sys2Proof.Machine.execCalib r x s
  | .autoCalibration t temp => Sys2Proof.Machine.execAutoCalibration t temp s
  | .repair r x => Sys2Proof.Machine.execRepair r x s
  | .fwbegin r x => Sys2Proof.Machine.execFwbegin r x s
  | .fwcommit r x => Sys2Proof.Machine.execFwcommit r x s
  | .servicereset r x => Sys2Proof.Machine.execServicereset r x s
  | .svcStageChunk r data => Sys2Proof.Machine.execSvcStageChunk r data s
  | .ratingRestored what value => Sys2Proof.Machine.execRatingRestored what value s
  | .junctionWarning t => Sys2Proof.Machine.execJunctionWarning t s
  | .stopNRise => Sys2Proof.Machine.execStopNRise s
  | .resetNRelease mode => Sys2Proof.Machine.execResetNRelease mode s
  | .reverseFramePass r resid f => Sys2Proof.Machine.execReverseFramePass r resid f s
  | .linkHealed q => Sys2Proof.Machine.execLinkHealed q s
  | .probeReturn r ts f => Sys2Proof.Machine.execProbeReturn r ts f s
  | .linearRegulatorFault which mv => Sys2Proof.Machine.execLinearRegulatorFault which mv s
  | .nonSinglePartFault => Sys2Proof.Machine.execNonSinglePartFault s

end Sys2Proof.Machine
end

