-- ==== Sys2Proof/WellFormed.lean ====
section
/-! DEFINITION. WellFormed.lean: which operands a command can carry. A command of the outside is judged by the part itself; these checks
only say what a sender can spell. -/

namespace Sys2Proof

/-- A step of an engine has a length (R49). -/
def stepWf (q : Nat) : Bool := decide (0 < q)

/-- No repeats in a list. -/
def distinct {α : Type} [DecidableEq α] : List α → Bool
  | [] => true
  | x :: l => !l.contains x && distinct l

/-- The fields of lc.cmd have their sizes (Table 19-7A). -/
def LcFields.wf (x : LcFields) : Bool :=
  x.nonce.length == 16 && x.serial.length == 16 && x.sig.length == 64 && x.resv.length == 27

/-- The operands that a command can carry.
[DESIGN CHOICE, log row 6] -/
def Instr.wf : Instr → Bool
  | .bundleIssue _ a => stepWf a.q
  | .timedWaitRelease _ q => stepWf q
  | .armedStartRelease _ q => stepWf q
  | .xuWordArrival _ l => distinct l
  | .shelfAccess _ _ l _ => distinct l
  | .shelfReadRegion _ l => distinct l && l.all fun c => decide (c < 72)
  | .columnRepairSwap _ c => decide (c < 72)
  | .ledgerStreams _ l => l.length == 4096
  | .ledgerSubmit (.ring _ _ l) => decide (l.length ≤ 1480)
  | .ledgerSubmit (.host _ l) => decide (l.length ≤ 256)
  | .catalogueRead r _ off n => match r with
    | .window _ => (n == 1 || n == 2 || n == 4 || n == 8) && decide (off + n ≤ 8)
    | _ => true
  | .catalogueWrite r _ off d _ => match r with
    | .window _ => (d.length == 1 || d.length == 2 || d.length == 4 || d.length == 8) && decide (off + d.length ≤ 8)
    | _ => true
  | .linkUp _ v => v.val != 0
  | .folioData _ _ _ _ d => decide (d.length ≤ 256)
  | .dbgOpen sig => sig.length == 64
  | .paceEvaluation _ l => l.length == 4
  | .pathDelayMeasured _ l => !l.isEmpty
  | .provision _ x => x.wf
  | .field _ x => x.wf
  | .service _ x => x.wf
  | .retire _ x => x.wf
  | .advance _ x => x.wf
  | .phaseFailure p _ => p.val != 0
  | .svcStageChunk _ l => decide (l.length ≤ 4096)
  | _ => true

end Sys2Proof
end

