-- ==== Sys2Proof/Safety.lean ====
section
/-! DEFINITION. Safety.lean: the invariants that claims are stated with, and what no command of the part undoes. -/

namespace Sys2Proof.Machine

/-- The canonical form of memory: addresses strictly rising, and no entry equal to what an unlisted byte reads as.
[DEDUCED, log row 10] -/
def Memory.wf (m : List Host.Cell) : Bool := kvWf 0#8 m

/-- The tables of engines, pairs, tiles, rings, ports, stored values, transfer channels, TIO pins, capture queues, jobs, streams, banks, domains
and rails are in their canonical form, so that equal parts are equal data. -/
def tablesWf (s : State) : Bool :=
  kvWf Engine.fresh s.eng && kvWf Pair.fresh s.pair && kvWf Tile.on s.tile && kvWf RingSt.off s.ring && kvWf PortSt.down s.port
    && kvWf 0 s.cat.vals && kvWf [] s.cat.longs && kvWf XfCh.idle s.xfer.chans && kvWf PinSt.idle s.pins.tio
    && kvWf CapQ.empty s.net.caps && kvWf Job.free s.svc.jobs && kvWf LStream.fresh s.ledger.streams && kvWf 0 s.mem.bank
    && kvWf 0 s.power.dom && kvWf 0 s.power.entry && kvWf 650 s.power.target && kvWf 650 s.power.acked

/-- The forms that the state of the part keeps. -/
structure Inv (s : State) : Prop where
  /-- memory is in its canonical form -/
  mem : Memory.wf s.mem.bytes = true
  /-- and so are the tables by number that `tablesWf` names -/
  tables : tablesWf s = true
  /-- the outbound queue holds at most 32 frames (R395) -/
  queue : s.host.queue.length ≤ 32
  /-- the event log is a ring of 64 records (R349) -/
  log : ∀ x ∈ s.log.recs, x.1 < 64
  /-- each rail has at most one request outstanding on the power request link (R409) -/
  link : (s.power.reqs.map LinkReq.rail).Nodup

/-- The device is RETIRED, and no transition waits for its commit (R436). -/
def Retired (s : State) : Prop := s.boot.fuseLc = 4 ∧ s.boot.lcPending = none

/-- What was once fused, drawn or retired stays so from `s` to `t`, and the commands that wait are untouched. -/
structure Lasting (s t : State) : Prop where
  /-- the commands that wait are untouched -/
  waiting : t.pending = s.pending
  /-- no step leads out of RETIRED (Table 19-6B) -/
  retired : Retired s → Retired t
  /-- the rollback number never falls (R438) -/
  rollback : s.boot.rollback ≤ t.boot.rollback
  /-- an engine that is fused out stays so (R458) -/
  fused : ∀ n ∈ s.boot.fusedEng, n ∈ t.boot.fusedEng
  /-- a nonce that has been drawn is not drawn again (R439) -/
  nonces : s.boot.nonces ≤ t.boot.nonces

/-! ### Frames: what a command leaves alone -/

/-- A part of the state, by the field of `State` that holds it. The queue of waiting commands is in no list: no command touches it. -/
inductive Part where
  | now | up | cat | log | eng | pair | tile | time | mem | net | xfer | ledger | arch | ring | port | host | pins | tap | power | boot | svc | drawn
  deriving DecidableEq, Repr

/-- From `s` to `t` nothing changes outside the parts listed. -/
def sameBut (ps : List Part) (s t : State) : Prop :=
  t.pending = s.pending
    ∧ (.now ∈ ps ∨ t.now = s.now)
    ∧ (.up ∈ ps ∨ t.up = s.up)
    ∧ (.cat ∈ ps ∨ t.cat = s.cat)
    ∧ (.log ∈ ps ∨ t.log = s.log)
    ∧ (.eng ∈ ps ∨ t.eng = s.eng)
    ∧ (.pair ∈ ps ∨ t.pair = s.pair)
    ∧ (.tile ∈ ps ∨ t.tile = s.tile)
    ∧ (.time ∈ ps ∨ t.time = s.time)
    ∧ (.mem ∈ ps ∨ t.mem = s.mem)
    ∧ (.net ∈ ps ∨ t.net = s.net)
    ∧ (.xfer ∈ ps ∨ t.xfer = s.xfer)
    ∧ (.ledger ∈ ps ∨ t.ledger = s.ledger)
    ∧ (.arch ∈ ps ∨ t.arch = s.arch)
    ∧ (.ring ∈ ps ∨ t.ring = s.ring)
    ∧ (.port ∈ ps ∨ t.port = s.port)
    ∧ (.host ∈ ps ∨ t.host = s.host)
    ∧ (.pins ∈ ps ∨ t.pins = s.pins)
    ∧ (.tap ∈ ps ∨ t.tap = s.tap)
    ∧ (.power ∈ ps ∨ t.power = s.power)
    ∧ (.boot ∈ ps ∨ t.boot = s.boot)
    ∧ (.svc ∈ ps ∨ t.svc = s.svc)
    ∧ (.drawn ∈ ps ∨ t.drawn = s.drawn)

/-- No engine but those listed changes. -/
def engBut (ns : List Nat) (s t : State) : Prop := ∀ k, k ∉ ns → getEng t k = getEng s k

/-- No pair but those listed changes. -/
def pairBut (ms : List Nat) (s t : State) : Prop := ∀ k, k ∉ ms → getPair t k = getPair s k

/-- No tile but those listed changes. -/
def tileBut (ts : List Nat) (s t : State) : Prop := ∀ k, k ∉ ts → getTile t k = getTile s k

/-- No ring but those listed changes. -/
def ringBut (rs : List Nat) (s t : State) : Prop := ∀ k, k ∉ rs → getRing t k = getRing s k

/-- No port of a ring but those listed changes. -/
def portBut (qs : List Nat) (s t : State) : Prop := ∀ k, k ∉ qs → getPort t k = getPort s k

/-- No transfer channel but those listed changes, and nothing else of the transfer units. -/
def chanBut (cs : List Nat) (s t : State) : Prop :=
  (∀ k, k ∉ cs → getChan t k = getChan s k) ∧ t.xfer.disable = s.xfer.disable ∧ t.xfer.rr = s.xfer.rr ∧ t.xfer.locks = s.xfer.locks
    ∧ t.xfer.broken = s.xfer.broken ∧ t.xfer.quiet = s.xfer.quiet

/-- No stored value of a short entry changes but those of the call numbers listed, and nothing else of the catalogue but the answer
last given. -/
def valsBut (cs : List Nat) (s t : State) : Prop :=
  (∀ c, c ∉ cs → kvGet 0 t.cat.vals c = kvGet 0 s.cat.vals c) ∧ t.cat.longs = s.cat.longs ∧ t.cat.folio = s.cat.folio
    ∧ t.cat.segs = s.cat.segs ∧ t.cat.ready = s.cat.ready

/-- Every byte of memory outside `n` bytes from `a` reads as before. -/
def bytesBut (a n : Nat) (s t : State) : Prop := ∀ x, (x < a ∨ a + n ≤ x) → kvGet 0#8 t.mem.bytes x = kvGet 0#8 s.mem.bytes x

/-! ### Events -/

/-- The record of the newest event (R349). -/
def newestEvent (t : State) : EventRec := kvGet ⟨0, 0, 0⟩ t.log.recs t.log.newest

/-- Exactly one event was logged from `s` to `t`: its code, lapse flag, subject and detail (R349, Table 15-11). -/
def logged (code : Nat) (lapsed : Bool) (subject detail : Nat) (s t : State) : Prop :=
  t.log.count = (s.log.count + 1) % 2 ^ 32 ∧ t.log.newest = (s.log.newest + 1) % 64
    ∧ (newestEvent t).head = code + (if lapsed then 256 else 0) + (subject % 65536) * 65536 + (detail % 4294967296) * 4294967296
    ∧ (newestEvent t).time = s.now

/-! ### Catalogue commands -/

/-- The catalogue serves a write of an entry on a route: it is ready, the life cycle allows it there, and the debug port is open. -/
def serves (s : State) (r : Route) (call : Nat) : Prop :=
  s.cat.ready = true ∧ lcDenied s (routeNo r) true call = false ∧ routeClosed s r = false

/-- The write was answered with success on its route. -/
def answered (r : Route) (call : Nat) (t : State) : Prop := t.cat.reply = some ⟨routeNo r, call, 0, []⟩

/-- The write was answered with success on its route, and nothing else of the catalogue changed. -/
def answeredOnly (r : Route) (call : Nat) (s t : State) : Prop := t.cat = { s.cat with reply := some ⟨routeNo r, call, 0, []⟩ }

/-- `t`, with the write answered with success on its route. -/
def replied (r : Route) (call : Nat) (t : State) : State := { t with cat := { t.cat with reply := some ⟨routeNo r, call, 0, []⟩ } }

/-- An engine issues of its own accord: its pair is split, so no delay chain carries its steps to a checker. -/
def alone (s : State) (n : Nat) : Prop := (getPair s (pairOf n)).st = .split ∧ (getPair s (pairOf n)).phase = .none

/-- An engine stands before a bundle that executes the moves `ms`, with nothing under way: no hold, trap, operation, exception or
return. -/
structure BundleNext (e : Engine) (ms : List Move) : Prop where
  held : e.heldLsu = false
  traps : e.traps = []
  mulP : e.mulP = []
  fpuP : e.fpuP = []
  due : e.exc.due = []
  keep : e.exc.keep = []
  atomic : e.exc.atomic = none
  fresh : e.exc.fresh = none
  rfe : e.exc.rfe = false
  pc : e.pos.pc < 8191
  regs : kvWf 0#32 e.g = true
  /-- the bundle: it is read without error, names no reserved source, and no two of its moves clash (R45, R72, R82) -/
  bundle : ∃ w, fetchBundle e = (w, false) ∧ execMoves w e.flag = ms ∧ anyClash ms = false ∧ namesReserved w = false

/-- An engine stands before a bundle that executes only the moves `ms`, all between general registers. -/
structure MovesNext (e : Engine) (ms : List Move) : Prop where
  stands : BundleNext e ms
  plain : ∀ m ∈ ms, m.src < 24 ∧ m.dst < 24

/-- From engine `e` to `e'` the moves `ms` were made in one step, each source read before any destination was written (R44), and nothing
else of the engine changed but its position and its step count. -/
def movesDone (ms : List Move) (e e' : Engine) : Prop :=
  (∀ m ∈ ms, kvGet 0#32 e'.g m.dst = kvGet 0#32 e.g m.src) ∧
  (∀ k, (∀ m ∈ ms, m.dst ≠ k) → kvGet 0#32 e'.g k = kvGet 0#32 e.g k) ∧
  e' = { e with st := .running, heldHeavy := false, g := e'.g, ctr := { e.ctr with steps := (e.ctr.steps + 1) % 2 ^ 64 }
                pos := { Pos.start (e.pos.pc + 1) with lastpc := e.pos.pc, cntOwn := e.pos.cntOwn } }

/-- Beside the engine itself, `k` steps of engine `n` of a split pair change only the steps counted since the pair's last capture, where the
engine is the main copy (R221, R238), and the peak of matrix.outstanding (Table 13-11). -/
def besideStep (n k : Nat) (s t : State) : Prop :=
  sameBut [.eng, .pair, .cat] s t ∧ engBut [n] s t ∧ pairBut [pairOf n] s t ∧ valsBut [callNo 0x1920 4] s t ∧
    getPair t (pairOf n) = if n % 2 = 0 then { getPair s (pairOf n) with sinceCap := (getPair s (pairOf n)).sinceCap + k, capDue := false }
      else getPair s (pairOf n)

/-- No merge of the pair waits for its engines to stop, or for a capture (R238). -/
def noMerge (s : State) (n : Nat) : Prop := (getPair s (pairOf n)).cmdDue = false

/-- The words that `n` bytes at an address touch hold no disturbed bit (R250, R267). -/
def cleanWords (s : State) (pa n : Nat) : Prop := ∀ p ∈ accParts pa n, kvGet 0 s.mem.one (p.1 / 8) = 0 ∧ p.1 / 8 ∉ s.mem.bad

/-- The targets of `n` bytes at an address serve an access now: none waits, none answers with an error (R115, R253, R272). -/
def readyNow (s : State) (pa n : Nat) : Prop := ∀ p ∈ accParts pa n, byteReady s p.1 = 0

/-- An address lies in DRAM or in a shelf bank (Table 12-3). -/
def inMemory (pa : Nat) : Prop := physKind pa = .dram ∨ ∃ b off, physKind pa = .shelf b off

/-- Neither ring has a measured path or its ALIGN_RING bit set: no promise of a ring follows the time. -/
def ringsQuiet (s : State) : Prop := ∀ r, r < 2 → promiseBit s (4 + r) = false ∧ (getRing s r).measured = false

/-- No pair restarts. -/
def noRestart (s : State) : Prop := ∀ m, (getPair s m).phase = .none

/-- Interrupt source `k` is pending in every engine but the checkers, which take it with their tokens (R204, R208), and nothing else of
the engines changed. -/
def raisedAll (k : Nat) (s t : State) : Prop :=
  ∀ n, n < 256 → getEng t n = if countsChecked (getPair s (pairOf n)) = true ∧ n % 2 = 1 then getEng s n
    else { getEng s n with exc := { (getEng s n).exc with irqpend := (getEng s n).exc.irqpend ||| (1#32 <<< k) } }

/-- No service job runs, waits or is queued, and no outgoing pair of a cut-over waits to be unloaded. -/
def noJobs (s : State) : Prop := s.svc.queue = [] ∧ s.svc.waiting = none ∧ s.svc.unloads = [] ∧ ∀ j, (getJob s j).st ≠ 1

/-- A domain is on, and no entry into retention is under way. -/
def awake (s : State) (d : DomId) : Prop := domGet s d = 0 ∧ entryGet s d = 0

/-- A submission arrives from source `src`, `id` with the bytes `b`, its header and payload whole (R302): on a ring, in a host frame, or in
slot `slot` of the ring of a pair, read without an uncorrectable word. -/
def arrives (s : State) (x : Submission) (src id slot : Nat) (b : List Byte) : Prop :=
  (streamRec s (fieldAt b 0 1)).src = src ∧ (streamRec s (fieldAt b 0 1)).srcid = id ∧ fieldAt b 2 1 ≤ 208 ∧
  match x with
  | .ring r p c => src = r.val + 1 ∧ id = p.val ∧ slot = 0 ∧ c = b ∧ 16 + fieldAt b 2 1 ≤ valGet s (cRing r.val 0x0C) - 8
  | .host q c => src = 3 ∧ id = 0 ∧ slot = q.toNat ∧ c = b ∧ 16 + fieldAt b 2 1 ≤ b.length
  | .pair m w => src = 4 ∧ id = m.val ∧ slot = w.toNat / 256 % 4096 ∧ fieldAt b 0 1 = w.toNat % 256 ∧
      slot < 2 ^ (streamRec s (fieldAt b 0 1)).slog ∧
      b = leBytes (16 + fieldAt b 2 1) (memRead s (slotAddr (streamRec s (fieldAt b 0 1)).sring (streamRec s (fieldAt b 0 1)).slog slot)
        (16 + fieldAt b 2 1)) ∧
      ∀ j, j < (23 + fieldAt b 2 1) / 8 →
        kvGet 0 s.mem.one (slotAddr (streamRec s (fieldAt b 0 1)).sring (streamRec s (fieldAt b 0 1)).slog slot / 8 + j) = 0 ∧
        slotAddr (streamRec s (fieldAt b 0 1)).sring (streamRec s (fieldAt b 0 1)).slog slot / 8 + j ∉ s.mem.bad

/-- A submission reaches the ledger now, with a header that Table 14-2 allows: the ledger is ready, nothing waits for DRAM, and the slot of a
pair's ring can be read. -/
def submits (s : State) (x : Submission) (src id slot : Nat) (b : List Byte) : Prop :=
  arrives s x src id slot b ∧ s.ledger.ready = true ∧ s.ledger.waits = [] ∧
  (src = 4 → ledgerReady s (slotAddr (streamRec s (fieldAt b 0 1)).sring (streamRec s (fieldAt b 0 1)).slog slot) = 0) ∧
  headerReserved b = false ∧ ((fieldAt b 1 1).testBit 0 = true → (streamRec s (fieldAt b 0 1)).dur = true)

/-- The item that a submission with the bytes `b` becomes, held with accession number `acc` (R303, R304, R482). -/
def takenItem (b : List Byte) (acc slot : Nat) (restored : Bool) : LItem :=
  { stream := fieldAt b 0 1, acc := acc, tag := fieldAt b 4 4, durable := (fieldAt b 1 1).testBit 0, type := fieldAt b 8 2
    payload := bytesAt b 16 (fieldAt b 2 1), st := .held, copyA := none, copyB := none, rstatus := 0, rvalue := 0
    handed := false, resumed := false, slot := slot, sent := none, restored := restored }

/-- The entry whose write commands a domain (R417, R418, R421). -/
def domCall : Dom → Nat
  | .tile t => cTile t.val 2
  | .bank b => cTile (b.val / 8) 5
  | .dev _ => callNo 0x1220 2

/-- The part once its transfer channels have dropped: DURABLE has lapsed and debug access has closed before it, and the writes that were on their
way have been performed or not (R29, R297, R402, R435). -/
def dropped (s : State) : State := dropTransfers (debugClose 2 (durableLapse s))

/-- No write of a transfer channel is on its way to its target. -/
def writesHome (s : State) : Prop := ∀ c, c < 64 → ∀ f ∈ (getChan s c).flight, f.data = none ∨ f.dst = none

/-- A device reset of `cause` has taken the device from `s` to `t` (R186, R433, R435): memory and the kept entries stand as the dropped channels
leave them, which is as they were unless a write was on its way, but for what a lapse and the closing of debug access change; the supply and the
journal stand; and the engines, pairs, rings, pins, host port and transfers start anew. -/
structure DeviceReset (cause : Nat) (s t : State) : Prop where
  cause : valGet t (callNo 0x1000 8) = cause
  notReady : t.cat.ready = false ∧ t.boot.running = false ∧ t.ledger.ready = false
  memory : t.mem = (dropped s).mem
  supply : t.power.dom = s.power.dom ∧ t.power.acked = s.power.acked
  journal : t.arch.journal = s.arch.journal
  kept : ∀ c, keepsValue c = true → c ≠ cPromise → c ≠ callNo 0x1010 2 → c ≠ callNo 0x1000 8 → kvGet 0 t.cat.vals c = kvGet 0 (dropped s).cat.vals c
  quiet : writesHome s → (dropped s).mem = s.mem ∧ (dropped s).net = s.net ∧
    ∀ c, c ≠ cPromise → c ≠ callNo 0x1010 2 → c ≠ cDbgOpen → kvGet 0 (dropped s).cat.vals c = kvGet 0 s.cat.vals c
  engines : ∀ n, n < 256 → (getEng t n).st = if (getEng s n).st = .fused then .fused else .halted
  pairs : ∀ m, m < 128 → getPair t m = if (getPair s m).st = .out ∨ (getPair s m).st = .fused then getPair s m else Pair.fresh
  rings : ∀ r, r < 2 → (getRing t r).st = 0 ∧ (getRing t r).launched = []
  pins : t.pins.stop = (s.pins.stop && !s.pins.stopN) ∧ ∀ p, getPin t p = { PinSt.idle with lastDriven := (getPin s p).lastDriven }
  units : t.xfer = XferSt.reset ∧ t.net = netReset (dropped s).net ∧ t.host = HostSt.reset
  captures : ∀ q, getCap t q = { CapQ.empty with newest := (getCap (dropped s) q).newest }

/-- The fields of svc.cmd with command `k` (Table 20-1). -/
def svcOf (k : Nat) (x : SvcFields) : SvcCmd :=
  { cmd := k, job := x.job, source := x.source.toNat, subject := x.subject, half := if x.half then 1 else 0, folio := x.folio.toNat, base := x.base
    bias := x.bias.toNat, at_ := x.at_.toNat }

/-- Service command `k` is taken from a route that can write svc.cmd: its slot is free, no reserved bit and, but for a LOAD, no half of a pair is
set, and the loader has nothing else to do (R445, R446). -/
def svcFree (s : State) (r : Route) (k : Nat) (x : SvcFields) : Prop :=
  serves s r (callNo 0x1050 1) ∧ routeNo r ≠ 0 ∧ x.resv = 0 ∧ (k ≠ 1 → x.half = false) ∧
    ((getJob s x.job).st = 0 ∨ (getJob s x.job).st = 4 ∨ (getJob s x.job).st = 5 ∨ (getJob s x.job).st = 6) ∧
    s.svc.queue = [] ∧ s.svc.waiting = none ∧ s.svc.unloads = []

/-- The state in which the loader has taken up the job of service command `k` (R446). -/
def atLoader (k : Nat) (x : SvcFields) (s : State) : State :=
  { setJob x.job { Job.free with st := 2, cmd := svcOf k x, subject := jobSubject (svcOf k x) } s with
    svc := { (setJob x.job { Job.free with st := 2, cmd := svcOf k x, subject := jobSubject (svcOf k x) } s).svc with waiting := some x.job.val } }

/-- A part of a command's effect keeps the forms of the state and undoes nothing that lasts. -/
structure Keeps (s t : State) : Prop where
  inv : Inv s → Inv t
  lasting : Lasting s t

end Sys2Proof.Machine
end

