-- ==== Sys2Proof/Certificates/Slice0/Obligations.lean ====
section
/-! DEFINITION. Certificates/Slice0/Obligations.lean: the statements of this model, from the numbered rules of the spec. -/

open Sys2Proof Sys2Proof.Machine

/-! ### Engines (chapters 3 to 10) -/

/-- From R44: every source of a bundle is read before any destination is written. A bundle that executes only moves between general registers,
issued by an engine that issues of its own accord, gives each destination what its source held before (two registers exchange their values
in one bundle), moves the position on by one, counts one step and changes nothing else of the engine. -/
def Obligations.RegisterMovesReadFirst : Prop :=
  ∀ (n : Fin 256) (q l : Nat) (c : Bool) (s : State) (ms : List Move), alone s n → noMerge s n → s.svc.unloads = [] → bundleNext s n = true →
    (getEng s n).cmd = 0 → MovesNext (getEng s n) ms → (getEng s n).pos = { Pos.start (getEng s n).pos.pc with lastpc := l, cntOwn := c } →
    ∃ t, exec (.bundleIssue n ⟨q, 0⟩) s = .next t ∧ besideStep n 1 s t ∧ movesDone ms (getEng s n) (getEng t n)

/-- From R72: a bundle that a disturbance has left with bad parity in any parcel has no effect, whatever it holds, and exception 0x0C falls
due with the bundle's address. -/
def Obligations.ParityRaisesException : Prop :=
  ∀ (n : Fin 256) (q : Nat) (u : Fin 16) (s : State), u ≠ 0 → alone s n → noMerge s n → s.svc.unloads = [] → bundleNext s n = true →
    (getEng s n).cmd = 0 → (getEng s n).pos.loop = none → (getEng s n).pos.ins = 0 → (getEng s n).pos.kill = 0 →
    ∃ t, exec (.bundleIssue n ⟨q, u⟩) s = .next t ∧ besideStep n 0 s t ∧
      getEng t n = { getEng s n with
        heldLsu := false, heldHeavy := false
        pbad := (getEng s n).pbad ++ ((List.range 4).filter fun i => u.val.testBit i).map fun i => ((getEng s n).pos.pc, i)
        pos := { (getEng s n).pos with relLim := none }
        exc := { (getEng s n).exc with
          head := false
          due := [⟨0x0C, (getEng s n).pos.pc, false, (getEng s n).pos.slot.isSome, isFirst (getEng s n).exc⟩] } }

/-- From R176, R178: a held bundle is released, and an ARMED engine issues its first bundle, at its target within 0.5 ns, or as soon as it can
be where its instant passed unreleased; the bundle's effect is that of its moves, in one step. The model's choices in it: log rows 12, 14. -/
def Obligations.ReleasesAtTheTarget : Prop :=
  (∀ (n : Fin 256) (q l : Nat) (c mi : Bool) (s : State) (ms : List Move) (w : WaitSt), Inv s → alone s n → noMerge s n → (getEng s n).st = .held →
    (getEng s n).cmd = 0 → MovesNext (getEng s n) ms →
    (getEng s n).pos = { Pos.start (getEng s n).pos.pc with lastpc := l, cntOwn := c, missed := mi, wait := some w } → w.late = false →
    releases s n = true → (getTile s (tileOf n)).lost = false → w.target ≤ s.now + 2 → (s.now ≤ w.target + 2 ∨ mi = true) →
    ∃ t, exec (.timedWaitRelease n q) s = .next t ∧ besideStep n 1 s t ∧ movesDone ms (getEng s n) (getEng t n)) ∧
  (∀ (n : Fin 256) (q l : Nat) (c mi : Bool) (s : State) (ms : List Move), Inv s → alone s n → noMerge s n → (getEng s n).st = .armed →
    (getEng s n).cmd = 0 → MovesNext (getEng s n) ms →
    (getEng s n).pos = { Pos.start (getEng s n).pos.pc with lastpc := l, cntOwn := c, missed := mi } →
    releases s n = true → (getTile s (tileOf n)).lost = false →
    valGet s (cEng n 5) ≤ s.now + 2 → (s.now ≤ valGet s (cEng n 5) + 2 ∨ mi = true) →
    ∃ t, exec (.armedStartRelease n q) s = .next t ∧ besideStep n 1 s t ∧ movesDone ms (getEng s n) (getEng t n))

/-- From R190, R197: with no frame short, the due exception of the lowest code is entered: its frame holds the position, the flag and the mode
at the boundary, the engine runs in supervisor mode with its flag clear, at the exception's vector, and the cause names the code. The
other 0x0C and 0x0D wait in the frame until the handler has returned. -/
def Obligations.ExceptionEntryTakesTheLowestCode : Prop :=
  ∀ (n : Fin 256) (s : State) (d : Due), Inv s → alone s n → noMerge s n → (getEng s n).st = .running → (getEng s n).pos.ins = 0 → (getEng s n).exc.rfe = false →
    (getEng s n).exc.atomic = none → (getEng s n).exc.dframe = none → (getEng s n).exc.frames.length < 8 →
    lowestDue (getEng s n).exc.due = some d → d.first = false →
    ∃ t, exec (.exceptionEntry n) s = .next t ∧ besideStep n 10 s t ∧
      (∀ x ∈ (getEng s n).exc.due, d.code ≤ x.code) ∧
      (getEng t n).st = .running ∧ (getEng t n).flag = false ∧ (getEng t n).exc.super = true ∧
      (getEng t n).pos.pc = (getEng s n).exc.vbase + 2 * d.code ∧ (getEng t n).exc.due = [] ∧
      (∃ f, (getEng t n).exc.frames = f :: (getEng s n).exc.frames ∧ f.ret = (getEng s n).pos.pc ∧ f.flag = (getEng s n).flag ∧
        f.super = (getEng s n).exc.super ∧ f.mask = (getEng s n).exc.mask ∧ f.run = (getEng s n).exc.run ∧
        f.kept = ((getEng s n).exc.due.erase d).filter fun x => x.code == 0x0C || x.code == 0x0D) ∧
      (getEng t n).cause.toNat % 256 = d.code % 256 ∧ (getEng t n).cause.getLsbD 31 = true ∧
      (getEng t n).g = (getEng s n).g ∧ (getEng t n).lat = (getEng s n).lat ∧ (getEng t n).lnk = (getEng s n).lnk ∧
      (getEng t n).ctr.steps = ((getEng s n).ctr.steps + 10) % 2 ^ 64

/-- From R200, R204 to R207: an event sets the pending bit of its source and nothing else; an eligible source is taken at a boundary that
permits it, with its frame, its handler's address and its level, and its pending bit clears; an event in the first entry steps may take
the entry over; at an RFE the source takes the frame that the RFE would pop. The model's choices in it: log rows 14, 15. -/
def Obligations.InterruptEntryAndEvent : Prop :=
  (∀ (k : Fin 32) (n : Fin 256) (s : State), Inv s → alone s n → ownSource k = true →
    ∃ t, exec (.interruptSourceEvent k n) s = .next t ∧ sameBut [.eng] s t ∧ engBut [n.val] s t ∧
      getEng t n = { getEng s n with exc := { (getEng s n).exc with irqpend := (getEng s n).exc.irqpend ||| (1#32 <<< k.val) } }) ∧
  (∀ (k : Fin 32) (n : Fin 256) (s : State), Inv s → noRestart s → ownSource k = false →
    ∃ t, exec (.interruptSourceEvent k n) s = .next t ∧ sameBut [.eng] s t ∧ raisedAll k s t) ∧
  (∀ (n : Fin 256) (tk : Option (Fin 32)) (s a : State) (k j : Nat), Inv s → alone s n → noMerge s n → (getEng s n).cmd = 0 → irqTaken s n = some k →
    a = (match tk with | some o => setPend n o s | none => s) → irqTaken a n = some j →
    ∃ t, exec (.interruptEntry n tk) s = .next t ∧ besideStep n 10 s t ∧
      (getEng t n).flag = false ∧ (getEng t n).exc.super = true ∧ (getEng t n).exc.rfe = false ∧
      (getEng t n).pos.pc = (getEng s n).exc.vbase + 0x40 + 2 * j ∧ (getEng t n).exc.run = irqLevel (getEng s n).exc j ∧
      (∃ f, (getEng t n).exc.frames = f :: (if (getEng s n).exc.rfe then (getEng s n).exc.frames.tail else (getEng s n).exc.frames) ∧
        if (getEng s n).exc.rfe = true ∧ (getEng s n).exc.frames ≠ [] then
          ∃ g ∈ (getEng s n).exc.frames.head?, f.ret = g.ret ∧ f.flag = g.flag ∧ f.super = g.super ∧ f.mask = g.mask ∧ f.run = g.run
        else
          f.ret = (getEng s n).pos.pc ∧ f.flag = (getEng s n).flag ∧ f.super = (getEng s n).exc.super ∧
            f.mask = (getEng s n).exc.mask ∧ f.run = (getEng s n).exc.run) ∧
      (getEng t n).exc.irqpend = (getEng a n).exc.irqpend &&& ~~~(1#32 <<< j) ∧
      (getEng t n).g = (getEng s n).g ∧ (getEng t n).lnk = (getEng s n).lnk ∧
      ((getEng s n).exc.rfe = false → (getEng t n).st = .running ∧ (getEng t n).lat = (getEng s n).lat) ∧
      (getEng t n).ctr.steps = ((getEng s n).ctr.steps + 10) % 2 ^ 64)

/-- From R112, R116: the oldest outstanding load of an engine reads its bytes of memory, little-endian, extended as its word says, into its
entry of the load queue; a bundle held on it is released, and nothing else changes. The model's choices in it: log row 55. -/
def Obligations.LoadReturnsItsBytes : Prop :=
  ∀ (n : Fin 256) (s : State) (l : LoadOp) (pa : Nat), Inv s → alone s n → (getEng s n).past = [] → nextReturn (getEng s n) = some l →
    l.perf = none → l.logged = none → l.width < 4 → l.lock = false → l.drop = false → l.place = .phys pa → inMemory pa → loadPath (getEng s n) l = .target →
    lockedOut s n (.phys pa) (2 ^ l.width) = false → readyNow s pa (2 ^ l.width) → cleanWords s pa (2 ^ l.width) →
    ∃ t, exec (.loadReturn n 0) s = .next t ∧ sameBut [.eng] s t ∧ engBut [n.val] s t ∧
      getEng t n = { getEng s n with heldLsu := false, ldq := (getEng t n).ldq } ∧
      (getEng t n).ldq.length = (getEng s n).ldq.length ∧
      (∃ x ∈ (getEng t n).ldq, x.seq = l.seq ∧ x.data = some (loadWords l (memRead s pa (2 ^ l.width))) ∧ x.err = 0) ∧
      (∀ x ∈ (getEng s n).ldq, x.seq ≠ l.seq → x ∈ (getEng t n).ldq)

/-- From R117, R191: the oldest buffered store, once released, writes exactly its bytes, little-endian, and leaves the buffer; stores of the
run before a START or a RESET come first (R63). The model's choices in it: log row 55. -/
def Obligations.StoreWritesItsBytes : Prop :=
  ∀ (n : Fin 256) (s : State) (o : StoreOp) (pa : Nat), Inv s → (storesOf (getEng s n)).head? = some o → o.released = true → o.lock = false →
    o.width < 4 → o.place = .phys pa → inMemory pa → lockedOut s n (.phys pa) (2 ^ o.width) = false →
    readyNow s pa (2 ^ o.width) → cleanWords s pa (2 ^ o.width) →
    ∃ t, exec (.storePerformed n) s = .next t ∧ sameBut [.eng, .mem] s t ∧ engBut [n.val] s t ∧
      getEng t n = (if (getEng s n).pastSt.isEmpty then { getEng s n with stb := (getEng s n).stb.tail }
        else { getEng s n with pastSt := (getEng s n).pastSt.tail }) ∧
      (∀ i : Nat, i < 2 ^ o.width → kvGet 0#8 t.mem.bytes (pa + i) = BitVec.ofNat 8 (o.data.toNat / 256 ^ i)) ∧
      bytesBut pa (2 ^ o.width) s t

/-- From R54, R56: a bundle that reads lsu.q while the oldest load's data has not come spends a stall step: it is held and counted, and
neither the position, the registers nor anything in flight changes. The model's choices in it: log row 12. -/
def Obligations.StallStepHoldsTheBundle : Prop :=
  ∀ (n : Fin 256) (s : State) (w : Bundle), Inv s → alone s n → noMerge s n → mayIssue s n = true → (getEng s n).pos.ins = 0 → (getEng s n).pos.kill = 0 →
    (getEng s n).exc.atomic = none → fetchBundle (getEng s n) = (w, false) →
    ((execMoves w (getEng s n).flag).any fun m => m.src == 31) = true → (ldqHead (getEng s n)).isSome = true → ldqValue (getEng s n) = none →
    ∃ t, exec (.engineStallStep n) s = .next t ∧ besideStep n 1 s t ∧
      getEng t n = { getEng s n with heldLsu := true
                                     ctr := { (getEng s n).ctr with steps := ((getEng s n).ctr.steps + 1) % 2 ^ 64
                                                                    stallLsu := ((getEng s n).ctr.stallLsu + 1) % 2 ^ 32 } }

/-- From R209: an atomic window that is still open when its steps have passed closes, and exception 0x06 is due with the window's address. -/
def Obligations.AtomicOverrunRaises : Prop :=
  ∀ (n : Fin 256) (s : State) (a : Atomic), Inv s → alone s n → (getEng s n).exc.atomic = some a → a.left = 0 →
    (getEng s n).pos.ins = 0 →
    ∃ t, exec (.atomicWindowOverrun n) s = .next t ∧ sameBut [.eng] s t ∧ engBut [n.val] s t ∧
      getEng t n = { getEng s n with exc := { (getEng s n).exc with
        atomic := none, due := (getEng s n).exc.due ++ [⟨0x06, a.addr, false, false, false⟩] } }

/-- From R154: a meter step that ends shifts the tile's window by its activations and adds to the debt what exceeds the budget, but never more
than the step's own; while debt is owed a step pays one, counts a stall in every engine of the tile and adds nothing to the window. The
model's choices in it: log row 13. -/
def Obligations.MeterCountsAndPays : Prop :=
  (∀ (t : Fin 32) (rel : Bool) (s : State) (a x : Nat), Inv s → (getTile s t).dom = 0 → ((getTile s t).debt = 0 ∨ (getTile s t).relStep = true) →
    valGet s (cTile t 0x11) = 0 → (∀ e : Nat, e < 8 → (getEng s (8 * t + e)).marked = none) →
    a = ((List.range 8).map fun e => (getEng s (8 * t + e)).actNow).sum →
    x = min a (((getTile s t).window.take 15).sum + a - valGet s (cTile t 0x10)) →
    ∃ u, exec (.heavyMeterStep t rel) s = .next u ∧ sameBut [.eng, .tile, .cat] s u ∧ tileBut [t.val] s u ∧
      valsBut [cTile t 0x12] s u ∧ valGet u (cTile t 0x12) = (valGet s (cTile t 0x12) + x) % 2 ^ 32 ∧
      getTile u t = { getTile s t with window := (a :: (getTile s t).window).take 16, debt := (getTile s t).debt + x, stall := false, relStep := rel } ∧
      (∀ e : Nat, e < 8 → getEng u (8 * t + e) = { getEng s (8 * t + e) with actNow := 0, acts := ((getEng s (8 * t + e)).actNow :: (getEng s (8 * t + e)).acts).take 16 })) ∧
  (∀ (t : Fin 32) (rel : Bool) (s : State), Inv s → (getTile s t).dom = 0 → 1 < (getTile s t).debt → (getTile s t).relStep = false →
    (∀ e : Nat, e < 8 → alone s (8 * t + e)) →
    ∃ u, exec (.heavyMeterStep t rel) s = .next u ∧ sameBut [.eng, .pair, .tile] s u ∧ tileBut [t.val] s u ∧
      (∀ m, getPair u m = { getPair s m with sinceCap := (getPair u m).sinceCap, capDue := (getPair u m).capDue }) ∧
      getTile u t = { getTile s t with window := (0 :: (getTile s t).window).take 16, debt := (getTile s t).debt - 1, stall := true, relStep := rel } ∧
      (∀ e : Nat, e < 8 → (getEng u (8 * t + e)).ctr.stallHeavy = ((getEng s (8 * t + e)).ctr.stallHeavy + 1) % 2 ^ 32 ∧
        (getEng u (8 * t + e)).actNow = (getEng s (8 * t + e)).actNow ∧
        (getEng u (8 * t + e)).g = (getEng s (8 * t + e)).g ∧ (getEng u (8 * t + e)).pos = (getEng s (8 * t + e)).pos))

/-- From R58, R60, R61, R182: the oldest word of a sender reaches the queue of an engine that issues of its own accord: it enters behind the
words that wait there, sets the source-1 bit when it enters an empty queue, and is discarded with OVERFLOW at a full one; of words that
arrive in one step the lower sender's enters first, whatever the order they are given in; a stamped word that waits at the router enters
when its T has come. -/
def Obligations.WordsReachTheirQueue : Prop :=
  (∀ (n : Fin 256) (x : Fin 257) (s : State) (f : XuWord), Inv s → alone s n → (getPair s (pairOf n)).taker = none →
    (getTile s (tileOf n)).dom = 0 → kvGet 0 s.power.entry (512 + tileOf n) = 0 → (∀ w ∈ s.net.waiting, queueOwner s w.dst = n.val → s.now < w.stamp.getD 0) → flightOf s x n = some f → f.stamp = none → (getEng s n).rq.words.length < 64 →
    ∃ t, exec (.xuWordArrival n [x]) s = .next t ∧ sameBut [.eng, .net] s t ∧ engBut [n.val] s t ∧
      t.net = { s.net with flights := dropFlight x n s.net.flights } ∧
      getEng t n = { getEng s n with
        rq := { (getEng s n).rq with words := (getEng s n).rq.words ++ [f.value] }
        exc := { (getEng s n).exc with
          irqpend := if (getEng s n).rq.words.isEmpty then (getEng s n).exc.irqpend ||| 2#32 else (getEng s n).exc.irqpend } }) ∧
  (∀ (n : Fin 256) (x : Fin 257) (s : State) (f : XuWord), Inv s → alone s n → (getPair s (pairOf n)).taker = none →
    (getTile s (tileOf n)).dom = 0 → kvGet 0 s.power.entry (512 + tileOf n) = 0 → (∀ w ∈ s.net.waiting, queueOwner s w.dst = n.val → s.now < w.stamp.getD 0) → flightOf s x n = some f → f.stamp = none → 64 ≤ (getEng s n).rq.words.length →
    ∃ t, exec (.xuWordArrival n [x]) s = .next t ∧ sameBut [.eng, .net] s t ∧ engBut [n.val] s t ∧
      t.net = { s.net with flights := dropFlight x n s.net.flights } ∧
      getEng t n = { getEng s n with
        rq := { (getEng s n).rq with ovf := true }
        exc := { (getEng s n).exc with
          irqpend := if (getEng s n).rq.ovf then (getEng s n).exc.irqpend else (getEng s n).exc.irqpend ||| 4#32 } }) ∧
  (∀ (n : Fin 256) (x y : Fin 257) (s : State), x < y →
    ∃ t, exec (.xuWordArrival n [x]) s = .next t ∧ exec (.xuWordArrival n [y, x]) s = exec (.xuWordArrival n [y]) t) ∧
  (∀ (n : Fin 256) (l m : List (Fin 257)) (s : State), l.Perm m → exec (.xuWordArrival n l) s = exec (.xuWordArrival n m) s) ∧
  (∀ (n : Fin 256) (s : State) (f : XuWord), Inv s → alone s n → (getPair s (pairOf n)).taker = none → (getTile s (tileOf n)).dom = 0 → f ∈ s.net.waiting → f.dst = n.val →
    (s.net.waiting.filter fun w => queueOwner s w.dst == n.val && decide (w.stamp.getD 0 ≤ s.now + 2)) = [f] →
    (getEng s n).rq.words.length < 64 →
    ∃ t, exec (.xuStampedEntry n) s = .next t ∧ sameBut [.eng, .net] s t ∧ engBut [n.val] s t ∧
      f ∉ t.net.waiting ∧ (∀ w ∈ s.net.waiting, w ≠ f → w ∈ t.net.waiting) ∧
      (getEng t n).rq.words = (getEng s n).rq.words ++ [f.value] ∧ (getEng t n).g = (getEng s n).g ∧ (getEng t n).pos = (getEng s n).pos)

/-- From R63 to R65, Table 03-8: the commands of engine.cmd, served on any route, to an engine that issues of its own accord in a tile that is
on. Stores and loads of a run that ends stay to be performed. The model's choices in it: log row 21. -/
def Obligations.EngineCommands : Prop :=
  (∀ (r : Route) (n : Fin 256) (s : State), Inv s → serves s r (cEng n 2) → alone s n → noMerge s n → awake s (.tile (Fin.ofNat 32 (n / 8))) →
    (getEng s n).st = .halted → startBarred s = false → paceReady s (tileOf n) = true →
    ∃ t, exec (.engineStart r n) s = .next t ∧ sameBut [.eng, .tile, .cat] s t ∧ answeredOnly r (cEng n 2) s t ∧ tileBut [tileOf n] s t ∧
      (∀ k, k ≠ n.val → getEng t k =
        if k / 8 = n.val / 8 ∧ tileBusy s (tileOf n) = false then { getEng s k with acts := [], actNow := 0 } else getEng s k) ∧
      (getEng t n).st = (if valGet s (cEng n 5) = 0 ∨ valGet s (cEng n 5) < s.now then .running else .armed) ∧
      (getEng t n).pos = Pos.start (valGet s (cEng n 4)) ∧ (getEng t n).g = [] ∧ (getEng t n).flag = false ∧
      (getEng t n).lat = Latches.zero ∧ (getEng t n).res = Results.zero ∧ (getEng t n).ctr = ⟨0, 0, 0, 0⟩ ∧ (getEng t n).exc = ExcSt.start ∧
      (getEng t n).pmem = (getEng s n).pmem ∧ storesOf (getEng t n) = storesOf (getEng s n) ∧ (getEng t n).ldq = [] ∧
      (loadsDue (getEng t n)).map LoadOp.seq = (loadsDue (getEng s n)).map LoadOp.seq ∧ (getEng t n).rq = (getEng s n).rq) ∧
  (∀ (r : Route) (n : Fin 256) (s : State), Inv s → serves s r (cEng n 2) → alone s n → noMerge s n → awake s (.tile (Fin.ofNat 32 (n / 8))) →
    (getEng s n).st = .running ∨ (getEng s n).st = .held ∨ (getEng s n).st = .armed ∨ (getEng s n).st = .debug → holdsCommand s n = false →
    ∃ t, exec (.engineStop r n) s = .next t ∧ sameBut [.eng, .xfer, .cat] s t ∧ answeredOnly r (cEng n 2) s t ∧ engBut [n.val] s t ∧
      (getEng t n).st = .halted ∧ (getEng t n).pos.pc = (getEng s n).pos.pc ∧ (getEng t n).g = (getEng s n).g ∧
      (getEng t n).flag = (getEng s n).flag ∧ (getEng t n).lat = (getEng s n).lat ∧ (getEng t n).res = (getEng s n).res ∧
      (getEng t n).exc = (getEng s n).exc ∧ (getEng t n).stb = (getEng s n).stb ∧ (getEng t n).rq = (getEng s n).rq ∧
      (getEng t n).ldq = [] ∧ (loadsDue (getEng t n)).map LoadOp.seq = (loadsDue (getEng s n)).map LoadOp.seq ∧
      (getEng t n).pastSt = (getEng s n).pastSt ∧ (getEng t n).pwb = [] ∧ (∀ l ∈ t.xfer.locks, l.2.1 ≠ n.val)) ∧
  (∀ (r : Route) (n : Fin 256) (s : State), Inv s → serves s r (cEng n 2) → alone s n → noMerge s n → awake s (.tile (Fin.ofNat 32 (n / 8))) →
    (getEng s n).st = .running ∨ (getEng s n).st = .held → holdsCommand s n = false → valGet s (callNo 0x1510 0x0C) ≠ 0 →
    ∃ t, exec (.engineHalt r n) s = .next t ∧ sameBut [.eng, .cat] s t ∧ answeredOnly r (cEng n 2) s t ∧ engBut [n.val] s t ∧
      getEng t n = { getEng s n with st := .debug, cmd := 0 }) ∧
  (∀ (r : Route) (n : Fin 256) (s : State), Inv s → serves s r (cEng n 2) → alone s n → noMerge s n → awake s (.tile (Fin.ofNat 32 (n / 8))) →
    (getEng s n).st = .debug → (getEng s n).pos.wait = none → valGet s (callNo 0x1510 0x0C) ≠ 0 →
    ∃ t, exec (.engineResume r n) s = .next t ∧ sameBut [.eng, .cat] s t ∧ answeredOnly r (cEng n 2) s t ∧ engBut [n.val] s t ∧
      getEng t n = { getEng s n with st := .running }) ∧
  (∀ (r : Route) (n : Fin 256) (s : State) (ms : List Move) (l : Nat) (c : Bool), Inv s → serves s r (cEng n 2) → alone s n → noMerge s n →
    awake s (.tile (Fin.ofNat 32 (n / 8))) → (getEng s n).st = .debug → MovesNext (getEng s n) ms →
    (getEng s n).pos = { Pos.start (getEng s n).pos.pc with lastpc := l, cntOwn := c } → valGet s (callNo 0x1510 0x0C) ≠ 0 →
    bundleNext (setEng n { getEng s n with st := .running, cmd := 5 } s) n = true →
    ∃ t, exec (.engineStep r n) s = .next t ∧ answered r (cEng n 2) t ∧ besideStep n 1 s t ∧
      (getEng t n).st = .debug ∧ movesDone ms { getEng s n with cmd := 0 } { getEng t n with st := .running }) ∧
  (∀ (r : Route) (n : Fin 256) (s : State), Inv s → serves s r (cEng n 2) → alone s n → noMerge s n → awake s (.tile (Fin.ofNat 32 (n / 8))) →
    (getEng s n).st = .running ∨ (getEng s n).st = .held ∨ (getEng s n).st = .halted ∨ (getEng s n).st = .armed ∨ (getEng s n).st = .debug →
    holdsCommand s n = false →
    ∃ t, exec (.engineReset r n) s = .next t ∧ sameBut [.eng, .xfer, .cat] s t ∧ answeredOnly r (cEng n 2) s t ∧ engBut [n.val] s t ∧
      (getEng t n).st = .halted ∧ (getEng t n).pos.pc = (getEng s n).pos.pc ∧ (getEng t n).g = [] ∧ (getEng t n).flag = false ∧
      (getEng t n).lat = Latches.zero ∧ (getEng t n).res = Results.zero ∧ (getEng t n).ctr = ⟨0, 0, 0, 0⟩ ∧ (getEng t n).exc = ExcSt.start ∧
      (getEng t n).rq.words = [] ∧ (getEng t n).pmem = (getEng s n).pmem ∧ storesOf (getEng t n) = storesOf (getEng s n) ∧
      (getEng t n).ldq = [] ∧ (loadsDue (getEng t n)).map LoadOp.seq = (loadsDue (getEng s n)).map LoadOp.seq ∧
      (∀ l ∈ t.xfer.locks, l.2.1 ≠ n.val))

/-! ### Pairs (chapter 11) -/

/-- From R221, R222: a capture falls due when its interval has passed or the log has reached its level; it is taken at a boundary that permits
it, where the two engines agree: both land what is in flight and spend 40 steps, the other slot, whose bytes in bank 7 now hold the main
copy's registers, becomes current, and the log and the count restart. The model's choices in it: log rows 16, 20. -/
def Obligations.CapturesFallDueAndAreTaken : Prop :=
  (∀ (m : Fin 128) (s : State), Inv s → countsChecked (getPair s m) = true → valGet s (cPair m 4) ≠ 0 →
    valGet s (cPair m 4) ≤ (getPair s m).sinceCap →
    ∃ t, exec (.captureIntervalExpiry m) s = .next t ∧ sameBut [.pair] s t ∧ pairBut [m.val] s t ∧
      getPair t m = { getPair s m with capDue := true }) ∧
  (∀ (m : Fin 128) (s : State), Inv s → countsChecked (getPair s m) = true → (getPair s m).logKept = false →
    1344 ≤ (getPair s m).logN →
    ∃ t, exec (.inputLogFull m) s = .next t ∧ sameBut [.pair] s t ∧ pairBut [m.val] s t ∧
      getPair t m = { getPair s m with capDue := true }) ∧
  (∀ (m : Fin 128) (s : State) (c : Ckpt), Inv s → noJobs s → (getPair s m).st = .checked → (getPair s m).phase = .none → (getPair s m).chain = [] →
    (getPair s m).mig = none → (getPair s m).cmdDue = false → (getPair s m).logKept = false → (getPair s m).logN < 1344 →
    (getPair s m).capDue = true → captureAllowed s m = true → c = ckptOf (getPair s m) (landAll (getEng s (mainOf m))) →
    ckptBits c = ckptBits (checkerCkpt (getPair s m) c (landAll (getEng s (checkerOf m)))) →
    ∃ t, exec (.checkpointCapture m) s = .next t ∧ sameBut [.eng, .pair, .mem] s t ∧ pairBut [m.val] s t ∧
      engBut [mainOf m, checkerOf m] s t ∧
      (∀ i : Nat, i < 320 → kvGet 0#8 t.mem.bytes (slotAt m (!(getPair s m).cur) + i) = (ckptBytes c).getD i 0#8) ∧
      bytesBut (slotAt m (!(getPair s m).cur)) 320 s t ∧
      (getPair t m).cur = !(getPair s m).cur ∧ (getPair t m).valid = true ∧ (getPair t m).logN = 0 ∧ (getPair t m).count = 0 ∧
      (getPair t m).capDue = false ∧ (getPair t m).captures = (getPair s m).captures + 1 ∧ (getPair t m).st = .checked ∧
      (getEng t (mainOf m)).ctr.steps = ((getEng s (mainOf m)).ctr.steps + 40) % 2 ^ 64 ∧
      (getEng t (mainOf m)).g = (getEng s (mainOf m)).g ∧ (getEng t (checkerOf m)).g = (getEng s (checkerOf m)).g)

/-- From R224, R225, Table 11-5: the restart of a pair: after the reset the restore begins; it puts the current slot's values into both
engines and the log ahead of replay; when replay reaches Br the pair runs on live, with the pending bits and exceptions that the restart
put off. A slot or a log that cannot be read takes the pair out, with event 0x23. The model's choices in it: log rows 18, 19. -/
def Obligations.RestartRestoresAndReplays : Prop :=
  (∀ (m : Fin 128) (s : State), Inv s → (getPair s m).phase = .resetting →
    ∃ t, exec (.pairResetDone m) s = .next t ∧ sameBut [.pair] s t ∧ pairBut [m.val] s t ∧
      getPair t m = { getPair s m with phase := .restoring }) ∧
  (∀ (m : Fin 128) (s : State) (c : Ckpt) (recs : List LogRec), Inv s → (getPair s m).phase = .restoring → (getPair s m).valid = true →
    readSlot m (getPair s m).cur s = (some c, s) → readLog m s = (recs, true, s) →
    ∃ t, exec (.restoreComplete m false) s = .next t ∧ sameBut [.eng, .pair] s t ∧ pairBut [m.val] s t ∧
      engBut [mainOf m, checkerOf m] s t ∧
      getPair t m = { getPair s m with phase := .replay (getPair s m).count, rlog := recs, count := 0, outseq := c.outseq
                                       skip := ((getPair s m).relBefore + 2 ^ 32 - c.outseq) % 2 ^ 32
                                       sinceCap := 0, chain := [] } ∧
      (∀ n : Nat, n = mainOf m ∨ n = checkerOf m → (getEng t n).g = kvFrom 0#32 c.g ∧ (getEng t n).pos.pc = c.pc ∧ (getEng t n).flag = c.flag ∧
        (getEng t n).lat = (List.range 16).foldl (fun a k => latchWrite a k (c.lat.getD k 0#32)) Latches.zero ∧
        (getEng t n).res = (List.range 7).foldl (fun a k => resultWrite a k (c.res.getD k 0#32)) Results.zero ∧
        (getEng t n).lnk = (c.res.getD 7 0#32).toNat % 8192 ∧ (getEng t n).exc.mask = c.mask ∧
        (getEng t n).exc.super = c.super ∧ (getEng t n).exc.vbase = c.vbase ∧ (getEng t n).exc.irqpend = c.irqpend ∧
        (getEng t n).cause = (getEng s n).cause ∧ (getEng t n).pmem = (getEng s n).pmem)) ∧
  (∀ (m : Fin 128) (s : State) (o : Option Ckpt) (recs : List LogRec) (bad good : Bool), Inv s → (getPair s m).phase = .restoring →
    readSlot m (getPair s m).cur s = (o, s) → readLog m s = (recs, good, s) →
    bad = true ∨ (getPair s m).valid = false ∨ good = false ∨ o = none → promiseBit s 2 = false →
    ∃ t, exec (.restoreComplete m bad) s = .next t ∧ (getPair t m).st = .out ∧ (getPair t m).held = true ∧
      (getEng t (mainOf m)).st = .halted ∧ (getEng t (checkerOf m)).st = .halted ∧ (newestEvent t).head % 512 = 0x23 + 256) ∧
  (∀ (m : Fin 128) (s : State) (b : Nat), Inv s → (getPair s m).phase = .replay b → b ≤ (getPair s m).count → (getPair s m).toDebug = false →
    (getPair s m).mig = none → (∀ x ∈ (getPair s m).rlog, x.count ≠ (getPair s m).count % 2 ^ 24) →
    ∃ t, exec (.replayComplete m false) s = .next t ∧ sameBut [.eng, .pair] s t ∧ pairBut [m.val] s t ∧
      engBut [mainOf m, checkerOf m] s t ∧
      (getPair t m).phase = .none ∧ (getPair t m).st = (getPair s m).after ∧ (getPair t m).defer = 0 ∧ (getPair t m).deferDue = [] ∧
      (getPair t m).rlog = [] ∧
      (getEng t (mainOf m)).st = .running ∧ (getEng t (checkerOf m)).st = .running ∧
      (getEng t (mainOf m)).exc.irqpend = (getEng s (mainOf m)).exc.irqpend ||| (getPair s m).defer ∧
      (getEng t (mainOf m)).exc.due = (getEng s (mainOf m)).exc.due ++ (getPair s m).deferDue ∧
      (getEng t (mainOf m)).g = (getEng s (mainOf m)).g ∧ (getEng t (mainOf m)).pos = (getEng s (mainOf m)).pos)

/-- From R224, R228, R233, Table 11-9: a mismatch of a running pair logs event 0x20, counts, and sends both engines into the restart with
everything that was not compared discarded, its locks broken and the slot and the log kept; an overrun of the segment's DEADLINE declares
the substitute with event 0x23; a checker fault logs event 0x21, and the pair runs on UNCHECKED while a free spare sets out to take over.
The model's choices in it: log rows 19, 54. -/
def Obligations.FaultsOfAPair : Prop :=
  (∀ (m : Fin 128) (s : State), Inv s → (getPair s m).st = .checked → (getPair s m).phase = .none → (getPair s m).valid = true →
    (getPair s m).logN < 1408 → within1s s (getPair s m).lastMis = false →
    ∃ t, exec (.mismatch m) s = .next t ∧ sameBut [.eng, .pair, .xfer, .cat, .log, .host] s t ∧ pairBut [m.val] s t ∧
      engBut [mainOf m, checkerOf m] s t ∧ valsBut [cPair m 5, callNo 0x1920 7] s t ∧
      (∀ l ∈ t.xfer.locks, l.2.1 ≠ mainOf m) ∧
      ((∀ l ∈ s.xfer.locks, l.2.1 ≠ mainOf m) → valGet t (callNo 0x1920 7) = valGet s (callNo 0x1920 7)) ∧
      (∀ k : Nat, k = (s.xfer.locks.filter fun l => l.2.1 == mainOf m).length → 0 < k →
        valGet t (callNo 0x1920 7) = (valGet s (callNo 0x1920 7) + k) % 2 ^ 32) ∧
      logged 0x20 false m (getPair s m).count s t ∧ valGet t (cPair m 5) = (valGet s (cPair m 5) + 1) % 2 ^ 32 ∧
      (getPair t m).st = .restoring ∧ (getPair t m).phase = .resetting ∧ (getPair t m).chain = [] ∧ (getPair t m).lastMis = some s.up ∧
      (getPair t m).logN = (getPair s m).logN ∧ (getPair t m).cur = (getPair s m).cur ∧ (getPair t m).valid = true ∧ (getPair t m).count = (getPair s m).count ∧
      (getPair t m).relBefore = ((getPair s m).outseq + (getPair s m).skip) % 2 ^ 32 ∧
      (getEng t (mainOf m)).st = .restoring ∧ (getEng t (checkerOf m)).st = .restoring ∧ (getEng t (checkerOf m)).stb = [] ∧
      (getEng t (mainOf m)).stb = (getEng s (mainOf m)).stb.filter (fun o => o.released) ∧
      (getEng t (mainOf m)).ldq = [] ∧ (getEng t (mainOf m)).pwb = []) ∧
  (∀ (m : Fin 128) (s : State) (d : Nat × Nat), Inv s → (getPair s m).dead = some d → (getPair s m).phase ≠ .none → d.1 ≤ s.now →
    ∃ t, exec (.recoveryOverrun m) s = .next t ∧ sameBut [.pair, .cat, .log, .host] s t ∧ pairBut [m.val] s t ∧
      valsBut [cPair m 6] s t ∧ logged 0x23 false m d.2 s t ∧
      getPair t m = { getPair s m with subst := true, dead := none } ∧
      valGet t (cPair m 6) = (if bits (valGet s (cPair m 6)) 8 8 < 255 then valGet s (cPair m 6) + 256 else valGet s (cPair m 6))) ∧
  (∀ (m : Fin 128) (lane : Fin 256) (s : State) (k : Nat), Inv s → (getPair s m).st = .checked → (getPair s m).mig = none →
    findSpare s m = some k →
    ∃ t, exec (.checkerFault m lane) s = .next t ∧ sameBut [.pair, .cat, .log, .host] s t ∧ pairBut [m.val] s t ∧
      valsBut [cPair m 6] s t ∧ logged 0x21 false m lane s t ∧
      getPair t m = { getPair s m with st := .unchecked, logKept := true, capDue := false
                                       mig := some ⟨k, false, s.now + 40000, false, true, false, 0, []⟩ } ∧
      valGet t (cPair m 6) = (if bits (valGet s (cPair m 6)) 0 8 < 255 then valGet s (cPair m 6) + 1 else valGet s (cPair m 6)))

/-- From R231 to R233: the copy to a spare gives both its engines the main copy's program; the spare of a checker fault takes over where the
main copy is held: the home pair is OUT with its engines HALTED, and the spare runs CHECKED with its slot, log, registers and position.
The model's choices in it: log row 19. -/
def Obligations.SparesTakeOver : Prop :=
  (∀ (m : Fin 128) (s : State) (g : Migration), Inv s → (getPair s m).mig = some g → g.copied = false → g.spare ≠ m →
    ∃ t, exec (.programCopyComplete m) s = .next t ∧ sameBut [.eng, .pair, .cat, .arch] s t ∧ pairBut [m.val] s t ∧
      engBut [mainOf g.spare, checkerOf g.spare] s t ∧
      getPair t m = { getPair s m with mig := some { g with copied := true } } ∧
      (∀ n : Nat, n = mainOf g.spare ∨ n = checkerOf g.spare → (getEng t n).pmem = (getEng s (mainOf m)).pmem ∧
        (getEng t n).slotFetch = (getEng s (mainOf m)).slotFetch ∧ (getEng t n).g = (getEng s n).g)) ∧
  (∀ (m : Fin 128) (s : State) (g : Migration), Inv s → noJobs s → (getPair s m).mig = some g → g.fault = true → g.copied = true →
    (getPair s m).st = .unchecked → (getPair s m).valid = true → (getPair s m).logN < 1408 → (getPair s m).chain = [] →
    (getEng s (mainOf m)).st = .held → g.spare ≠ m → storesOf (getEng s (mainOf m)) = [] → storesOf (getEng s (checkerOf m)) = [] →
    ∃ t, exec (.spareCatchUp m) s = .next t ∧ pairBut [m.val, g.spare] s t ∧
      engBut [mainOf m, checkerOf m, mainOf g.spare, checkerOf g.spare] s t ∧
      (∀ i : Nat, i < 320 → kvGet 0#8 t.mem.bytes (slotAt g.spare false + i) = kvGet 0#8 s.mem.bytes (slotAt m (getPair s m).cur + i)) ∧
      (∀ i : Nat, i < 8 * (getPair s m).logN → kvGet 0#8 t.mem.bytes (logAt g.spare 0 + i) = kvGet 0#8 s.mem.bytes (logAt m 0 + i)) ∧
      (∀ x : Nat, (x < slotAt g.spare false ∨ slotAt g.spare false + 320 ≤ x) →
        (x < logAt g.spare 0 ∨ logAt g.spare 0 + 8 * (getPair s m).logN ≤ x) → kvGet 0#8 t.mem.bytes x = kvGet 0#8 s.mem.bytes x) ∧
      (getPair t m).st = .out ∧ (getPair t m).taker = some g.spare ∧ (getEng t (mainOf m)).st = .halted ∧
      (getEng t (checkerOf m)).st = .halted ∧
      (getPair t g.spare).st = .checked ∧ (getPair t g.spare).cur = false ∧ (getPair t g.spare).valid = true ∧
      (getPair t g.spare).logN = (getPair s m).logN ∧ (getPair t g.spare).count = (getPair s m).count ∧
      (∀ n : Nat, n = mainOf g.spare ∨ n = checkerOf g.spare → (getEng t n).g = (getEng s (mainOf m)).g ∧
        (getEng t n).pos = (getEng s (mainOf m)).pos ∧ (getEng t n).exc = (getEng s (mainOf m)).exc ∧ (getEng t n).pmem = (getEng s n).pmem) ∧
      (getEng t (mainOf g.spare)).st = .held)

/-- From R231, R237, R238, Table 11-11: the commands of pair.cmd that wait for a period mark. The pair takes the command with the earliest
time it may act at, and the write is answered; nothing else changes until the mark. The model's choices in it: log rows 19, 21. -/
def Obligations.WaitingPairCommands : Prop :=
  (∀ (r : Route) (m : Fin 128) (s : State), serves s r (cPair m 2) → awake s (.tile (Fin.ofNat 32 (pairTile m))) →
    (getPair s m).cmd = 0 → (getPair s m).mig = none → (getPair s m).st = .idle ∧ valGet s (cPair m 8) ≠ 1 ∧ (getPair s m).cmdDue = false ∨ (getPair s m).st = .checked →
    exec (.split r m) s = .next (replied r (cPair m 2)
      (setPair m { getPair s m with cmd := 3, cmdAt := valGet s (cPair m 3), cmdDue := false } s))) ∧
  (∀ (r : Route) (m : Fin 128) (s : State), serves s r (cPair m 2) → awake s (.tile (Fin.ofNat 32 (pairTile m))) →
    (getPair s m).cmd = 0 → (getPair s m).mig = none → (getPair s m).st = .checked →
    exec (.splitKeep r m) s = .next (replied r (cPair m 2)
      (setPair m { getPair s m with cmd := 4, cmdAt := valGet s (cPair m 3), cmdDue := false } s))) ∧
  (∀ (r : Route) (m : Fin 128) (s : State), serves s r (cPair m 2) → awake s (.tile (Fin.ofNat 32 (pairTile m))) →
    (getPair s m).cmd = 0 → (getPair s m).mig = none → (getPair s m).st = .split →
    exec (.merge r m) s = .next (replied r (cPair m 2)
      (setPair m { getPair s m with cmd := 5, cmdAt := valGet s (cPair m 3), cmdDue := false } s))) ∧
  (∀ (r : Route) (m : Fin 128) (s : State), serves s r (cPair m 2) → awake s (.tile (Fin.ofNat 32 (pairTile m))) →
    (getPair s m).cmd = 0 → (getPair s m).mig = none → (getPair s m).st = .split → (getEng s (checkerOf m)).st = .halted →
    (getEng s (mainOf m)).st = .running ∨ (getEng s (mainOf m)).st = .held → (∃ f ∈ s.svc.folios, f.owner = m.val) →
    exec (.mergeKeep r m) s = .next (replied r (cPair m 2)
      (setPair m { getPair s m with cmd := 6, cmdAt := valGet s (cPair m 3), cmdDue := false } s))) ∧
  (∀ (r : Route) (m : Fin 128) (k : Nat) (s : State), Inv s → serves s r (cPair m 2) → awake s (.tile (Fin.ofNat 32 (pairTile m))) →
    (getPair s m).cmd = 0 → (getPair s m).mig = none → (getPair s m).st = .checked → findSpare s m = some k →
    ∃ t, exec (.migrate r m) s = .next t ∧ sameBut [.pair, .cat] s t ∧ answeredOnly r (cPair m 2) s t ∧ pairBut [m.val] s t ∧
      getPair t m = { getPair s m with mig := some ⟨k, false, max (valGet s (cPair m 3)) (s.now + 40000), false, false, true, 0, []⟩ })

/-- From R235, R239, R241, Table 11-11: the commands of pair.cmd that act at once, on a pair whose tile is on. START starts both engines from
the main copy's entries; STOP and HALT act on both at a boundary, with nothing left to compare; RESUME returns the pair to its previous
state; STEP of an UNCHECKED pair runs one bundle; an injection that finds a fault takes the pair OUT with event 0x21. The model's choices
in it: log rows 17, 21. -/
def Obligations.PairCommands : Prop :=
  (∀ (r : Route) (m : Fin 128) (s : State), Inv s → serves s r (cPair m 2) → awake s (.tile (Fin.ofNat 32 (pairTile m))) →
    (getPair s m).cmd = 0 → (getPair s m).mig = none → (getPair s m).st = .idle → (getPair s m).cmdDue = false → (getPair s m).phase = .none → valGet s (cPair m 8) = 0 →
    (getEng s (mainOf m)).st = .halted → (getEng s (checkerOf m)).st = .halted → startBarred s = false → paceReady s (pairTile m) = true →
    ∃ t, exec (.pairStart r m) s = .next t ∧ sameBut [.eng, .pair, .tile, .cat, .svc] s t ∧ answeredOnly r (cPair m 2) s t ∧
      t.svc = { s.svc with cutOut := s.svc.cutOut.filter fun k => k != m.val } ∧
      (∀ k, k ≠ mainOf m → k ≠ checkerOf m → getEng t k =
        if k / 8 = pairTile m ∧ tileBusy s (pairTile m) = false then { getEng s k with acts := [], actNow := 0 } else getEng s k) ∧ pairBut [m.val] s t ∧ tileBut [pairTile m] s t ∧
      getPair t m = { Pair.fresh with st := .checked, lastMis := (getPair s m).lastMis, lastThird := (getPair s m).lastThird } ∧
      (∀ n : Nat, n = mainOf m ∨ n = checkerOf m →
        (getEng t n).st = (if valGet s (cEng (mainOf m) 5) = 0 ∨ valGet s (cEng (mainOf m) 5) < s.now then .running else .armed) ∧
        (getEng t n).pos = Pos.start (valGet s (cEng (mainOf m) 4)) ∧ (getEng t n).slotFetch = (valGet s (cEng (mainOf m) 3) == 1) ∧
        (getEng t n).g = [] ∧ (getEng t n).lat = Latches.zero ∧ (getEng t n).res = Results.zero ∧ (getEng t n).ctr = ⟨0, 0, 0, 0⟩ ∧
        (getEng t n).exc = ExcSt.start ∧ (getEng t n).pmem = (getEng s n).pmem)) ∧
  (∀ (r : Route) (m : Fin 128) (s : State), Inv s → serves s r (cPair m 2) → awake s (.tile (Fin.ofNat 32 (pairTile m))) →
    (getPair s m).cmd = 0 → (getPair s m).mig = none → (getPair s m).st = .checked ∨ (getPair s m).st = .unchecked →
    (getPair s m).chain = [] → (getEng s (mainOf m)).st = .running → holdsCommand s (mainOf m) = false →
    ∃ t, exec (.pairStop r m) s = .next t ∧ engBut [mainOf m, checkerOf m] s t ∧ pairBut [m.val] s t ∧ t.mem = s.mem ∧
      getPair t m = { getPair s m with st := .idle, chain := [], capDue := false, cmd := 0, cmdDue := false, mig := none } ∧
      (∀ n : Nat, n = mainOf m ∨ n = checkerOf m → (getEng t n).st = .halted ∧ (getEng t n).g = (getEng s n).g ∧
        (getEng t n).pos.pc = (getEng s n).pos.pc ∧ (getEng t n).stb = (getEng s n).stb ∧ (getEng t n).exc = (getEng s n).exc ∧
        (getEng t n).pwb = [] ∧ (getEng t n).pmem = (applyPwb (getEng s n)).pmem) ∧
      (∀ l ∈ t.xfer.locks, l.2.1 ≠ mainOf m)) ∧
  (∀ (r : Route) (m : Fin 128) (s : State), Inv s → serves s r (cPair m 2) → awake s (.tile (Fin.ofNat 32 (pairTile m))) →
    (getPair s m).cmd = 0 → (getPair s m).mig = none → (getPair s m).st = .checked ∨ (getPair s m).st = .unchecked →
    (getPair s m).chain = [] → (getEng s (mainOf m)).st = .running → holdsCommand s (mainOf m) = false → valGet s (callNo 0x1510 0x0C) ≠ 0 →
    ∃ t, exec (.pairHalt r m) s = .next t ∧ sameBut [.eng, .pair, .cat] s t ∧ answeredOnly r (cPair m 2) s t ∧
      engBut [mainOf m, checkerOf m] s t ∧ pairBut [m.val] s t ∧
      getPair t m = { getPair s m with st := .debug, prev := (getPair s m).st } ∧
      getEng t (mainOf m) = { getEng s (mainOf m) with st := .debug, cmd := 0 } ∧
      getEng t (checkerOf m) = { getEng s (checkerOf m) with st := .debug }) ∧
  (∀ (r : Route) (m : Fin 128) (s : State), Inv s → serves s r (cPair m 2) → awake s (.tile (Fin.ofNat 32 (pairTile m))) →
    (getPair s m).cmd = 0 → (getPair s m).mig = none → (getPair s m).st = .debug → (getEng s (mainOf m)).pos.wait = none →
    valGet s (callNo 0x1510 0x0C) ≠ 0 →
    ∃ t, exec (.pairResume r m) s = .next t ∧ sameBut [.eng, .pair, .cat] s t ∧ answeredOnly r (cPair m 2) s t ∧
      engBut [mainOf m, checkerOf m] s t ∧ pairBut [m.val] s t ∧ getPair t m = { getPair s m with st := (getPair s m).prev } ∧
      (∀ n : Nat, n = mainOf m ∨ n = checkerOf m → getEng t n = { getEng s n with st := .running })) ∧
  (∀ (r : Route) (m : Fin 128) (s : State) (ms : List Move) (l : Nat) (c : Bool), Inv s → serves s r (cPair m 2) →
    awake s (.tile (Fin.ofNat 32 (pairTile m))) → (getPair s m).cmd = 0 → (getPair s m).mig = none → (getPair s m).st = .debug →
    (getPair s m).prev = .unchecked → (getPair s m).phase = .none → (getPair s m).chain = [] → valGet s (callNo 0x1510 0x0C) ≠ 0 →
    MovesNext (getEng s (mainOf m)) ms → (getEng s (mainOf m)).pos = { Pos.start (getEng s (mainOf m)).pos.pc with lastpc := l, cntOwn := c } →
    bundleNext (modEng (mainOf m) (fun e => { e with cmd := 5 }) (pairResume m s)) (mainOf m) = true →
    (∀ x ∈ (getEng s (mainOf m)).ldq, x.seq < (getEng s (mainOf m)).lsuSeq) →
    ∃ t, exec (.pairStep r m) s = .next t ∧ engBut [mainOf m, checkerOf m] s t ∧ pairBut [m.val] s t ∧ t.mem = s.mem ∧
      (getPair t m).st = .debug ∧ (getPair t m).prev = .unchecked ∧ (getPair t m).count = (getPair s m).count + 1 ∧
      (getPair t m).chain = [] ∧ (getEng t (mainOf m)).st = .debug ∧ (getEng t (checkerOf m)).st = .debug ∧
      movesDone ms { getEng s (mainOf m) with cmd := 0 } { getEng t (mainOf m) with st := .running }) ∧
  (∀ (r : Route) (m : Fin 128) (fault : Option (Fin 256)) (s : State), Inv s → serves s r (cPair m 2) →
    awake s (.tile (Fin.ofNat 32 (pairTile m))) → (getPair s m).cmd = 0 → (getPair s m).mig = none → (getPair s m).st = .idle →
    valGet s (callNo 0x1510 0x0C) ≠ 0 →
    ∃ t, exec (.inject r m fault) s = .next t ∧ sameBut [.pair, .cat, .log, .host] s t ∧ answeredOnly r (cPair m 2) s t ∧ pairBut [m.val] s t ∧
      (match fault with
        | none => t.log = s.log ∧ t.host = s.host ∧ getPair t m = getPair s m
        | some k => logged 0x21 true m k s t ∧ getPair t m = { getPair s m with st := .out }))

/-- From R21, R172, R173, R175, R181: the written entries of device time. time.period.run starts the marks strictly after the write;
time.source leaves LOCKED and measures the new source; time.set sets the time with event 0x32 and makes it valid; a write of
tile.time.late clears the bits written 1. The model's choices in it: log row 23. -/
def Obligations.TimeEntriesWritten : Prop :=
  (∀ (r : Route) (v : Byte) (s : State), serves s r (callNo 0x1110 4) → archiveLow s = false → v.toNat ≤ 1 →
    ∃ t, exec (.timePeriodRun r v) s = .next t ∧ sameBut [.time, .cat, .arch] s t ∧ valsBut [callNo 0x1110 4] s t ∧
      answered r (callNo 0x1110 4) t ∧ valGet t (callNo 0x1110 4) = v.toNat ∧
      t.time = { s.time with runFrom := if v.toNat = 1 then s.up else s.time.runFrom, period := s.time.period && v.toNat == 1 }) ∧
  (∀ (r : Route) (v : Byte) (s : State), Inv s → noRestart s → serves s r (callNo 0x1100 3) → archiveLow s = false → v.toNat ≤ 3 →
    ∃ t, exec (.timeSource r v) s = .next t ∧ sameBut [.time, .cat, .arch, .log, .host, .eng] s t ∧
      answered r (callNo 0x1100 3) t ∧ valGet t (callNo 0x1100 3) = v.toNat ∧ valGet t (callNo 0x1100 9) = 0 ∧
      t.time = { s.time with locked := false, good := 0, holdover := false, meas := none, period := s.time.period && s.time.valid } ∧
      (ringsQuiet s → t.log = s.log ∧ t.host = s.host ∧ valsBut [callNo 0x1100 3, callNo 0x1100 9] s t) ∧
      (if s.time.locked = true then raisedAll 29 s t else t.eng = s.eng)) ∧
  (∀ (r : Route) (v : BitVec 64) (s : State), Inv s → noRestart s → serves s r (callNo 0x1100 8) → valGet s (callNo 0x1100 3) = 0 →
    (∀ n : Nat, (getEng s n).pos.wait = none ∧ (getEng s n).st ≠ .armed) → treeLocked s = true →
    ∃ t, exec (.timeSet r v) s = .next t ∧ sameBut [.now, .time, .xfer, .mem, .svc, .net, .ring, .cat, .log, .host, .eng] s t ∧
      answered r (callNo 0x1100 8) t ∧ t.now = v.toNat ∧
      t.time = { s.time with valid := true, stepped := s.time.valid, stepAt := s.up } ∧
      t.xfer = { s.xfer with quiet := false } ∧ t.mem = { s.mem with refEnd := max s.mem.refEnd s.up, refStep := s.mem.refOpen } ∧
      (ringsQuiet s → promiseBit s 3 = true → t.log.count = (s.log.count + 1) % 2 ^ 32 ∧ t.log.newest = (s.log.newest + 1) % 64 ∧
        newestEvent t = ⟨v.toNat, 0x132 + 0xFFFF * 65536, int64 ((v.toNat : Int) - s.now)⟩) ∧
      (if s.time.valid = true then t.eng = s.eng else raisedAll 29 s t)) ∧
  (∀ (r : Route) (k : Fin 32) (v : Byte) (s : State), serves s r (cTile k 0x22) →
    ∃ t, exec (.tileTimeLateClear r k v) s = .next t ∧ sameBut [.cat] s t ∧ valsBut [cTile k 0x22] s t ∧ answered r (cTile k 0x22) t ∧
      valGet t (cTile k 0x22) = valGet s (cTile k 0x22) - Nat.land (valGet s (cTile k 0x22)) v.toNat)

/-- From R171, R172, R173: the discipline. A measurement of the selected source within four times the step limit sets the offset, the rate
within 200 ppm either way and the lock; one beyond it steps the time and leaves it invalid with event 0x32; a lost source begins holdover;
holdover past its limit ends the time's validity. The model's choices in it: log row 23. -/
def Obligations.DisciplineFollowsItsSource : Prop :=
  (∀ (off0 off rate : Int) (s : State), Inv s → noRestart s → measured off0 s = some off →
    4 * valGet s (callNo 0x1100 6) < off.natAbs → (∀ n : Nat, (getEng s n).pos.wait = none ∧ (getEng s n).st ≠ .armed) →
    ∃ t, exec (.disciplineMeasurement off0 rate) s = .next t ∧ sameBut [.now, .time, .xfer, .mem, .svc, .net, .ring, .cat, .log, .host, .eng] s t ∧
      t.now = (((s.now : Int) + off) % 2 ^ 64).toNat ∧ valGet t (callNo 0x1100 4) = int64 off ∧ promiseBit t 3 = false ∧
      t.time = { s.time with stepped := true, valid := false, locked := false, good := 0, holdover := false, meas := none
                             stepAt := s.up, period := false } ∧
      (ringsQuiet s → t.log.count = (s.log.count + 1) % 2 ^ 32 ∧ newestEvent t = ⟨t.now, 0x132 + 0xFFFF * 65536, int64 off⟩) ∧
      (if s.time.valid = true ∨ s.time.locked = true then raisedAll 29 s t else t.eng = s.eng)) ∧
  (∀ (off0 off rate : Int) (s : State), Inv s → noRestart s → measured off0 s = some off →
    off.natAbs ≤ 4 * valGet s (callNo 0x1100 6) →
    ∃ t, exec (.disciplineMeasurement off0 rate) s = .next t ∧ sameBut [.time, .cat, .log, .host, .eng] s t ∧
      valGet t (callNo 0x1100 4) = int64 off ∧ t.time.holdover = false ∧ t.time.rate = max (-200000) (min 200000 rate) ∧ t.time.meas = none ∧
      t.time.good = (if off.natAbs ≤ 16 then min 16 (s.time.good + 1) else 0) ∧
      (t.time.locked = true ↔ t.time.good = 16 ∨ off.natAbs ≤ 160 ∧ s.time.locked = true) ∧
      (t.time.valid = true ↔ s.time.valid = true ∨ t.time.good = 16) ∧
      (if t.time.valid = s.time.valid ∧ t.time.locked = s.time.locked then t.eng = s.eng else raisedAll 29 s t)) ∧
  (∀ s : State, valGet s (callNo 0x1100 3) ≠ 0 → s.time.holdover = false →
    exec .sourceLost s = .next { s with time := { s.time with holdover := true, holdAt := s.up, good := 0 } }) ∧
  (∀ s : State, Inv s → noRestart s → s.time.holdover = true → s.time.valid = true →
    s.time.holdAt + 4000000 * valGet s (callNo 0x1100 7) ≤ s.up →
    ∃ t, exec .holdoverLimitExpiry s = .next t ∧ sameBut [.time, .cat, .log, .host, .eng] s t ∧
      t.time = { s.time with valid := false, period := false } ∧ promiseBit t 3 = false ∧
      (ringsQuiet s → promiseBit s 3 = true → logged 0x32 true 0xFFFF 0 s t) ∧
      raisedAll 29 s t)

/-- From R174: a follower of a powered tile. Losing lock, or not relocking in time, unlocks the tree and lets ALIGN_DEV lapse with event 0x32
of that tile; locking makes its releases exact again. The model's choices in it: log row 48. -/
def Obligations.FollowersLoseAndFindLock : Prop :=
  (∀ (k : Fin 32) (s : State), Inv s → noRestart s → (getTile s k).dom = 0 → (getTile s k).lost = false →
    (∀ n : Nat, (getEng s n).pos.wait = none ∧ (getEng s n).st ≠ .armed) →
    ∃ t, exec (.followerLockLoss k) s = .next t ∧ sameBut [.tile, .time, .cat, .log, .host, .eng] s t ∧ tileBut [k.val] s t ∧
      t.time = { s.time with period := s.time.period && s.time.valid } ∧
      getTile t k = { getTile s k with lock := false, lost := true, relock := false } ∧ treeLocked t = false ∧ promiseBit t 3 = false ∧
      (ringsQuiet s → promiseBit s 3 = true → logged 0x32 true k 0 s t) ∧ (if treeLocked s = true then raisedAll 29 s t else t.eng = s.eng)) ∧
  (∀ (k : Fin 32) (s : State), (getTile s k).dom = 0 → (getTile s k).lost = false →
    (getTile s k).lock = false → (getTile s k).relock = true →
    exec (.followerRelockTimeout k) s = exec (.followerLockLoss k) s) ∧
  (∀ (k : Fin 32) (s : State), Inv s → noRestart s → (getTile s k).dom = 0 →
    (∀ n : Nat, (getEng s n).pos.wait = none ∧ (getEng s n).st ≠ .armed) →
    ∃ t, exec (.followerRelock k) s = .next t ∧ sameBut [.tile, .time, .cat, .log, .host, .eng] s t ∧ tileBut [k.val] s t ∧
      t.time = { s.time with period := s.time.period && s.time.valid } ∧
      getTile t k = { getTile s k with lock := true, lost := false, relock := false } ∧ releases t (8 * k) = true ∧
      (if treeLocked t = treeLocked s then t.eng = s.eng else raisedAll 29 s t))

/-- From R23, R182, R184, R185, R399, R400: outputs and captures. A write reaches its pin or output image after the stamped writes that are
due before it, and is applied, or waits for its stamp; every stamped write whose time has come leaves its queue; a selected edge gives a
record, or only advances SEQ where 32 wait; a ring's output image is frozen for its next frame 1,000 ns before its launch, and at no other
instant. The model's choices in it: log row 22. -/
def Obligations.OutputsAndCaptures : Prop :=
  (∀ (src : Fin 257) (s u : State) (w : OutWrite) (l : List OutWrite), s.net.outs = w :: l → w.src = src → w.stamp = none →
    w.xto.toNat / 2 ^ 30 ≠ 1 → u = stampedDue { s with net := { s.net with outs := l } } → kvWf PinSt.idle u.pins.tio = true →
    tioMode u (w.xto.toNat % 16) = 1 ∨ tioMode u (w.xto.toNat % 16) = 2 → u.pins.stop = false →
    ∃ t, exec (.outputWriteArrival src) s = .next t ∧ sameBut [.pins, .cat] u t ∧
      valGet t (cTio (w.xto.toNat % 16) 9) = u.now ∧ (∀ q : Nat, q ≠ w.xto.toNat % 16 → getPin t q = getPin u q) ∧
      (getPin t (w.xto.toNat % 16)).pend = (getPin u (w.xto.toNat % 16)).pend ∧
      (getPin t (w.xto.toNat % 16)).drive = (match w.value.toNat % 4 with
        | 0 => some false
        | 1 => some true
        | 2 => some (!(getPin u (w.xto.toNat % 16)).lastDriven)
        | _ => none)) ∧
  (∀ (src : Fin 257) (s u : State) (w : OutWrite) (l : List OutWrite), s.net.outs = w :: l → w.src = src → w.stamp = none →
    w.xto.toNat / 2 ^ 26 % 4 = 0 → w.xto.toNat / 2 ^ 30 = 1 →
    u = freezeDue (w.xto.toNat / 2 ^ 28 % 2) (stampedDue { s with net := { s.net with outs := l } }) →
    stopHolds u (w.xto.toNat / 2 ^ 28 % 2) (w.xto.toNat % 65536) = false →
    exec (.outputWriteArrival src) s = .next (setRing (w.xto.toNat / 2 ^ 28 % 2) { getRing u (w.xto.toNat / 2 ^ 28 % 2) with
        imgOut := kvSet 0#8 (getRing u (w.xto.toNat / 2 ^ 28 % 2)).imgOut (w.xto.toNat % 65536) (BitVec.ofNat 8 w.value.toNat) } u)) ∧
  (∀ (src : Fin 257) (s u : State) (w : OutWrite) (l : List OutWrite) (T : Nat), s.net.outs = w :: l → w.src = src →
    w.stamp = some T → s.now < T → w.xto.toNat / 2 ^ 30 ≠ 1 →
    u = stampedDue { s with net := { s.net with outs := l } } → kvWf PinSt.idle u.pins.tio = true →
    ∃ t, exec (.outputWriteArrival src) s = .next t ∧ sameBut [.pins, .cat, .log, .host] u t ∧
      (∀ q : Nat, q ≠ w.xto.toNat % 16 → getPin t q = getPin u q) ∧
      (if (getPin u (w.xto.toNat % 16)).pend.length < 16 then t.cat = u.cat ∧ t.log = u.log ∧ getPin t (w.xto.toNat % 16) =
          { getPin u (w.xto.toNat % 16) with pend := joinStamped u ⟨T, w.src, w.xto, w.value⟩ (getPin u (w.xto.toNat % 16)).pend }
        else getPin t (w.xto.toNat % 16) = getPin u (w.xto.toNat % 16) ∧ valsBut [cTio (w.xto.toNat % 16) 6] u t ∧
          valGet t (cTio (w.xto.toNat % 16) 6) = (valGet u (cTio (w.xto.toNat % 16) 6) + 1) % 2 ^ 32 ∧
          logged 0x92 false (w.xto.toNat % 16) (valGet t (cTio (w.xto.toNat % 16) 6)) u t)) ∧
  (∀ s : State, Inv s → ∃ t, exec .stampedOutputApply s = .next t ∧
      (∀ p : Nat, p < 16 → (getPin t p).pend = (getPin s p).pend.filter fun w => !decide (w.at_ ≤ s.now)) ∧
      t.net = { s.net with images := s.net.images.filter fun w => !decide (w.at_ ≤ s.now) } ∧
      sameBut [.net, .pins, .ring, .cat] s t) ∧
  (∀ (p : Fin 16) (s : State) (w : Stamped), Inv s → (∀ q : Nat, q < 16 → q ≠ p.val → (getPin s q).pend = []) →
    (getPin s p).pend = [w] → w.at_ ≤ s.now → w.xto.toNat / 2 ^ 30 ≠ 1 → w.xto.toNat % 16 = p.val → tioMode s p = 1 → s.pins.stop = false →
    w.value.toNat % 4 < 2 →
    ∃ t, exec .stampedOutputApply s = .next t ∧ (getPin t p).pend = [] ∧ (getPin t p).drive = some (w.value.toNat % 4 == 1) ∧
      valGet t (cTio p 9) = s.now) ∧
  (∀ (q : Fin 17) (rising : Bool) (s : State), Inv s → noRestart s →
    (q.val < 16 → tioMode s q = 3 ∧ edgeSelected (valGet s (cTio q 2)) rising = true ∧ tooSoon (getPin s q).lastEdge s.up = false) →
    (q.val = 16 → edgeSelected (valGet s (callNo 0x1510 6)) rising = true ∧ tooSoon s.pins.syncEdge s.up = false) →
    ∃ t, exec (.inputCapture q rising) s = .next t ∧ sameBut [.net, .pins, .cat, .eng, .time] s t ∧
      t.time = (if q.val = 16 then (syncMeasure rising s).time else s.time) ∧
      (∀ k : Nat, k ≠ q.val → getCap t k = getCap s k) ∧
      (if (getCap s q).recs.length < 32 then
          getCap t q = ⟨(getCap s q).recs ++ [(s.now, rising, (getCap s q).seq)], ((getCap s q).seq + 1) % 65536, some s.now⟩
            ∧ raisedAll (12 + q) s t ∧ (q.val < 16 → valGet t (cTio q 8) = (valGet s (cTio q 8) + 1) % 2 ^ 32)
        else getCap t q = { getCap s q with seq := ((getCap s q).seq + 1) % 65536, newest := some s.now } ∧ t.eng = s.eng)) ∧
  (∀ (r : Fin 2) (s : State), freezeInstant s r = some s.now → (∀ w ∈ s.net.images, s.now ≤ w.at_) →
    exec (.outputImageFreeze r) s = .next (setRing r { getRing s r with
      frozen := some ((List.range (valGet s (cRing r 0x0A))).map fun j => kvGet 0#8 (getRing s r).imgOut j) } s)) ∧
  (∀ (r : Fin 2) (s : State), freezeInstant s r ≠ some s.now → exec (.outputImageFreeze r) s = .next s)

/-- From R160, R187, R270, R271, R293: DRAM refresh and the quiet windows. The refresh window of a period starts, after the first mark, at the
earliest instant where it fits, with the commands of the period and the debt carried; a command counts it down, the last one closes it,
and inside a quiet window none is given but the one started before it; with no period marks a command pays the debt, and with the marks
and no open window nothing is refreshed; 600 ns before a quiet window opens transfer units stop issuing until it has closed. -/
def Obligations.RefreshAndQuietWindows : Prop :=
  (∀ s : State, marksOccur s = true → s.time.period = true → s.mem.refDone = false → s.mem.refOpen = false → s.mem.refEnd ≤ s.up →
    kvGet 0 s.power.dom 4 = 0 → refreshFits s ((periodLen s + 12499) / 12500 + valGet s (callNo 0x1900 6)) (inPeriod s) = true →
    (inPeriod s = 0 ∨ s.up = s.mem.refEnd ∨ refreshFits s ((periodLen s + 12499) / 12500 + valGet s (callNo 0x1900 6)) (inPeriod s - 1) = false) →
    valGet s (callNo 0x1900 8) = 1 →
    ∃ t, exec .refreshWindow s = .next t ∧ sameBut [.mem, .cat] s t ∧ valsBut [callNo 0x1900 6] s t ∧ valGet t (callNo 0x1900 6) = 0 ∧
      t.mem = { s.mem with refOpen := true, refDone := true, refStep := false
                           refLeft := (periodLen s + 12499) / 12500 + valGet s (callNo 0x1900 6) }) ∧
  (∀ s : State, marksOccur s = false ∨ s.time.period = false ∨ s.mem.refDone = true ∨ s.mem.refOpen = true ∨ s.up < s.mem.refEnd ∨
      kvGet 0 s.power.dom 4 ≠ 0 ∨ refreshFits s ((periodLen s + 12499) / 12500 + valGet s (callNo 0x1900 6)) (inPeriod s) = false →
    exec .refreshWindow s = .next s) ∧
  (∀ s : State, s.mem.refOpen = true → 1 < s.mem.refLeft → (quietNow s = false ∨ s.mem.refStep = true) →
    exec .refreshCommand s = .next { s with mem := { s.mem with refLeft := s.mem.refLeft - 1 } }) ∧
  (∀ s : State, s.mem.refOpen = true → s.mem.refLeft = 1 → (quietNow s = false ∨ s.mem.refStep = true) →
    ∃ t, exec .refreshCommand s = .next t ∧ sameBut [.mem, .cat] s t ∧ valsBut [callNo 0x1900 7] s t ∧
      valGet t (callNo 0x1900 7) = (valGet s (callNo 0x1900 7) + 1) % 2 ^ 32 ∧
      t.mem = { s.mem with refLeft := 0, refOpen := false, refEnd := s.up + 1600 }) ∧
  (∀ s : State, s.mem.refOpen = true → quietNow s = true → s.mem.refStep = false → exec .refreshCommand s = .next s) ∧
  (∀ s : State, s.mem.refOpen = false → marksOccur s = false → kvGet 0 s.power.dom 4 = 0 →
    ∃ t, exec .refreshCommand s = .next t ∧ sameBut [.cat] s t ∧ valsBut [callNo 0x1900 6] s t ∧
      valGet t (callNo 0x1900 6) = valGet s (callNo 0x1900 6) - 1) ∧
  (∀ s : State, s.mem.refOpen = false → (marksOccur s = true ∨ kvGet 0 s.power.dom 4 ≠ 0) → exec .refreshCommand s = .next s) ∧
  (∀ s : State, marksOccur s = true →
    (∃ w ∈ quietWindows s, (w.1 ≤ inPeriod s + 2400 ∧ inPeriod s < w.2) ∨ w.1 + periodLen s ≤ inPeriod s + 2400) →
    exec .quietWindowLead s = .next { s with xfer := { s.xfer with quiet := true } } ∧ exec .quietWindowClose s = .next s) ∧
  (∀ s : State, marksOccur s = false ∨ (∀ w ∈ quietWindows s, (w.2 ≤ inPeriod s ∨ inPeriod s + 2400 < w.1) ∧ inPeriod s + 2400 < w.1 + periodLen s) →
    exec .quietWindowClose s = .next { s with xfer := { s.xfer with quiet := false } } ∧ exec .quietWindowLead s = .next s)

/-- From R20, R21, R173, R237, R238: a period mark. It is noted, with the uptime from which the next is counted, and reported to every tile as
tile.time.mark and to every tile that is on as source 0; a SPLIT that waits for it stops both engines at the next boundary and ends the
pair's checking, and where a bundle of the main copy is held the STOP waits for it; a pair with nothing waiting is left as it is. The
model's choices in it: log row 22. -/
def Obligations.PeriodMarksAreMet : Prop :=
  ∀ (s : State) (m : Fin 128), Inv s → markNow s = true → noRestart s → noJobs s → (∀ j, (getJob s j).st ≠ 3) → s.svc.auto = [] →
    s.ledger.handovers = [] → s.mem.refDone = true → periodPhase s < periodLen s →
    (∀ k : Nat, k ≠ m.val → (getPair s k).cmd = 0 ∧ (getPair s k).mig = none ∧ (getPair s k).subst = false) →
    (getPair s m).cmd = 3 → (getPair s m).cmdAt ≤ s.now → (getPair s m).cmdDue = false → (getPair s m).st = .checked →
    (getPair s m).chain = [] → (getPair s m).mig = none → (getEng s (mainOf m)).st = .running →
    ∃ t, exec .periodMark s = .next t ∧ sameBut [.time, .cat, .log, .host, .eng, .pair, .mem, .xfer] s t ∧
      t.time = { s.time with mark := some s.now, runFrom := s.up, period := true } ∧ t.mem = { s.mem with refDone := false } ∧
      (∀ k : Nat, k < 32 → valGet t (cTile k 0x25) = s.now) ∧
      (∀ c : Nat, c ≠ cPromise → (∀ k : Nat, k < 32 → c ≠ cTile k 0x25) → valGet t c = valGet s c) ∧ pairBut [m.val] s t ∧
      (holdsCommand s (mainOf m) = false →
        getPair t m = { getPair s m with st := .split, cmd := 0, cmdDue := false, chain := [], capDue := false, mig := none, subst := false } ∧
        ∀ n : Nat, n = mainOf m ∨ n = checkerOf m → (getEng t n).st = .halted ∧ (getEng t n).g = (getEng s n).g ∧
          (getEng t n).pos.pc = (getEng s n).pos.pc ∧ (getEng t n).stb = (getEng s n).stb) ∧
      (holdsCommand s (mainOf m) = true →
        t.xfer = s.xfer ∧ getPair t m = { getPair s m with cmdDue := true, subst := false } ∧ (getEng t (mainOf m)).cmd = 2 ∧
        ∀ n : Nat, n = mainOf m ∨ n = checkerOf m → (getEng t n).st = (getEng s n).st ∧ (getEng t n).g = (getEng s n).g ∧
          (getEng t n).pos = (getEng s n).pos ∧ (getEng t n).stb = (getEng s n).stb) ∧
      (∀ n : Nat, n < 256 → n ≠ mainOf m → n ≠ checkerOf m → getEng t n = if tileDom s (tileOf n) ≠ 0 ∨ countsChecked (getPair s (pairOf n)) = true ∧ n % 2 = 1
        then getEng s n else { getEng s n with exc := { (getEng s n).exc with irqpend := (getEng s n).exc.irqpend ||| 1#32 } })

/-- From R149, R249, R250, R259 to R265, R268, R269, R284: what the memories do of themselves. A bank serves one master in a step and the
others count a conflict; a corrected word is written back; a due shelf-read region advances the sweep; a filled spare column takes over
with event 0x42; DRAM is zeroed at initialisation; a channel goes out of service with event 0x41; a locked sequence is broken at its
limit. The model's choices in it: log rows 24, 32. -/
def Obligations.MemoriesLookAfterThemselves : Prop :=
  (∀ (k : Fin 32) (b : Fin 8) (reqs : List (Fin 9)) (s : State), Inv s → kvGet 0 s.mem.rr (8 * k + b) = 8 → 8 ∈ reqs →
    ∃ t, exec (.shelfAccess k b reqs 0) s = .next t ∧ sameBut [.eng, .mem] s t ∧
      t.mem = { s.mem with rr := kvSet 0 s.mem.rr (8 * k + b) 0 } ∧
      (∀ n : Nat, (∀ e ∈ reqs, e.val = 8 ∨ n ≠ 8 * k.val + e.val) → getEng t n = getEng s n) ∧
      (∀ e ∈ reqs, e.val < 8 → getEng t (8 * k + e) = { getEng s (8 * k + e) with
        ctr := { (getEng s (8 * k + e)).ctr with conflicts := ((getEng s (8 * k + e)).ctr.conflicts + 1) % 2 ^ 32 } })) ∧
  (∀ (b : Fin 256) (s : State) (w : Nat) (l : List Nat), s.mem.wback = w :: l → wordBank w = b → w ∉ l →
    ∃ t, exec (.eccWriteback b) s = .next t ∧ sameBut [.mem] s t ∧ t.mem.bytes = s.mem.bytes ∧ t.mem.wback = l ∧
      t.mem = { s.mem with wback := l, one := t.mem.one, bad := t.mem.bad } ∧ (∀ x : Nat, x ≠ w → kvGet 0 t.mem.one x = kvGet 0 s.mem.one x) ∧
      (kvWf 0 s.mem.one = true → kvGet 0 t.mem.one w = 0)) ∧
  (∀ (b : Fin 256) (s : State), valGet s (callNo 0x1910 1) = 1 → kvGet 0 s.mem.swept b < 1024 → s.now = regionDue s (kvGet 0 s.mem.swept b) →
    sweepDone s < 1024 → bankReady s b = 0 →
    (∀ w : Nat, w / 8 = (paShelf + 0x10000 * b) / 64 + kvGet 0 s.mem.swept b → kvGet 0 s.mem.one w = 0 ∧ w ∉ s.mem.bad ∧ w ∉ s.mem.wback) →
    kvWf 0 s.mem.one = true →
    ∃ t, exec (.shelfReadRegion b []) s = .next t ∧ sameBut [.mem, .cat] s t ∧ valsBut [callNo 0x1910 3, callNo 0x1910 4] s t ∧
      t.mem = { s.mem with swept := kvSet 0 s.mem.swept b (kvGet 0 s.mem.swept b + 1) } ∧
      valGet t (callNo 0x1910 4) = 16384 * sweepDone t ∧ valGet t (callNo 0x1910 3) = 10000 * (16384 * sweepDone t) / 16777216) ∧
  (∀ (b : Fin 256) (c : Nat) (s : State), Inv s → (b.val, c) ∈ s.mem.fills →
    ∃ t, exec (.columnRepairSwap b c) s = .next t ∧ sameBut [.mem, .cat, .boot, .arch, .log, .host] s t ∧ logged 0x42 false b c s t ∧
      t.mem.fills = s.mem.fills.erase (b.val, c) ∧ t.mem.cols = s.mem.cols ++ [(b.val, c, false)] ∧ t.mem.bytes = s.mem.bytes ∧
      t.mem.bad = s.mem.bad ∧ t.boot = { s.boot with repairList := s.boot.repairList ++ [(b.val, c)] } ∧
      valGet t (callNo 0x1910 6) = (valGet s (callNo 0x1910 6) + 1) % 2 ^ 32 ∧
      valGet t (cTile (b / 8) 0x48) = (if (valGet s (cTile (b / 8) 0x48)).testBit (b % 8) then valGet s (cTile (b / 8) 0x48)
        else valGet s (cTile (b / 8) 0x48) + 2 ^ (b.val % 8))) ∧
  (∀ s : State, s.boot.steps.testBit 0 = true → valGet s cDramInit = 0 → s.ledger.waits = [] →
    ∃ t, exec .dramInitComplete s = .next t ∧ sameBut [.mem, .cat] s t ∧ valsBut [cDramInit] s t ∧ valGet t cDramInit = 1 ∧
      t.mem = { s.mem with bytes := t.mem.bytes, bad := t.mem.bad, one := t.mem.one, refEnd := max s.mem.refEnd s.up } ∧
      (∀ a : Nat, kvGet 0#8 t.mem.bytes a = if a < paShelf then 0#8 else kvGet 0#8 s.mem.bytes a)) ∧
  (∀ (c : Fin 8) (s : State), (valGet s (callNo 0x1900 1)).testBit c = true → s.ledger.waits = [] →
    (∀ i ∈ s.ledger.items, itemOpen i = true → copyGone c i.copyA = false ∧ copyGone c i.copyB = false) →
    ∃ t, exec (.dramChannelOut c true) s = .next t ∧ sameBut [.cat, .log, .host] s t ∧ (valGet t (callNo 0x1900 1)).testBit c = false ∧
      promiseBit t 2 = false ∧ t.log.count = (s.log.count + 2) % 2 ^ 32 ∧ t.log.newest = (s.log.newest + 2) % 64) ∧
  (∀ (x : LockTarget) (s : State) (n : Nat) (at_ : Nat), s.xfer.locks.find? (fun l => l.1 == lockNo x) = some (lockNo x, n, at_) →
    at_ + 4 * valGet s (callNo 0x1920 6) ≤ s.up → s.ledger.waits = [] →
    ∃ t, exec (.lockLimitExpiry x) s = .next t ∧ sameBut [.xfer, .cat] s t ∧ valsBut [callNo 0x1920 7] s t ∧
      valGet t (callNo 0x1920 7) = (valGet s (callNo 0x1920 7) + 1) % 2 ^ 32 ∧ (∀ l ∈ t.xfer.locks, l.1 ≠ lockNo x) ∧
      (∀ l ∈ s.xfer.locks, l.1 ≠ lockNo x → l ∈ t.xfer.locks) ∧ n ∈ t.xfer.broken ∧ (∀ k ∈ s.xfer.broken, k ∈ t.xfer.broken) ∧
      t.xfer = { s.xfer with locks := t.xfer.locks, broken := t.xfer.broken })

/-- From R243, R255 to R258: wipes and the tile's own settings. A trigger wipes the slots and logs of every pair and wakes each bank 7; while
the wipe runs every bank 7 takes zeros; its end zeroes them and is journaled and logged; a change of tile.stacks.enable wipes the stacks
of its tile; tile.remap is written once. The model's choices in it: log row 25. -/
def Obligations.WipesLeaveZeros : Prop :=
  (∀ (cause : Fin 4) (s : State), Inv s → s.mem.wipe = none → (∀ m : Nat, inReplay (getPair s m) = false) →
    ∃ t, exec (.bank7Wipe cause) s = .next t ∧ sameBut [.mem, .pair, .eng] s t ∧ t.mem = { s.mem with wipe := some (cause.val + 1), bank := t.mem.bank } ∧
      (∀ m : Nat, m < 128 → getPair t m = { getPair s m with valid := false, logN := 0, void := [], dues := [], rlog := [] }) ∧
      (∀ n : Nat, n < 256 → getEng t n = { getEng s n with ldq := (getEng s n).ldq.map fun l => { l with logged := none } }) ∧
      (∀ k : Nat, k < 32 → kvGet 0 t.mem.bank (8 * k + 7) = if kvGet 0 s.mem.bank (8 * k + 7) = 1 then 3 else kvGet 0 s.mem.bank (8 * k + 7))) ∧
  (∀ (cause : Fin 4) (s : State) (w : Nat), s.mem.wipe = some w →
    ∃ t, exec (.bank7Wipe cause) s = .next t ∧ sameBut [.mem] s t ∧ t.mem.wipe = some w ∧
      (∀ k off : Nat, k < 32 → off < 0x10000 → kvGet 0#8 t.mem.bytes (paShelf + 0x80000 * k + 0x70000 + off) = 0#8) ∧
      (∀ a : Nat, (∀ k : Nat, k < 32 → a < paShelf + 0x80000 * k + 0x70000 ∨ paShelf + 0x80000 * (k + 1) ≤ a) →
        kvGet 0#8 t.mem.bytes a = kvGet 0#8 s.mem.bytes a)) ∧
  (∀ (s : State) (w : Nat), Inv s → s.mem.wipe = some w → (∀ n l, nextLoad s n = some l → l.logged = none) →
    (∀ n x pa, (storesOf (getEng s n)).head? = some x → x.released = true → x.place = .phys pa →
      (∀ p ∈ accParts pa (2 ^ x.width), inBank7 (.phys p.1) = true) ∨ ∀ p ∈ accParts pa (2 ^ x.width), inBank7 (.phys p.1) = false) →
    ∃ t, exec .wipeComplete s = .next t ∧ sameBut [.mem, .eng, .xfer, .tap, .cat, .arch, .log, .host] s t ∧ t.mem.wipe = none ∧
      logged 0x44 false 0 w s t ∧
      (∀ k off : Nat, k < 32 → off < 0x10000 → kvGet 0#8 t.mem.bytes (paShelf + 0x80000 * k + 0x70000 + off) = 0#8) ∧
      (∀ a : Nat, (∀ k : Nat, k < 32 → a < paShelf + 0x80000 * k + 0x70000 ∨ paShelf + 0x80000 * (k + 1) ≤ a) →
        kvGet 0#8 t.mem.bytes a = kvGet 0#8 s.mem.bytes a) ∧
      valGet t (callNo 0x1911 1) = (valGet s (callNo 0x1911 1) + 1) % 2 ^ 32 ∧ valGet t (callNo 0x1911 2) = s.now ∧
      valGet t (callNo 0x1911 3) = w ∧
      (∀ n x pa, n < 256 → (storesOf (getEng s n)).head? = some x → x.released = true → x.place = .phys pa →
        storesOf (getEng t n) = if (accParts pa (2 ^ x.width)).all (fun p => inBank7 (.phys p.1)) then (storesOf (getEng s n)).tail else storesOf (getEng s n)) ∧
      (∀ n l, n < 256 → nextLoad s n = some l → inReplay (getPair s (pairOf n)) = false →
        (getEng t n).ldq = if inBank7 l.place then putLoad (loadDone l 0 0) (getEng s n).ldq else (getEng s n).ldq) ∧
      (∀ c : Nat, c < 64 → ∀ x ∈ (getChan t c).flight, ∀ a, x.dst = some a → inBank7 (.phys a) = false) ∧
      (s.tap.want = none → t.tap = s.tap) ∧
      (∀ wr pa v, s.tap.want = some (wr, pa, v) → t.tap = if inBank7 (.phys pa) then
        { s.tap with want := none, status := 0, data := if wr then v else 0 } else s.tap)) ∧
  (∀ (r : Route) (k : Fin 32) (v : Byte) (s : State), serves s r (cTile k 0x41) → v.toNat ≤ 1 → v.toNat ≠ valGet s (cTile k 0x41) →
    archiveLow s = false → unitRuns s (cTile k 0x41) = false →
    ∃ t, exec (.tileStacksEnable r k v) s = .next t ∧ sameBut [.mem, .cat, .arch] s t ∧ answered r (cTile k 0x41) t ∧
      valsBut [cTile k 0x41] s t ∧ valGet t (cTile k 0x41) = v.toNat ∧
      (∀ a : Nat, kvGet 0#8 t.mem.bytes a = if paShelf + 0x80000 * k + 0x70000 ≤ a ∧ a < paShelf + 0x80000 * k + 0x74000 then 0#8
        else kvGet 0#8 s.mem.bytes a)) ∧
  (∀ (r : Route) (k : Fin 32) (v : Byte) (s : State), serves s r (cTile k 0x40) → v.toNat ≤ 1 → valGet s (cTile k 0x40) ≤ v.toNat →
    ∃ t, exec (.tileRemap r k v) s = .next t ∧ sameBut [.cat] s t ∧ answered r (cTile k 0x40) t ∧
      valsBut [cTile k 0x40] s t ∧ valGet t (cTile k 0x40) = v.toNat)

/-- From R289, R290, R291, R292, R294, R296, R297: transfer channels. A start is checked and takes the count and the addresses, or ends in
ERROR with the first condition that fails; a stop waits for what is in flight; a unit issues for its next channel, a write where data
waits for one, which advances the destination, else a read, which advances the source; the data of a read is held swapped, a write
performed counts down, and a unit that is dropped leaves its channels DROPPED until it is enabled again. The model's choices in it: log
rows 24, 27. -/
def Obligations.TransferChannels : Prop :=
  (∀ (r : Route) (c : Fin 64) (ctl : BitVec 32) (s : State), Inv s → serves s r (cXf c 4) → ctl.toNat < 2 ^ 20 → chanBusy (getChan s c) = false →
    valGet s (callNo (0x1930 + c.val / 16) 1) = 0 → awake s (.dev (Fin.ofNat 10 (5 + c.val / 16))) →
    ∃ t, exec (.xfStart r c ctl) s = .next t ∧ sameBut [.xfer, .cat] s t ∧ chanBut [c.val] s t ∧ answered r (cXf c 4) t ∧
      valGet t (cXf c 4) = ctl.toNat / 2 * 2 ∧
      getChan t c = { getChan s c with
        done := false, err := xfCheck { t with xfer := s.xfer } c, rem := xfCount s c, src0 := (getChan s c).src, dst0 := (getChan s c).dst
        claim := 0, flight := [], issued := 0
        st := if xfCheck { t with xfer := s.xfer } c ≠ 0 then 5 else if ctl.toNat.testBit 1 then 2 else 1 } ∧
      valGet t (callNo (0x1930 + c.val / 16) 3) = (if xfCheck { t with xfer := s.xfer } c ≠ 0
        then (valGet s (callNo (0x1930 + c.val / 16) 3) + 1) % 2 ^ 32 else valGet s (callNo (0x1930 + c.val / 16) 3))) ∧
  (∀ (r : Route) (c : Fin 64) (ctl : BitVec 32) (s : State), Inv s → serves s r (cXf c 4) → ctl.toNat < 2 ^ 20 →
    (getChan s c).st = 1 ∨ (getChan s c).st = 2 → (getChan s c).err = 0 → (getChan s c).flight ≠ [] ∨ xfCount s c = 0 ∨ (getChan s c).rem ≠ 0 →
    valGet s (cXf c 4) = ctl.toNat / 2 * 2 →
    ∃ t, exec (.xfStop r c ctl) s = .next t ∧ sameBut [.xfer, .cat] s t ∧ answeredOnly r (cXf c 4) s t ∧ chanBut [c.val] s t ∧
      getChan t c = { getChan s c with
        st := if (getChan s c).flight = [] ∧ (getChan s c).claim = 0 then 0 else 4
        done := if (getChan s c).flight = [] ∧ (getChan s c).claim = 0 then false else (getChan s c).done }) ∧
  (∀ (u : Fin 4) (s : State), Inv s → domGet s (.dev (Fin.ofNat 10 (5 + u.val))) = 0 → xfQuiet s = false →
    (∀ i : Nat, i < 16 → 0 < i → (getChan s (16 * u + i)).st = 0) → kvGet 0 s.xfer.rr u = 0 → (getChan s (16 * u)).st = 1 →
    xfPaced s (16 * u) = false → (getChan s (16 * u)).err = 0 → (getChan s (16 * u)).flight.length < 64 → (getChan s (16 * u)).claim = 0 →
    (∀ f ∈ (getChan s (16 * u)).flight, f.data ≠ none → f.dst ≠ none) →
    xfCount s (16 * u) = 0 ∨ (getChan s (16 * u)).issued < xfCount s (16 * u) →
    ∃ t, exec (.xfTransactionIssue u) s = .next t ∧ sameBut [.xfer, .cat] s t ∧ valsBut [callNo 0x1920 4] s t ∧
      (∀ k : Nat, k ≠ 16 * u.val → getChan t k = getChan s k) ∧ kvGet 0 t.xfer.rr u = 1 ∧
      getChan t (16 * u) = { getChan s (16 * u) with
        flight := (getChan s (16 * u)).flight ++ [⟨(getChan s (16 * u)).src, none, none⟩]
        src := xfAdvance (xfSmode s (16 * u)) (bits (xfCtl s (16 * u)) 8 5) (xfEntry s (16 * u)) (getChan s (16 * u)).src0 (getChan s (16 * u)).src (xfSize s (16 * u))
        issued := (getChan s (16 * u)).issued + xfSize s (16 * u) }) ∧
  (∀ (u : Fin 4) (s : State) (l : List XfTxn) (f : XfTxn) (l' : List XfTxn), Inv s → domGet s (.dev (Fin.ofNat 10 (5 + u.val))) = 0 →
    xfQuiet s = false → (∀ i : Nat, i < 16 → 0 < i → (getChan s (16 * u + i)).st = 0) → kvGet 0 s.xfer.rr u = 0 → (getChan s (16 * u)).st = 1 →
    xfPaced s (16 * u) = false → (getChan s (16 * u)).err = 0 → (getChan s (16 * u)).flight = l ++ f :: l' → (∀ x ∈ l, x.dst ≠ none) →
    f.data ≠ none → f.dst = none →
    ∃ t, exec (.xfTransactionIssue u) s = .next t ∧ sameBut [.xfer, .cat] s t ∧ valsBut [callNo 0x1920 4] s t ∧
      (∀ k : Nat, k ≠ 16 * u.val → getChan t k = getChan s k) ∧ kvGet 0 t.xfer.rr u = 1 ∧
      getChan t (16 * u) = { getChan s (16 * u) with
        flight := l ++ { f with dst := some (getChan s (16 * u)).dst } :: l'
        dst := xfAdvance (xfDmode s (16 * u)) (bits (xfCtl s (16 * u)) 13 5) (xfEntry s (16 * u)) (getChan s (16 * u)).dst0 (getChan s (16 * u)).dst (xfSize s (16 * u)) }) ∧
  (∀ (u : Fin 4) (s : State), xfQuiet s = true → exec (.xfTransactionIssue u) s = .next s) ∧
  (∀ (c : Fin 64) (s : State) (l : List XfTxn) (f : XfTxn) (l' : List XfTxn), Inv s → (getChan s c).flight = l ++ f :: l' → (∀ x ∈ l, x.data ≠ none) →
    f.data = none → (getChan s c).err = 0 →
    inMemory f.src → xfBlocked s f.src (xfSize s c) = false → physCode s false 256 f.src (xfSize s c) = 0 →
    readyNow s f.src (xfSize s c) → cleanWords s f.src (xfSize s c) →
    ∃ t, exec (.xfTransactionDone c false 0) s = .next t ∧ sameBut [.xfer] s t ∧ chanBut [c.val] s t ∧
      getChan t c = { getChan s c with
        flight := l ++ { f with data := some (swapData (bits (xfCtl s c) 18 2) (xfSize s c) (memRead s f.src (xfSize s c))) } :: l' }) ∧
  (∀ (c : Fin 64) (s : State) (f : XfTxn) (l : List XfTxn) (v a : Nat), Inv s → (getChan s c).flight = f :: l → f.data = some v → f.dst = some a →
    (getChan s c).err = 0 → (getChan s c).st = 1 → l ≠ [] ∨ xfCount s c = 0 ∨ xfSize s c < (getChan s c).rem →
    inMemory a → xfBlocked s a (xfSize s c) = false → physCode s true 256 a (xfSize s c) = 0 →
    readyNow s a (xfSize s c) → cleanWords s a (xfSize s c) →
    ∃ t, exec (.xfTransactionDone c true 0) s = .next t ∧ sameBut [.xfer, .mem, .cat] s t ∧ chanBut [c.val] s t ∧
      bytesBut a (xfSize s c) s t ∧
      (∀ i : Nat, i < xfSize s c → kvGet 0#8 t.mem.bytes (a + i) = BitVec.ofNat 8 (v / 256 ^ i)) ∧
      valGet t (callNo (0x1930 + c.val / 16) 2) = (valGet s (callNo (0x1930 + c.val / 16) 2) + xfSize s c) % 2 ^ 64 ∧
      getChan t c = { getChan s c with flight := l, rem := remAfter (xfCount s c) (getChan s c).rem (xfSize s c) }) ∧
  (∀ (r : Route) (u : Fin 4) (s : State), Inv s → serves s r (callNo (0x1930 + u.val) 1) → (∀ i : Nat, i < 16 → (getChan s (16 * u + i)).flight = []) →
    ∃ t, exec (.xfuDisable r u) s = .next t ∧ sameBut [.xfer, .cat, .drawn] s t ∧ answered r (callNo (0x1930 + u.val) 1) t ∧
      valGet t (callNo (0x1930 + u.val) 1) = 1 ∧
      (∀ i : Nat, i < 16 → if (getChan s (16 * u + i)).done = true then getChan t (16 * u + i) = getChan s (16 * u + i)
        else (getChan t (16 * u + i)).st = 6 ∧ (getChan t (16 * u + i)).err = 0 ∧ (getChan t (16 * u + i)).flight = []) ∧
      (∀ k : Nat, k < 16 * u.val ∨ 16 * u.val + 16 ≤ k → getChan t k = getChan s k)) ∧
  (∀ (r : Route) (u : Fin 4) (s : State), Inv s → serves s r (callNo (0x1930 + u.val) 1) → valGet s (callNo (0x1930 + u.val) 1) = 1 →
    ∃ t, exec (.xfuReenable r u) s = .next t ∧ sameBut [.xfer, .cat] s t ∧ answered r (callNo (0x1930 + u.val) 1) t ∧
      valGet t (callNo (0x1930 + u.val) 1) = 0 ∧
      (∀ i : Nat, i < 16 → getChan t (16 * u + i) = if (getChan s (16 * u + i)).st = 6 then { getChan s (16 * u + i) with st := 0 } else getChan s (16 * u + i)) ∧
      (∀ k : Nat, k < 16 * u.val ∨ 16 * u.val + 16 ≤ k → getChan t k = getChan s k))

/-- From R301, R302, R303, R305, R312, R482: submissions. A submission from the stream's own source with a tag that is the expected one, or
the first, is taken: its item is held with the next accession number and the expected tag advances. On a stopped stream one whose tag lies
in the lost range is taken with the number it had, any other is answered STOPPED. A tag of an item past its acceptance is answered
DUPLICATE with its number; any other tag is answered STALE or GAP with the expected tag. The model's choices in it: log rows 28, 30. -/
def Obligations.SubmissionsAreJudged : Prop :=
  (∀ (x : Submission) (src id slot : Nat) (b : List Byte) (s : State), submits s x src id slot b →
    (∀ i ∈ s.ledger.items, i.stream = fieldAt b 0 1 → i.tag ≠ fieldAt b 4 4) →
    (∀ y ∈ (getStream s (fieldAt b 0 1)).tags, y.1 ≠ fieldAt b 4 4) → (getStream s (fieldAt b 0 1)).lost = [] →
    (getStream s (fieldAt b 0 1)).n.getD (fieldAt b 4 4) = fieldAt b 4 4 → inflightAll s < 65536 → Inv s →
    (streamRec s (fieldAt b 0 1)).maxin = 0 ∨ inflightOn s (fieldAt b 0 1) < (streamRec s (fieldAt b 0 1)).maxin →
    ∃ t, exec (.ledgerSubmit x) s = .next t ∧ sameBut [.ledger, .arch] s t ∧
      t.ledger = { s.ledger with items := t.ledger.items, streams := t.ledger.streams } ∧
      t.ledger.items = s.ledger.items ++ [takenItem b (getStream s (fieldAt b 0 1)).next slot false] ∧
      (getStream t (fieldAt b 0 1)).n = some ((fieldAt b 4 4 + 1) % 2 ^ 32) ∧
      (getStream t (fieldAt b 0 1)).next = (getStream s (fieldAt b 0 1)).next + 1 ∧
      (∀ j : Nat, j ≠ fieldAt b 0 1 → getStream t j = getStream s j)) ∧
  (∀ (x : Submission) (src id slot : Nat) (b : List Byte) (s : State) (l : Nat × Nat × Nat), submits s x src id slot b →
    (∀ i ∈ s.ledger.items, i.stream = fieldAt b 0 1 → i.tag ≠ fieldAt b 4 4) →
    (∀ y ∈ (getStream s (fieldAt b 0 1)).tags, y.1 ≠ fieldAt b 4 4) → l ∈ (getStream s (fieldAt b 0 1)).lost → l.2.1 = fieldAt b 4 4 →
    (∀ y ∈ (getStream s (fieldAt b 0 1)).lost, y.2.1 = l.2.1 → y = l) →
    ∃ t, exec (.ledgerSubmit x) s = .next t ∧ sameBut [.ledger, .arch] s t ∧
      t.ledger = { s.ledger with items := s.ledger.items ++ [takenItem b l.1 slot true] }) ∧
  (∀ (x : Submission) (src id slot : Nat) (b : List Byte) (s : State), submits s x src id slot b →
    (∀ i ∈ s.ledger.items, i.stream = fieldAt b 0 1 → i.tag ≠ fieldAt b 4 4) →
    (∀ y ∈ (getStream s (fieldAt b 0 1)).tags, y.1 ≠ fieldAt b 4 4) → (getStream s (fieldAt b 0 1)).lost ≠ [] →
    (∀ y ∈ (getStream s (fieldAt b 0 1)).lost, y.2.1 ≠ fieldAt b 4 4) →
    exec (.ledgerSubmit x) s = .next (sendStream (fieldAt b 0 1) slot 0x11 16 (ackBytes (fieldAt b 0 1) 0x12 (fieldAt b 4 4) 0) s)) ∧
  (∀ (x : Submission) (src id slot : Nat) (b : List Byte) (s : State) (i : LItem), submits s x src id slot b →
    i ∈ s.ledger.items → i.stream = fieldAt b 0 1 → i.tag = fieldAt b 4 4 → i.st ≠ .held →
    (∀ j ∈ s.ledger.items, j.stream = i.stream → j.tag = i.tag → j = i) →
    exec (.ledgerSubmit x) s = .next (sendStream i.stream slot 0x11 16 (ackBytes i.stream 0x01 i.tag i.acc) (bump (callNo 0x1400 9) 1 32 s))) ∧
  (∀ (x : Submission) (src id slot : Nat) (b : List Byte) (s : State) (n : Nat), submits s x src id slot b →
    (∀ i ∈ s.ledger.items, i.stream = fieldAt b 0 1 → i.tag ≠ fieldAt b 4 4) →
    (∀ y ∈ (getStream s (fieldAt b 0 1)).tags, y.1 ≠ fieldAt b 4 4) → (getStream s (fieldAt b 0 1)).lost = [] →
    (getStream s (fieldAt b 0 1)).n = some n → n < 2 ^ 32 → n ≠ fieldAt b 4 4 →
    exec (.ledgerSubmit x) s = .next (sendStream (fieldAt b 0 1) slot 0x11 16
      (ackBytes (fieldAt b 0 1) (if (fieldAt b 4 4 + 2 ^ 32 - n) % 2 ^ 32 < 2 ^ 31 then 0x10 else 0x02) n 0) s))

/-- From R26, R304, R305, R308, R309, R310, R482: acceptance, dispatch and completion. The held item of a stream with the lowest number is
acknowledged and accepted once its mirror copies can be written and, where it is durable, its ACCEPT record is durable; a durable one
stays held while DURABLE is clear. The next item of a stream is written to its slot and its consumer is interrupted. The consumer's
ledger.done takes the result of a LIVE slot and clears its LIVE bit; a write for no LIVE slot, or of another than the consumer, is
discarded and counted. The model's choices in it: log rows 28, 29. -/
def Obligations.ItemsAreAcceptedDispatchedAndDone : Prop :=
  (∀ (k : Fin 256) (s : State) (i : LItem), s.ledger.ready = true → s.ledger.waits = [] → i ∈ s.ledger.items → i.stream = k → i.st = .held →
    (∀ j ∈ s.ledger.items, j.stream = k → j.st = .held → j ≠ i → i.acc < j.acc) → mirrorReady s = true → sourceRoom s k i.slot = true →
    numberCovered s k i.acc = true → i.restored = false → (i.durable = true → promiseBit s 1 = true ∧ durableRec s 0x03 i = true) →
    exec (.acknowledge k) s = .next (sendStream k i.slot 0x11 16 (ackBytes k 0x00 i.tag i.acc) (putItem (mirrorItem s { i with st := .accepted }) s))) ∧
  (∀ (k : Fin 256) (s : State) (i : LItem), s.ledger.ready = true → s.ledger.waits = [] → i ∈ s.ledger.items → i.stream = k → i.st = .held →
    (∀ j ∈ s.ledger.items, j.stream = k → j.st = .held → j ≠ i → i.acc < j.acc) → mirrorReady s = true → sourceRoom s k i.slot = true →
    numberCovered s k i.acc = true → i.durable = true →
    (promiseBit s 1 = false → exec (.acknowledge k) s = .next s) ∧
    (promiseBit s 1 = true → recorded s 0x03 i = false → exec (.acknowledge k) s = .next (journalItem 0x03 i s))) ∧
  (∀ (k : Fin 256) (s : State) (i : LItem), (getStream s k).lost = [] → i ∈ s.ledger.items → i.stream = k → i.st = .accepted → s.ledger.waits = [] →
    (∀ j ∈ s.ledger.items, j.stream = k → j.acc < i.acc → j.st = .dispatched ∨ j.st = .done ∨ j.st = .reported) →
    (∀ j ∈ s.ledger.items, j.stream = k → j.acc = i.acc → j = i) →
    (∀ j ∈ s.ledger.items, j.stream = k → j.st = .dispatched → j.acc % 2 ^ (streamRec s k).dlog ≠ i.acc % 2 ^ (streamRec s k).dlog) →
    (i.durable = true → durableRec s 0x04 i = true) → ledgerReady s (dispatchAddr s i) = 0 → Inv s →
    ∃ t, exec (.dispatch k) s = .next t ∧ sameBut [.ledger, .mem, .eng, .pair, .drawn] s t ∧
      t.ledger = { s.ledger with items := s.ledger.items.map fun j => if j = i then mirrorItem s { i with st := .dispatched } else j } ∧
      bytesBut (dispatchAddr s i) 256 s t ∧
      (∀ n : Nat, n < 24 → kvGet 0#8 t.mem.bytes (dispatchAddr s i + n) = (headerBytes i ++ leBytes 6 i.acc ++ [slotFlags i true, 0#8]).getD n 0#8) ∧
      (∀ n : Nat, n < 208 → kvGet 0#8 t.mem.bytes (dispatchAddr s i + 32 + n) = (bytesAt i.payload 0 208).getD n 0#8) ∧
      (pairSplit (getPair s (streamRec s k).consumer) = true → (getPair s (streamRec s k).consumer).phase = .none →
        (getEng t (mainOf (streamRec s k).consumer)).exc.irqpend.getLsbD 7 = true)) ∧
  (∀ (k : Fin 256) (s : State) (i : LItem), (getStream s k).lost = [] → i ∈ s.ledger.items → i.stream = k → i.st = .accepted → s.ledger.waits = [] →
    (∀ j ∈ s.ledger.items, j.stream = k → j.acc < i.acc → j.st = .dispatched ∨ j.st = .done ∨ j.st = .reported) →
    (∀ j ∈ s.ledger.items, j.stream = k → j.acc = i.acc → j = i) →
    (∀ j ∈ s.ledger.items, j.stream = k → j.st = .dispatched → j.acc % 2 ^ (streamRec s k).dlog ≠ i.acc % 2 ^ (streamRec s k).dlog) →
    i.durable = true → recorded s 0x04 i = false → exec (.dispatch k) s = .next (journalItem 0x04 i s)) ∧
  (∀ (r : Route) (v : Word) (s : State) (i : LItem), serves s r (callNo 0x1400 4) → s.ledger.waits = [] → i ∈ s.ledger.items →
    i.st = .dispatched → i.stream = v.toNat % 256 → i.acc % 2 ^ 24 = v.toNat / 256 % 2 ^ 24 →
    (∀ j ∈ s.ledger.items, j.stream = i.stream → j.st = .dispatched → j.acc % 2 ^ 24 = i.acc % 2 ^ 24 → j = i) →
    (streamRec s i.stream).src ≠ 0 → (streamRec s i.stream).consumer = (if routeWho r < 256 then pairOf (routeWho r) else 255) →
    ledgerReady s (dispatchAddr s i) = 0 → cleanWords s (dispatchAddr s i + 24) 8 →
    ∃ j : LItem, j = { i with st := .done, rstatus := BitVec.ofNat 32 (memRead s (dispatchAddr s i + 24) 4)
                              rvalue := BitVec.ofNat 32 (memRead s (dispatchAddr s i + 28) 4) } ∧
      exec (.ledgerDone r v) s = .next (replied r (callNo 0x1400 4) (if i.durable = true
        then journalItem 0x05 j (slotWrite (dispatchAddr s i + 22) [slotFlags i false] (putItem (mirrorItem s j) s))
        else slotWrite (dispatchAddr s i + 22) [slotFlags i false] (putItem (mirrorItem s j) s)))) ∧
  (∀ (r : Route) (v : Word) (s : State), serves s r (callNo 0x1400 4) →
    (∀ j ∈ s.ledger.items, j.st = .dispatched → j.stream = v.toNat % 256 → j.acc % 2 ^ 24 = v.toNat / 256 % 2 ^ 24 →
      (streamRec s j.stream).src = 0 ∨ (streamRec s j.stream).consumer ≠ (if routeWho r < 256 then pairOf (routeWho r) else 255)) →
    exec (.ledgerDone r v) s = .next (replied r (callNo 0x1400 4) (bump (callNo 0x1400 5) 1 32 s)))

/-- From R305, R307, R311, R377, R393: reports. The done item before which every item of its stream has been reported is reported: into its
slot for a pair, else with an acknowledgement to come, a durable one once its DONE record is durable. The acknowledgement of the stream's
own source ends a volatile item and joins its tag to the last 1,024, and journals that a durable one was reported; another source's
changes nothing; without one the report leaves again when it falls due. The model's choices in it: log row 28. -/
def Obligations.ReportsLeaveInOrder : Prop :=
  (∀ (k : Fin 256) (s : State) (i : LItem), i ∈ s.ledger.items → i.stream = k → i.st = .done → i.sent = none → s.ledger.waits = [] →
    (∀ j ∈ s.ledger.items, j.stream = k → j.st ≠ .reported → j ≠ i → i.acc < j.acc) → (∀ l ∈ (getStream s k).lost, i.acc < l.1) →
    sourceRoom s k i.slot = true → (i.durable = true → durableRec s 0x05 i = true) →
    exec (.report k) s = .next (if (streamRec s k).src = 4
      then itemReported i (sendStream k i.slot 0x12 32 (leBytes 4 i.rstatus.toNat ++ leBytes 4 i.rvalue.toNat) s)
      else sendStream k 0 0x12 0 (ackBytes k 0x00 i.tag i.acc ++ leBytes 4 i.rstatus.toNat ++ leBytes 4 i.rvalue.toNat)
        (putItem { i with sent := some (retryDue s k) } s))) ∧
  (∀ (x : Origin) (k : Fin 256) (acc : BitVec 48) (s : State) (i : LItem), (streamRec s k).src = originSrc x → (streamRec s k).srcid = originId x →
    i ∈ s.ledger.items → i.stream = k → i.acc = acc.toNat → i.st = .done → i.sent ≠ none →
    (∀ j ∈ s.ledger.items, j.stream = k → j.acc = i.acc → j = i) → Inv s →
    ∃ t, exec (.reportAck x k acc) s = .next t ∧ sameBut [.ledger, .arch] s t ∧
      t.ledger = { s.ledger with items := t.ledger.items, streams := t.ledger.streams } ∧
      (i.durable = false → t.arch = s.arch ∧ t.ledger.items = s.ledger.items.filter fun j => decide (j ≠ i)) ∧
      (i.durable = true → t.arch = (journalItem 0x06 i s).arch ∧
        t.ledger.items = s.ledger.items.map fun j => if j = i then mirrorItem s { i with st := .reported, sent := none } else j) ∧
      getStream t k = { getStream s k with tags := ((i.tag, i.acc) :: (getStream s k).tags).take 1024 } ∧
      (∀ j : Nat, j ≠ k.val → getStream t j = getStream s j)) ∧
  (∀ (x : Origin) (k : Fin 256) (acc : BitVec 48) (s : State), (streamRec s k).src ≠ originSrc x ∨ (streamRec s k).srcid ≠ originId x ∨
    (∀ j ∈ s.ledger.items, j.stream = k → j.acc = acc.toNat → j.st ≠ .done ∨ j.sent = none) →
    exec (.reportAck x k acc) s = .next s) ∧
  (∀ (k : Fin 256) (s : State) (i : LItem) (due : Nat), i ∈ s.ledger.items → i.stream = k → i.st = .done → i.sent = some due →
    (∀ j ∈ s.ledger.items, j.stream = k → j.st ≠ .reported → j ≠ i → i.acc < j.acc) → (∀ l ∈ (getStream s k).lost, i.acc < l.1) →
    ((streamRec s k).src = 1 ∧ due ≤ (getRing s 0).cycle ∧ ringCycle s 0 ≠ 0) ∨ ((streamRec s k).src = 2 ∧ due ≤ (getRing s 1).cycle ∧ ringCycle s 1 ≠ 0) ∨
      ((streamRec s k).src = 3 ∧ due ≤ s.up ∧ s.host.queue.length < 32) →
    exec (.reportRetryExpiry k) s = .next (sendStream k 0 0x12 0 (ackBytes k 0x00 i.tag i.acc ++ leBytes 4 i.rstatus.toNat ++ leBytes 4 i.rvalue.toNat)
      (putItem { i with sent := some (retryDue s k) } s)))

/-- From R29, R301, R305, R306, R308, R312, R315: lost items and the stream commands. A volatile item whose copies are lost joins the lost
range, WORK lapses and event 0x30 names the range; a durable one is written anew. RELEASE ends the range of a stopped stream; RESETSTREAM
sets the expected tag to what the journal tells; HANDOVER notes the mark; a new table is taken and journaled. The model's choices in it:
log rows 28, 29, 34, 56. -/
def Obligations.LostItemsAndStreamCommands : Prop :=
  (∀ (k : Fin 256) (acc : BitVec 48) (s : State) (i : LItem), Inv s → i ∈ s.ledger.items → i.stream = k → i.acc = acc.toNat → itemOpen i = true →
    (∀ j ∈ s.ledger.items, j.stream = k → j.acc = i.acc → j = i) → i.durable = false → (∀ l ∈ (getStream s k).lost, l.1 ≠ i.acc) →
    ∃ t, exec (.itemLost k acc) s = .next t ∧ sameBut [.ledger, .cat, .log, .host] s t ∧
      t.ledger.items = s.ledger.items.filter (fun j => decide (j ≠ i)) ∧
      getStream t k = { getStream s k with lost := (getStream s k).lost ++ [(i.acc, i.tag, i.slot)] } ∧ promiseBit t 0 = false ∧
      logged 0x30 true k (lostLast ((getStream s k).lost ++ [(i.acc, i.tag, i.slot)]) - lostFirst ((getStream s k).lost ++ [(i.acc, i.tag, i.slot)]) + 1) s t) ∧
  (∀ (k : Fin 256) (acc : BitVec 48) (s : State) (i : LItem), i ∈ s.ledger.items → i.stream = k → i.acc = acc.toNat → itemOpen i = true →
    (∀ j ∈ s.ledger.items, j.stream = k → j.acc = i.acc → j = i) → i.durable = true →
    exec (.itemLost k acc) s = .next (putItem (mirrorItem s i) s)) ∧
  (∀ (r : Route) (k : Fin 256) (s : State), Inv s → serves s r (callNo 0x1400 6) → (getStream s k).lost ≠ [] →
    (∀ i ∈ s.ledger.items, i.stream = k → i.st ≠ .held) →
    ∃ t, exec (.release r k) s = .next t ∧ sameBut [.ledger, .cat, .log, .host, .arch, .drawn] s t ∧ answered r (callNo 0x1400 6) t ∧
      getStream t k = { getStream s k with lost := [] } ∧
      t.ledger.items.length = s.ledger.items.length + (getStream s k).lost.length ∧
      (∀ l ∈ (getStream s k).lost, ∃ i ∈ t.ledger.items, i.stream = k ∧ i.acc = l.1 ∧ i.tag = l.2.1 ∧ i.slot = l.2.2 ∧ i.st = .done ∧ i.sent = none ∧
        i.rstatus = 0xFFFFFFFF#32) ∧
      ((∀ j : Nat, j < 256 → j ≠ k.val → (getStream s j).lost = []) → s.boot.stopped = false → promiseBit t 0 = true)) ∧
  (∀ (r : Route) (k : Fin 256) (s : State), Inv s → serves s r (callNo 0x1400 6) → inflightOn s k = 0 →
    ∃ t, exec (.resetstream r k) s = .next t ∧ sameBut [.ledger, .cat] s t ∧ answeredOnly r (callNo 0x1400 6) s t ∧
      getStream t k = { getStream s k with n := journaledN s.arch.journal k } ∧ (∀ j : Nat, j ≠ k.val → getStream t j = getStream s j) ∧
      t.ledger = { s.ledger with streams := t.ledger.streams }) ∧
  (∀ (r : Route) (k : Fin 256) (m : Fin 128) (s : State), serves s r (callNo 0x1400 6) →
    exec (.handover r k m) s = .next (replied r (callNo 0x1400 6) { s with
      ledger := { s.ledger with handovers := s.ledger.handovers ++ [(k.val, m.val, valGet s (callNo 0x1400 7))] } })) ∧
  (∀ (r : Route) (l : List Byte) (s : State), serves s r cStreams → routeNo r ≠ 0 → archiveLow s = false → l.length = 4096 →
    streamsCode s (maskStreams l) = 0 →
    ∃ t, exec (.ledgerStreams r l) s = .next t ∧ sameBut [.cat, .arch] s t ∧ answered r cStreams t ∧ longGet t cStreams = maskStreams l)

/-- From R317, R318, R319, R321, R322, R323, R324: the archive. A due page program takes the records that fit a page; its completion makes
them durable and tells the block's header; an erased block joins the free ones without one; a failed block gives way to a replacement with
event 0x51; replay sets DURABLE; WEED starts a run. The model's choices in it: log rows 31, 32, 37, 57. -/
def Obligations.ArchiveKeepsTheJournal : Prop :=
  (∀ (s : State), domGet s (.dev 9) = 0 → programDue s = true → s.arch.headUsed < 63 →
    exec .pageProgramStart s = .next { s with arch := { s.arch with
      prog := (pageTake 4096 s.arch.queue).1.map fun r => { r with block := s.arch.head }
      queue := (pageTake 4096 s.arch.queue).2, headUsed := s.arch.headUsed + 1 } }) ∧
  (∀ (r : JRec) (l : List JRec) (s : State), s.arch.prog = r :: l → s.arch.victim = none → s.arch.weeding = true → s.arch.st = 1 →
    (∀ x ∈ r :: l, ∀ y ∈ s.arch.journal, x.seq ≠ y.seq) →
    8 < archiveFree { s with arch := { s.arch with journal := s.arch.journal ++ r :: l, prog := [] } } →
    exec .pageProgramComplete s = .next { s with arch := { s.arch with
      journal := s.arch.journal ++ r :: l, prog := []
      heads := if (kvGet none s.arch.heads r.block).isSome then s.arch.heads else kvSet none s.arch.heads r.block (some (headOf s r.block r.seq)) } }) ∧
  (∀ (b : Fin 4096) (s : State), b.val ∈ s.arch.erasing → s.arch.victim ≠ some b.val → s.arch.st = 1 → 8 < archiveFree s →
    (∀ y ∈ s.arch.journal, y.block ≠ b) →
    exec (.blockEraseComplete b) s = .next { s with arch := { s.arch with
      erasing := s.arch.erasing.erase b.val, free := s.arch.free ++ [b.val]
      erases := kvSet 0 s.arch.erases b (kvGet 0 s.arch.erases b + 1)
      heads := kvSet none s.arch.heads b none } }) ∧
  (∀ (b : Fin 4096) (k : Nat) (ks : List Nat) (s : State), fwBlock s b = false → inService s b = true → s.arch.spares = k :: ks → s.arch.head = b →
    b.val ∉ s.arch.erasing → b.val ∉ s.arch.free → k ∉ s.arch.free → s.arch.victim ≠ some b.val →
    (∀ y ∈ s.arch.journal, y.block ≠ b) → (∀ y ∈ s.arch.prog, y.block ≠ b) →
    ∃ t, exec (.archiveBlockFailure b) s = .next t ∧ sameBut [.arch, .cat, .log, .host] s t ∧
      t.arch.head = k ∧ t.arch.spares = ks ∧ t.arch.retired = s.arch.retired ++ [⟨b, some k, false⟩] ∧
      t.arch.journal = s.arch.journal ∧ t.arch.prog = s.arch.prog ∧ t.arch.free = s.arch.free ∧ logged 0x51 false 0 b s t ∧
      valGet t (callNo 0x1300 10) = min 512 (valGet s (callNo 0x1300 10) + 1)) ∧
  (∀ (bad : List Nat) (s : State), s.boot.running = true → stepDone s 5 = false → deviceHeld s = false → s.boot.stopped = false → valGet s (callNo 0x1000 8) ≠ 1 →
    s.arch.st = 0 → 8 < archiveFree s →
    ∃ t, exec (.archiveReplay bad) s = .next t ∧ sameBut [.arch, .cat, .log, .host, .boot] s t ∧ t.arch = { s.arch with st := 1 } ∧
      promiseBit t 1 = true ∧ stepDone t 5 = true ∧ valGet t (callNo 0x1300 7) = 10000) ∧
  (∀ (bad : List Nat) (s : State), s.boot.running = true → stepDone s 5 = false → deviceHeld s = false → s.boot.stopped = false → valGet s (callNo 0x1000 8) = 1 →
    s.arch.journal = [] → s.arch.heads = [] → s.arch.retired = [] → s.arch.st = 0 → s.ledger.items = [] →
    ∃ t, exec (.archiveReplay bad) s = .next t ∧ sameBut [.arch, .cat, .log, .host, .boot] s t ∧ t.arch = { s.arch with st := 1 } ∧
      promiseBit t 1 = true ∧ stepDone t 5 = true) ∧
  (∀ (r : Route) (s : State), serves s r (callNo 0x1300 4) → s.arch.weeding = false → weedGoal s true = 0 → awake s (.dev 9) →
    ∃ t, exec (.weed (some r)) s = .next t ∧ sameBut [.cat] s t ∧ answered r (callNo 0x1300 4) t ∧
      valGet t (callNo 0x1300 5) = 10000 ∧ valGet t (callNo 0x1300 6) = 0) ∧
  (∀ (s : State) (v : Nat), s.arch.weeding = false → s.arch.st = 1 → 10000 * archiveFree s / blocksInService s < valGet s (callNo 0x1300 3) →
    0 < weedGoal s false → weedVictim s = some v →
    ∃ t, exec (.weed none) s = .next t ∧ sameBut [.cat, .arch] s t ∧ valGet t (callNo 0x1300 5) = 0 ∧
      t.arch.weeding = true ∧ t.arch.weedGoal = weedGoal s false ∧ t.arch.victim = some v ∧
      t.arch.queue = s.arch.queue ++ copies (liveIn s v) s ++ [mkRec 0x0A false v s.arch.nextSeq [] s.up])

/-- From R330, R334, R335, R336, R337, R341: the catalogue's services. A READ returns the part of the value that is asked for; a load in a
window returns the bytes of a short value; a request for a call number that no entry has fails with NOT_FOUND and is recorded; a short
value is written whole; a long one is written in segments, in order and on one route, and applied with the last; INFO returns the
descriptor; an idle segmented write ends in TIMEOUT. The model's choices in it: log row 33. -/
def Obligations.CatalogueServesItsEntries : Prop :=
  (∀ (r : Route) (call : BitVec 24) (off n : Nat) (s : State) (d : Desc) (l : List Byte), s.cat.ready = true → routeClosed s r = false →
    routeNo r ≠ 0 → descOf s call.toNat = some d → d.acc ≠ 2 → lcDenied s (routeNo r) false call.toNat = false →
    valueBytes call.toNat s = (l, s) →
    exec (.catalogueRead r call off n) s = .next { s with cat := { s.cat with reply := some ⟨routeNo r, call.toNat, 0, (l.drop off).take n⟩ } }) ∧
  (∀ (e : Fin 256) (call : BitVec 24) (off n v : Nat) (s : State) (d : Desc), s.cat.ready = true → descOf s call.toNat = some d → d.acc ≠ 2 →
    lcDenied s 0 false call.toNat = false → shortType d.type = true → shortRead call.toNat s = (v, s) →
    exec (.catalogueRead (.window e) call off n) s =
      .next { s with cat := { s.cat with reply := some ⟨0, call.toNat, 0, leBytes n (v / 256 ^ off % 256 ^ n)⟩ } }) ∧
  (∀ (r : Route) (call : BitVec 24) (off n : Nat) (s : State), s.cat.ready = true → routeClosed s r = false → routeNo r ≠ 0 →
    descOf s call.toNat = none →
    ∃ t, exec (.catalogueRead r call off n) s = .next t ∧ sameBut [.cat] s t ∧ valsBut [callNo 0x1020 3, callNo 0x1020 4] s t ∧
      t.cat.reply = some ⟨routeNo r, call.toNat, 1, []⟩ ∧ valGet t (callNo 0x1020 3) = (valGet s (callNo 0x1020 3) + 1) % 2 ^ 32 ∧
      valGet t (callNo 0x1020 4) = 1 + call.toNat * 2 ^ 32 + routeNo r * 2 ^ 56) ∧
  (∀ (r : Route) (call : BitVec 24) (data : List Byte) (last : Bool) (s u : State) (d : Desc) (v : Nat), serves s r call.toNat → routeNo r ≠ 0 →
    deviceDesc call.toNat = some d → shortType d.type = true → d.acc ≠ 0 → d.acc ≠ 4 → (d.acc = 3 → unitRuns s call.toNat = false) →
    (r = .debug → d.size ≤ 4) → data.length = d.size → v = Nat.land (leNat data) (writeMask call.toNat) →
    descRange s call.toNat d v = false → unitRange s call.toNat v = false → (d.jrn = true → archiveLow s = false) →
    applyShort (routeNo r) 256 call.toNat v none s = (0, u) →
    exec (.catalogueWrite r call 0 data last) s = .next (replied r call.toNat u)) ∧
  (∀ (r : Route) (call : BitVec 24) (data : List Byte) (s : State) (d : Desc), serves s r call.toNat → routeNo r ≠ 0 →
    deviceDesc call.toNat = some d → shortType d.type = false → d.acc ≠ 0 → d.acc ≠ 4 → (d.acc = 3 → unitRuns s call.toNat = false) →
    (∀ g ∈ s.cat.segs, g.call ≠ call.toNat) →
    exec (.catalogueWrite r call 0 data false) s =
      .next (replied r call.toNat { s with cat := { s.cat with segs := s.cat.segs ++ [⟨call.toNat, routeNo r, data, s.up⟩] } })) ∧
  (∀ (r : Route) (call : BitVec 24) (data : List Byte) (s : State) (d : Desc) (g : SegWrite), serves s r call.toNat → routeNo r ≠ 0 →
    deviceDesc call.toNat = some d → shortType d.type = false → d.acc ≠ 0 → d.acc ≠ 4 → (d.acc = 3 → unitRuns s call.toNat = false) →
    s.cat.segs = [g] → g.call = call.toNat → g.route = routeNo r → g.data ≠ [] →
    exec (.catalogueWrite r call g.data.length data false) s =
      .next (replied r call.toNat { s with cat := { s.cat with segs := [{ g with data := g.data ++ data, at_ := s.up }] } })) ∧
  (∀ (r : Route) (call : BitVec 24) (data : List Byte) (s u : State) (d : Desc) (g : SegWrite), serves s r call.toNat → routeNo r ≠ 0 →
    deviceDesc call.toNat = some d → shortType d.type = false → d.acc ≠ 0 → d.acc ≠ 4 → (d.acc = 3 → unitRuns s call.toNat = false) →
    s.cat.segs = [g] → g.call = call.toNat → g.route = routeNo r → g.data ≠ [] →
    applyLong call.toNat (g.data ++ data) none { s with cat := { s.cat with segs := [] } } = (0, u) →
    (if d.type = 15 then (g.data ++ data).length = d.size else (g.data ++ data).length ≤ d.size) →
    longRange { s with cat := { s.cat with segs := [] } } call.toNat d (g.data ++ data) = false → (d.jrn = true → archiveLow s = false) →
    exec (.catalogueWrite r call g.data.length data true) s = .next (replied r call.toNat u)) ∧
  (∀ (r : Route) (call : BitVec 24) (off n : Nat) (s : State) (d : Desc), s.cat.ready = true → routeNo r ≠ 0 → r ≠ .debug →
    descOf s call.toNat = some d →
    exec (.catalogueInfo r call off n) s =
      .next { s with cat := { s.cat with reply := some ⟨routeNo r, call.toNat, 0, ((infoBytes s call.toNat d).drop off).take n⟩ } }) ∧
  (∀ (call : BitVec 24) (s : State) (g : SegWrite), s.cat.segs.find? (fun y => y.call == call.toNat) = some g → g.at_ + 400000000 < s.up →
    ∃ t, exec (.segmentTimeout call) s = .next t ∧ sameBut [.cat] s t ∧ t.cat.segs = s.cat.segs.filter (fun y => y.call != call.toNat) ∧
      valGet t (callNo 0x1020 3) = (valGet s (callNo 0x1020 3) + 1) % 2 ^ 32 ∧
      valGet t (callNo 0x1020 4) = 0x0B + call.toNat * 2 ^ 32 + g.route * 2 ^ 56)

/-- From R23, R355, R356, R357, R361, R369, R370, R371, R380, R383: the cycles of a ring. A running master launches its cyclic frame at the
launch offset and notes when it is due back; a returned frame that is good in time sets GOOD, clears the failures and raises the cycle's
interrupt; one that is missing is counted, and the limit of failures leads to FAIL with event 0x60; a node forwards a frame with HOPS and
CORR advanced and decides its cycle; a frame in the reverse direction is relayed with CORR advanced. The model's choices in it: log rows
35, 58. -/
def Obligations.RingCyclesRunAndAreDecided : Prop :=
  (∀ (r : Fin 2) (s : State), Inv s → ringRole s r = 1 → (getRing s r).st ≠ 0 → valGet s (cRing r 7) ≤ s.now →
    cycleStart s r (s.now - valGet s (cRing r 7)) = true → linkUp s (outPort r) = true → linkUp s (inPort r) = true →
    (∀ l ∈ (getRing s r).launched, l.at_ ≠ s.now) →
    ∃ t, exec (.ringCycleStart r) s = .next t ∧ sameBut [.ring, .cat, .net, .log, .host] s t ∧ ringBut [r.val] s t ∧
      valsBut [cRing r 0x17, cRing r 0x1B, cPort (outPort r) 7] s t ∧ ((∀ v ∈ telsMaster s r, telSvc v ≠ 0x10) → t.log = s.log ∧ t.host = s.host) ∧
      (getRing t r).cycle = (getRing s r).cycle + 1 ∧ (getRing t r).frozen = none ∧ (getRing t r).imgIn = (getRing s r).imgIn ∧
      (getRing t r).launched = (getRing s r).launched ++ [⟨(getRing s r).cycle % 65536, (getRing t r).lastFrame.length, s.now,
        s.now + returnTime s r (getRing t r).lastFrame.length (getRing s r).looped, (telsMaster s r).map (expectedWkc s r)⟩] ∧
      valGet t (cPort (outPort r) 7) = (valGet s (cPort (outPort r) 7) + 1) % 2 ^ 32 ∧
      ∃ b, (getRing t r).lastFrame =
        withFcs (ringFrame s r (if (getRing s r).closing then 64 else 0) (telsMaster s r).length (getRing s r).cycle b) false) ∧
  (∀ (r : Fin 2) (ts : Nat) (f : List Byte) (l : Launch) (s : State), Inv s → noRestart s → ringRole s r = 1 → (getRing s r).launched = [l] →
    linkUp s (inPort r) = true →
    ramnas s r f = true → fcsGood f = true → frameValid s r f = true → frameCycle f = l.cycle → frameFlag f 5 = false → frameFlag f 7 = false →
    ts + f.length * byteTime s r ≤ l.due + 8000 → firstBad f l.wkc (telsOf f) 0 = 0xFF → (∀ y ∈ telsOf f, y.svc ≠ 0x10) →
    (getRing s r).st ≠ 4 →
    ∃ t, exec (.masterDecision r ts f) s = .next t ∧ sameBut [.ring, .cat, .eng, .net] s t ∧ ringBut [r.val] s t ∧
      valGet t (cRing r 0x12) = statusWord true false false false false (decide (l.due < ts + f.length * byteTime s r)) (getRing s r).looped
        (getRing s r).stopped 0xFF l.cycle ∧
      (getRing t r).launched = [] ∧ (getRing t r).fails = 0 ∧ (getRing t r).st = (getRing s r).st ∧ raisedAll (3 + r) s t ∧
      valGet t (cPort (inPort r) 0x0C) = ts ∧ valGet t (cPort (inPort r) 6) = (valGet s (cPort (inPort r) 6) + 1) % 2 ^ 32 ∧
      valGet t (cRing r 0x14) = valGet s (cRing r 0x14)) ∧
  (∀ (r : Fin 2) (l : Launch) (ls : List Launch) (s : State), Inv s → noRestart s → ringRole s r = 1 → (getRing s r).launched = l :: ls →
    l.due + 8000 ≤ s.now → (getRing s r).st ≠ 4 →
    ∃ t, exec (.missingLimit r) s = .next t ∧ sameBut [.ring, .cat, .eng, .log, .host] s t ∧ ringBut [r.val] s t ∧
      valGet t (cRing r 0x12) = statusWord false true false false false false (getRing s r).looped (getRing s r).stopped 0xFF l.cycle ∧
      valGet t (cRing r 0x14) = (valGet s (cRing r 0x14) + 1) % 2 ^ 32 ∧ valGet t (cRing r 0x15) = (valGet s (cRing r 0x15) + 1) % 2 ^ 32 ∧
      (getRing t r).launched = (l :: ls).filter (fun y => y.cycle != l.cycle) ∧ (getRing t r).fails = (getRing s r).fails + 1 ∧
      raisedAll (5 + r) s t ∧
      (if valGet s (cRing r 0x0B) ≤ (getRing s r).fails + 1 then (getRing t r).st = 4 ∧ logged 0x60 true r (valGet t (cRing r 0x12)) s t
        else (getRing t r).st = (getRing s r).st ∧ t.log = s.log)) ∧
  (∀ (r : Fin 2) (ts resid : Nat) (f : List Byte) (s : State), Inv s → noRestart s → ringRole s r = 2 → ramnas s r f = true →
    fcsGood f = true → frameValid s r f = true → frameFlag f 5 = false → nodeLoops s r = false → frameFlag f 4 = (getRing s r).looped →
    (∀ y ∈ telsOf f, y.svc ≠ 0x10) → (getRing s r).st ≠ 4 → valGet s (callNo 0x1110 3) = 0 → s.boot.stopped = false →
    ∃ t p, exec (.nodeFramePass r ts resid f) s = .next t ∧ sameBut [.ring, .cat, .eng, .net, .time, .log, .host] s t ∧ ringBut [r.val] s t ∧
      p = (telsOf f).foldl (telServeNode serve r true) ⟨f, [], rxCount r (inPort r) ts (freezeDue r s)⟩ ∧
      (getRing t r).fwd = withFcs (frameBody (addCorr (corrDelay s (inPort r) + resid) (bumpHops p.f))) false ∧
      (getRing t r).cycle = (getRing s r).cycle + 1 ∧ (getRing t r).arrived = some ts ∧ (getRing t r).fails = 0 ∧
      (getRing t r).time = (match timeOf f with | some y => some y | none => (getRing s r).time) ∧
      t.time = (nodeMeasure r ts f s).time ∧ promiseBit t (4 + r) = ((getRing s r).measured && ringSynced t r) ∧
      valGet t (cRing r 0x12) = statusWord true false false false false false (getRing s r).looped (getRing s r).stopped 0xFF (frameCycle f) ∧
      raisedAll (3 + r) s t) ∧
  (∀ (r : Fin 2) (y : NodeTime) (a : Nat) (s : State), Inv s → noRestart s → ringRole s r = 2 → (getRing s r).time = some y →
    (getRing s r).arrived = some a → a + y.clen + 8000 ≤ s.now → (getRing s r).st ≠ 4 → (getRing s r).fails + 1 < valGet s (cRing r 0x0B) →
    ∃ t, exec (.nodeMissingLimit r) s = .next t ∧ sameBut [.ring, .cat, .eng] s t ∧ ringBut [r.val] s t ∧
      getRing t r = { getRing s r with cycle := (getRing s r).cycle + 1, arrived := some (a + y.clen), frozen := none, fails := (getRing s r).fails + 1 } ∧
      valGet t (cRing r 0x12) = statusWord false true false false false false (getRing s r).looped (getRing s r).stopped 0xFF (getRing s r).cycle ∧
      valGet t (cRing r 0x14) = (valGet s (cRing r 0x14) + 1) % 2 ^ 32 ∧ raisedAll (5 + r) s t) ∧
  (∀ (r : Fin 2) (resid : Nat) (f : List Byte) (s : State), Inv s → ringRole s r ≠ 0 → ramnas s r f = true → fcsGood f = true →
    ∃ t, exec (.reverseFramePass r resid f) s = .next t ∧ sameBut [.ring, .cat] s t ∧ ringBut [r.val] s t ∧
      valsBut [cPort (outPort r) 6, cPort (inPort r) 7] s t ∧
      getRing t r = { getRing s r with fwd := withFcs (frameBody (addCorr (corrDelay s (outPort r) + resid) f)) false } ∧
      valGet t (cPort (outPort r) 6) = (valGet s (cPort (outPort r) 6) + 1) % 2 ^ 32 ∧
      valGet t (cPort (inPort r) 7) = (valGet s (cPort (inPort r) 7) + 1) % 2 ^ 32)

/-- From R248, R373, R374, R375, R378, R381: the acyclic exchange and the queues. The master sends the oldest segments of its nodes in the
frame window; a delivered segment leaves the transmit queue; a received one for a folio joins the receive queue once; an unacknowledged
one falls due again, and is abandoned with event 0x64 after the limit; a staged one is queued with its number; a pop removes the head of a
queue. The model's choices in it: log row 36. -/
def Obligations.SegmentsAreExchanged : Prop :=
  (∀ (r : Fin 2) (a : Nat) (g : AcySeg) (s : State), Inv s → ringRole s r = 1 → (getRing s r).st ≠ 0 → windowFits s r 64 = true →
    (getRing s r).scan = false → pollOrder s r = [a] → 0 < acycCount s r → oldestSeg (getRing s r) a = some g → a ≠ 0 →
    linkUp s (outPort r) = true →
    overLimit s r g = false →
    ∃ t, exec (.acyclicFrameSend r) s = .next t ∧ sameBut [.ring, .cat] s t ∧ ringBut [r.val] s t ∧ valsBut [cPort (outPort r) 7] s t ∧
      (getRing t r).fwd = withFcs (ringFrame s r 32 1 ((getRing s r).cycle - 1) (telBytes a 0x10 0 g.xid (wireSeg s r a g.bytes))) false ∧
      (getRing t r).poll = a ∧ (getRing t r).launched = (getRing s r).launched ∧
      (getRing t r).txq = mapSeg a (fun h => { h with sends := h.sends + 1, sentAt := (getRing s r).cycle + 1 }) (getRing s r).txq) ∧
  (∀ (r : Fin 2) (p : Fin 256) (taken : Fin 4) (xid : Fin 256) (d : List Byte) (s : State), Inv s → p = ownAddr s r →
    0x40 ≤ fieldAt d 0 1 → fieldAt d 0 1 ≤ 0x7F → oldestSeg (getRing s r) (fieldAt d 1 1) = none →
    kvGet 0 (getRing s r).xidIn (fieldAt d 1 1) ≠ xid.val + 1 → (getRing s r).rx.length < 64 → (getRing s r).staged = [] →
    ∃ t, exec (.acycSegmentReceive r p taken xid d) s = .next t ∧ sameBut [.ring] s t ∧ ringBut [r.val] s t ∧
      (getRing t r).rx = (getRing s r).rx ++ [bytesAt (d.take (8 + fieldAt d 6 2)) 0 256] ∧ (getRing t r).txq = (getRing s r).txq ∧
      kvGet 0 (getRing t r).xidIn (fieldAt d 1 1) = xid.val + 1 ∧
      (∀ k : Nat, k ≠ fieldAt d 1 1 → kvGet 0 (getRing t r).xidIn k = kvGet 0 (getRing s r).xidIn k)) ∧
  (∀ (r : Fin 2) (p : Fin 256) (g : AcySeg) (s : State), Inv s → oldestSeg (getRing s r) p = some g → 0 < g.sends → 0 < g.sentAt →
    (ringRole s r = 1 ∨ g.sentAt + valGet s (cRing r 0x0D) ≤ (getRing s r).cycle + 1) →
    ∃ t, exec (.acycRetryExpiry r p) s = .next t ∧ ringBut [r.val] s t ∧
      (if valGet s (cRing r 0x0E) ≠ 0 ∧ valGet s (cRing r 0x0E) < g.sends ∧ fieldAt g.bytes 0 1 ≠ 0x12 then
        sameBut [.ring, .cat, .log, .host] s t ∧ getRing t r = { getRing s r with txq := dropSeg p (getRing s r).txq } ∧
        valGet t (cRing r 0x1B) = (valGet s (cRing r 0x1B) + 1) % 2 ^ 32 ∧ logged 0x64 false r p s t
      else sameBut [.ring] s t ∧ getRing t r = { getRing s r with txq := mapSeg p (fun h => { h with sentAt := 0 }) (getRing s r).txq })) ∧
  (∀ (r : Fin 2) (who : Fin 257) (dest : Fin 256) (s : State), Inv s → mayStage s r who = true → 0 < stageFree (getRing s r) →
    (leNat ((List.range 1).map fun i => kvGet 0#8 (getRing s r).stage i) = 0x40) →
    ∃ t, exec (.acycTransmit r who dest) s = .next t ∧ sameBut [.ring] s t ∧ ringBut [r.val] s t ∧
      ∃ b, (getRing t r) = { getRing s r with
        txq := (getRing s r).txq ++ [⟨dest.val, b, kvGet 0 (getRing s r).xidOut dest, 0, 0, 0⟩]
        xidOut := kvSet 0 (getRing s r).xidOut dest.val ((kvGet 0 (getRing s r).xidOut dest + 1) % 256) } ∧
        b.take 2 = [0x40#8, BitVec.ofNat 8 (ownAddr s r)]) ∧
  (∀ (r : Fin 2) (s : State), Inv s →
    ∃ t, exec (.acycQueuePop r) s = .next t ∧ sameBut [.ring] s t ∧ ringBut [r.val] s t ∧
      getRing t r = { getRing s r with rx := (getRing s r).rx.tail }) ∧
  (∀ (q : Fin 17) (s : State), Inv s →
    ∃ t, exec (.captureQueuePop q) s = .next t ∧ sameBut [.net] s t ∧ (∀ k : Nat, k ≠ q.val → getCap t k = getCap s k) ∧
      getCap t q = { getCap s q with recs := (getCap s q).recs.tail }) ∧
  (∀ (n : Fin 256) (level : Bool) (s : State), Inv s → pairSplit (getPair s (pairOf n)) = true →
    ∃ t, exec (.receiveQueueViewPop n level) s = .next t ∧ sameBut [.eng] s t ∧ engBut [n.val] s t ∧
      getEng t n = { getEng s n with rq := if level then { (getEng s n).rq with ovf := false, unf := false }
        else { (getEng s n).rq with words := (getEng s n).rq.words.tail, unf := (getEng s n).rq.unf || (getEng s n).rq.words.isEmpty } }) ∧
  (∀ (n : Fin 256) (level : Bool) (s : State), Inv s → pairSplit (getPair s (pairOf n)) = false → n.val % 2 = 0 →
    inReplay (getPair s (pairOf n)) = false → s.mem.wipe = none → (getPair s (pairOf n)).logN < 1408 →
    ∃ t, exec (.receiveQueueViewPop n level) s = .next t ∧ sameBut [.eng, .pair, .mem] s t ∧ engBut [n.val] s t ∧ pairBut [pairOf n] s t ∧
      getEng t n = { getEng s n with rq := if level then { (getEng s n).rq with ovf := false, unf := false }
        else { (getEng s n).rq with words := (getEng s n).rq.words.tail, unf := (getEng s n).rq.unf || (getEng s n).rq.words.isEmpty } } ∧
      getPair t (pairOf n) = { getPair s (pairOf n) with logN := (getPair s (pairOf n)).logN + 1 } ∧
      recAt t (pairOf n) (getPair s (pairOf n)).logN =
        ⟨if level then xuLvl (getEng s n).rq else (getEng s n).rq.words.headD 0#32, 0x0F, (getPair s (pairOf n)).count % 2 ^ 24⟩ ∧
      (∀ a : Nat, a < logAt (pairOf n) (getPair s (pairOf n)).logN ∨ logAt (pairOf n) (getPair s (pairOf n)).logN + 8 ≤ a →
        kvGet 0#8 t.mem.bytes a = kvGet 0#8 s.mem.bytes a))

/-- From R37, R351, R352, R382, R383, R384, R385: scans, breaks and closes. A scan starts on a running master; the returned PROBE gives the
hops and the neighbours; a link that goes down makes a node loop back, with event 0x63; one that comes up serves at a permitted speed; a
master at a broken ring enters LOOP with event 0x61, and leaves it when the loop closes; measured delays restore ALIGN_RING. The model's
choices in it: log rows 36, 37. -/
def Obligations.RingsScanBreakAndClose : Prop :=
  (∀ (rt : Route) (r : Fin 2) (s : State), Inv s → serves s rt (cRing r 0x20) → awake s (.dev (Fin.ofNat 10 (2 * r))) →
    awake s (.dev (Fin.ofNat 10 (2 * r + 1))) → ringRole s r = 1 → (getRing s r).st ≠ 0 → (getRing s r).looped = false →
    ∃ t, exec (.scan rt r) s = .next t ∧ sameBut [.ring, .cat] s t ∧ ringBut [r.val] s t ∧ answeredOnly rt (cRing r 0x20) s t ∧
      getRing t r = { getRing s r with scan := true, probeOut := false }) ∧
  (∀ (r : Fin 2) (ts : Nat) (f : List Byte) (p : Tel) (s : State), Inv s → ringRole s r = 1 → (getRing s r).scan = true → (getRing s r).probeOut = true →
    ramnas s r f = true → fcsGood f = true → frameValid s r f = true → frameFlag f 5 = true →
    telsOf f = [p] → p.svc = 0x30 → frameHops f ≤ 64 →
    ∃ t, exec (.probeReturn r ts f) s = .next t ∧ sameBut [.ring, .cat, .log, .host, .net] s t ∧ ringBut [r.val] s t ∧ ringHops t r = frameHops f ∧
      (∀ i : Nat, i < frameHops f → valGet t (cTopo r (i + 1)) % 65536 = (((telData f p).take (frameHops f)).map (fun b => b.toNat)).getD i 0) ∧
      valGet t (cPort (outPort r) 0x0B) = (((telData f p).take (frameHops f)).map (fun b => b.toNat)).headD 0xFF ∧
      valGet t (cPort (inPort r) 0x0B) = (((telData f p).take (frameHops f)).map (fun b => b.toNat)).getLastD 0xFF ∧
      (getRing t r).scan = false ∧ (getRing t r).probeOut = false) ∧
  (∀ (q : Fin 4) (s : State), Inv s → valGet s (cPort q 1) ≠ 0 →
    ∃ t, exec (.linkDown q) s = .next t ∧ sameBut [.ring, .port, .cat, .log, .host] s t ∧ ringBut [portRing q] s t ∧ portBut [q.val] s t ∧
      valsBut [cPort q 1, cPort q 5, cPort q 0x0A, cPort q 0x0B, cPort q 0x0F, cPromise, callNo 0x1010 2] s t ∧ valGet t (cPort q 1) = 0 ∧
      valGet t (cPort q 5) = (valGet s (cPort q 5) + 1) % 2 ^ 32 ∧ (getPort t q).loop = (if ringRole s (portRing q) = 2 then true else (getPort s q).loop) ∧
      (if ringRole s (portRing q) = 2 ∧ (getRing s (portRing q)).looped = false then (getRing t (portRing q)).looped = true ∧
          (getRing t (portRing q)).measured = false ∧ promiseBit t (4 + portRing q) = false
        else (getRing t (portRing q)).looped = (getRing s (portRing q)).looped ∧ (getRing t (portRing q)).measured = (getRing s (portRing q)).measured ∧
          logged 0x63 true q 0 s t)) ∧
  (∀ (q : Fin 4) (speed : Fin 3) (s : State), Inv s → valGet s (cPort q 1) = 0 → speed ≠ 0 → valGet s (cPort q 2) ≠ speed →
    ∃ t, exec (.linkUp q speed) s = .next t ∧ sameBut [.port, .cat, .log, .host] s t ∧ portBut [q.val] s t ∧
      valsBut [cPort q 1, cPort q 5] s t ∧ getPort t q = { getPort s q with upAt := s.up } ∧
      valGet t (cPort q 5) = (valGet s (cPort q 5) + 1) % 2 ^ 32 ∧
      (if ringSpeed s (portRing q) = 0 ∨ ringSpeed s (portRing q) = speed then valGet t (cPort q 1) = speed ∧ logged 0x63 false q speed s t
        else valGet t (cPort q 1) = 3 ∧ t.log = s.log)) ∧
  (∀ (q : Fin 4) (s : State), Inv s → ringRole s (portRing q) = 2 → (getPort s q).loop = true → linkUp s q = true →
    (getPort s q).upAt + 400000000 ≤ s.up →
    ∃ t, exec (.linkHealed q) s = .next t ∧ sameBut [.ring] s t ∧ ringBut [portRing q] s t ∧
      getRing t (portRing q) = { getRing s (portRing q) with healed := 1 }) ∧
  (∀ (r : Fin 2) (f : List Byte) (s : State), Inv s → ringRole s r = 1 → (getRing s r).st ≠ 0 → linkUp s (outPort r) = true →
    linkUp s (inPort r) = true → ramnas s r f = true → fcsGood f = true → (getRing s r).looped = false →
    ∃ t, exec (.masterLoopEntry r f) s = .next t ∧ sameBut [.ring, .cat, .log, .host] s t ∧ ringBut [r.val] s t ∧
      valGet t (cRing r 0x19) = frameHops f ∧ (getRing t r).looped = true ∧ (getRing t r).scan = false ∧ (getRing t r).measured = false ∧
      promiseBit t (4 + r) = false ∧ (promiseBit s (4 + r) = false → logged 0x61 true r (frameHops f) s t)) ∧
  (∀ (r : Fin 2) (s : State), Inv s → (getRing s r).closeSent = true → cycleStart s r s.now = true → ringRole s r = 1 → (getRing s r).looped = true →
    ∃ t, exec (.ringClose r) s = .next t ∧ sameBut [.ring, .cat, .log, .host] s t ∧ ringBut [r.val] s t ∧
      getRing t r = { getRing s r with looped := false, closing := false, closeSent := false, healed := 0, measured := false, scan := true, probeOut := false } ∧
      valGet t (cRing r 0x19) = 0xFF ∧ promiseBit t (4 + r) = false ∧
      (promiseBit s (4 + r) = false → logged 0x61 false r (valGet s (cRing r 0x19)) s t)) ∧
  (∀ (r : Fin 2) (s : State), Inv s → (getRing s r).closeSent = true → cycleStart s r s.now = true → ringRole s r = 2 →
    ∃ t, exec (.ringClose r) s = .next t ∧ sameBut [.ring, .port, .cat, .log, .host] s t ∧ ringBut [r.val] s t ∧ portBut [inPort r, outPort r] s t ∧
      getPort t (inPort r) = { getPort s (inPort r) with loop := (getPort s (inPort r)).loop && !linkUp s (inPort r) } ∧
      getPort t (outPort r) = { getPort s (outPort r) with loop := (getPort s (outPort r)).loop && !linkUp s (outPort r) } ∧
      (if nodeLoops s r = true ∧ nodeLoops t r = false ∧ (getRing s r).looped = true then
        getRing t r = { getRing s r with closeSent := false, healed := 0, looped := false, measured := false } ∧ promiseBit t (4 + r) = false
      else getRing t r = { getRing s r with closeSent := false, healed := 0 } ∧ t.cat = s.cat ∧ t.log = s.log ∧ t.host = s.host)) ∧
  (∀ (r : Fin 2) (ds : List Nat) (s : State), Inv s → ringRole s r ≠ 0 → (getRing s r).st ≠ 0 → ds.length = ringHops s r + 1 → ringHops s r ≤ 64 →
    s.boot.stopped = false →
    ∃ t, exec (.pathDelayMeasured r ds) s = .next t ∧ sameBut [.ring, .cat, .log, .host] s t ∧ ringBut [r.val] s t ∧
      getRing t r = { getRing s r with measured := true } ∧ promiseBit t (4 + r) = ringSynced s r ∧
      (∀ i : Nat, i < ringHops s r → valGet t (cTopo r (i + 1)) / 65536 = ds.getD i 0 % 65536) ∧
      valGet t (cPort (outPort r) 0x0A) = ds.headD 0 ∧ valGet t (cPort (inPort r) 0x0A) = ds.getLastD 0 ∧
      valGet t (cPort (outPort r) 0x0F) = min 0xFFFE (ds.headD 0 / 20))

/-- From R363, R364, R354, R387, R397, R400: roles, the safe stop and 802.1AS. A role is written only from 0 and starts or stops the ring;
STOP_N low holds the stop values until RELEASE; Sync and Pdelay leave in the PTP window with the next sequence number; received messages
are timed, answered and measured. The model's choices in it: log rows 33, 36, 59. -/
def Obligations.RolesStopsAndPtp : Prop :=
  (∀ (rt : Route) (r : Fin 2) (v : Byte) (s : State), Inv s → serves s rt (cRing r 1) → archiveLow s = false → awake s (.dev (Fin.ofNat 10 (2 * r))) →
    awake s (.dev (Fin.ofNat 10 (2 * r + 1))) → roleCode s r v.toNat = 0 → v ≠ 0#8 → valGet s (callNo 0x1110 3) = 0 →
    ∃ t, exec (.ringRole rt r v) s = .next t ∧ sameBut [.ring, .cat, .arch, .ledger] s t ∧ ringBut [r.val] s t ∧ answered rt (cRing r 1) t ∧
      valGet t (cRing r 1) = v.toNat ∧ (getRing t r).st = 2 ∧ (getRing t r).scan = (v == 1#8) ∧ (getRing t r).cycle = 0 ∧
      (getRing t r).launched = [] ∧ (getRing t r).stopped = ((getRing s r).stopped || s.pins.stop) ∧
      (s.pins.stop = false → (getRing t r).imgOut = (getRing s r).imgOut)) ∧
  (∀ (rt : Route) (r : Fin 2) (s : State), Inv s → serves s rt (cRing r 1) → archiveLow s = false → awake s (.dev (Fin.ofNat 10 (2 * r))) →
    awake s (.dev (Fin.ofNat 10 (2 * r + 1))) → valGet s (callNo 0x1110 3) = 0 →
    ∃ t, exec (.ringRole rt r 0#8) s = .next t ∧ sameBut [.ring, .cat, .arch, .log, .host, .time] s t ∧ ringBut [r.val] s t ∧ answered rt (cRing r 1) t ∧
      t.time = (if valGet s (callNo 0x1110 1) = r then { s.time with period := false } else s.time) ∧
      valGet t (cRing r 1) = 0 ∧ (getRing t r).st = 0 ∧ (getRing t r).launched = [] ∧ promiseBit t (4 + r) = false) ∧
  (∀ (s : State), Inv s → s.pins.stopN = true → s.boot.vin = true → deviceHeld s = false → valGet s (cRing 0 1) = 0 → valGet s (cRing 1 1) = 0 →
    ∃ t, exec .safeStop s = .next t ∧ sameBut [.cat, .pins, .host, .drawn] s t ∧ t.pins.stopN = false ∧ t.pins.stop = true ∧
      valGet t (callNo 0x1510 8) = (valGet s (callNo 0x1510 8) + 1) % 2 ^ 32 ∧
      (∀ p : Nat, p < 16 → tioMode s p = 1 ∨ tioMode s p = 2 → valGet s (cTio p 3) = 0 → (getPin t p).drive = some false) ∧
      (∀ p : Nat, p < 16 → tioMode s p = 1 ∨ tioMode s p = 2 → valGet s (cTio p 3) = 1 → (getPin t p).drive = some true) ∧
      (∀ p : Nat, p < 16 → tioMode s p = 1 ∨ tioMode s p = 2 → valGet s (cTio p 3) = 2 → (getPin t p).drive = none) ∧
      (∀ p : Nat, p < 16 → tioMode s p ≠ 1 ∧ tioMode s p ≠ 2 ∨ 2 < valGet s (cTio p 3) → getPin t p = getPin s p)) ∧
  (∀ (rt : Route) (r : Fin 2) (s : State), Inv s → serves s rt (cRing r 0x20) → awake s (.dev (Fin.ofNat 10 (2 * r))) →
    awake s (.dev (Fin.ofNat 10 (2 * r + 1))) → s.pins.stopN = true → s.pins.stop = true → s.boot.tamperStop = false →
    ∃ t, exec (.stopRelease rt r) s = .next t ∧ sameBut [.ring, .pins, .cat, .log, .host] s t ∧ answeredOnly rt (cRing r 0x20) s t ∧
      t.pins = { s.pins with stop := false } ∧ (getRing t 0).stopped = false ∧ (getRing t 1).stopped = false ∧
      (if (getRing s 0).stopped = true ∨ (getRing s 1).stopped = true then logged 0x65 false 0 0 s t else t.log = s.log)) ∧
  (∀ (q : Fin 4) (s : State), Inv s → masterPort s q = true → linkUp s q = true → ptpFit s (portRing q) ≠ 0 →
    ∃ t, exec (.ptpSyncSend q) s = .next t ∧ sameBut [.port, .cat] s t ∧ portBut [q.val] s t ∧ valsBut [cPort q 7] s t ∧
      getPort t q = { getPort s q with
        sent := ((getPort s q).owed ++ [(0, (getPort s q).syncSeq), (8, (getPort s q).syncSeq)]).take (ptpFit s (portRing q))
        owed := ((getPort s q).owed ++ [(0, (getPort s q).syncSeq), (8, (getPort s q).syncSeq)]).drop (ptpFit s (portRing q))
        syncSeq := ((getPort s q).syncSeq + 1) % 65536 } ∧
      valGet t (cPort q 7) = (valGet s (cPort q 7) + (getPort t q).sent.length) % 2 ^ 32) ∧
  (∀ (q : Fin 4) (s : State), Inv s → ringRole s (portRing q) ≠ 0 → linkUp s q = true → ptpFit s (portRing q) ≠ 0 →
    ∃ t, exec (.pdelaySend q) s = .next t ∧ sameBut [.port, .cat] s t ∧ portBut [q.val] s t ∧ valsBut [cPort q 7] s t ∧
      getPort t q = { getPort s q with
        sent := ((getPort s q).owed ++ [(2, (getPort s q).pdSeq)]).take (ptpFit s (portRing q))
        owed := ((getPort s q).owed ++ [(2, (getPort s q).pdSeq)]).drop (ptpFit s (portRing q))
        pdSeq := ((getPort s q).pdSeq + 1) % 65536, pdT1 := some s.now, pdT2 := none, pdT4 := none } ∧
      valGet t (cPort q 7) = (valGet s (cPort q 7) + (getPort t q).sent.length) % 2 ^ 32) ∧
  (∀ (q : Fin 4) (n ts v t1 t2 t4 : Nat) (s : State), Inv s → (getPort s q).pdT1 = some t1 → (getPort s q).pdT2 = some t2 → (getPort s q).pdT4 = some t4 →
    (n + 1) % 65536 = (getPort s q).pdSeq →
    ∃ t, exec (.ptpMessageReceive q 0xA n ts v) s = .next t ∧ sameBut [.port, .cat] s t ∧ portBut [q.val] s t ∧
      valsBut [cPort q 6, cPort q 0x0A, cPort q 0x0F] s t ∧ getPort t q = { getPort s q with pdT1 := none, pdT2 := none, pdT4 := none } ∧
      valGet t (cPort q 0x0A) = ((t4 - t1) - (v - t2)) / 2) ∧
  (∀ (q : Fin 4) (n ts v : Nat) (s : State), Inv s → masterPort s q = false →
    ∃ t, exec (.ptpMessageReceive q 0 n ts v) s = .next t ∧ sameBut [.port, .cat] s t ∧ portBut [q.val] s t ∧ valsBut [cPort q 6] s t ∧
      getPort t q = { getPort s q with syncRx := some (ts, n) }) ∧
  (∀ (q : Fin 4) (n ts v : Nat) (s : State), Inv s →
    ∃ t, exec (.ptpMessageReceive q 2 n ts v) s = .next t ∧ sameBut [.port, .cat] s t ∧ portBut [q.val] s t ∧
      valsBut [cPort q 6, cPort q 7] s t ∧ valGet t (cPort q 6) = (valGet s (cPort q 6) + 1) % 2 ^ 32 ∧
      (if ptpFit s (portRing q) = 0 then getPort t q = { getPort s q with owed := (getPort s q).owed ++ [(3, n), (0xA, n)] }
        else getPort t q = { getPort s q with
          sent := ((getPort s q).owed ++ [(3, n), (0xA, n)]).take (ptpFit s (portRing q))
          owed := ((getPort s q).owed ++ [(3, n), (0xA, n)]).drop (ptpFit s (portRing q)) }))

/-- From R391, R403: the common command codes of the host port. Each one that the port serves runs in SDR and has the effect of Table 17-1:
event enables, the dynamic address, the lengths in force, the values returned, HDR-DDR, and the resets of RSTACT. The model's choices in
it: log row 38. -/
def Obligations.CommonCommandCodes : Prop :=
  (∀ (direct : Bool) (e : Byte) (s : State), portAlive s = true → s.boot.stage ≠ 8 → (direct = true → valGet s cHostAddr ≠ 0) →
    ∃ t, exec (.enec direct e) s = .next t ∧ sameBut [.cat] s t ∧ valsBut [callNo 0x1500 3, cIbiEnable] s t ∧ valGet t (callNo 0x1500 3) = 0 ∧
      valGet t cIbiEnable = if e.getLsbD 0 then 1 else valGet s cIbiEnable) ∧
  (∀ (direct : Bool) (e : Byte) (s : State), portAlive s = true → s.boot.stage ≠ 8 → (direct = true → valGet s cHostAddr ≠ 0) →
    ∃ t, exec (.disec direct e) s = .next t ∧ sameBut [.cat, .host] s t ∧ valsBut [callNo 0x1500 3, cIbiEnable] s t ∧
      valGet t cIbiEnable = (if e.getLsbD 0 then 0 else valGet s cIbiEnable) ∧
      t.host = if e.getLsbD 0 then { s.host with ibi := none } else s.host) ∧
  (∀ (s : State), portAlive s = true →
    ∃ t, exec .rstdaa s = .next t ∧ sameBut [.cat] s t ∧ valsBut [callNo 0x1500 3, cHostAddr] s t ∧ valGet t cHostAddr = 0) ∧
  (∀ (a : Fin 128) (s : State), portAlive s = true → valGet s cHostAddr = 0 →
    ∃ t, exec (.entdaa true a) s = .next t ∧ sameBut [.cat] s t ∧ valsBut [callNo 0x1500 3, cHostAddr] s t ∧ valGet t cHostAddr = a) ∧
  (∀ (a : Fin 128) (s : State), portAlive s = true → valGet s cHostAddr = 0 →
    ∃ t, exec (.setdasa 0x5C a) s = .next t ∧ sameBut [.cat] s t ∧ valsBut [callNo 0x1500 3, cHostAddr] s t ∧ valGet t cHostAddr = a) ∧
  (∀ (a : Fin 128) (s : State), portAlive s = true → valGet s cHostAddr ≠ 0 →
    ∃ t, exec (.setnewda a) s = .next t ∧ sameBut [.cat] s t ∧ valsBut [callNo 0x1500 3, cHostAddr] s t ∧ valGet t cHostAddr = a) ∧
  (∀ (direct : Bool) (n : BitVec 16) (s : State), portAlive s = true → s.boot.stage ≠ 8 → (direct = true → valGet s cHostAddr ≠ 0) →
    ∃ t, exec (.setmwl direct n) s = .next t ∧ sameBut [.cat, .host] s t ∧ valsBut [callNo 0x1500 3] s t ∧
      t.host = { s.host with mwl := if 32 ≤ n.toNat ∧ n.toNat ≤ 280 then n.toNat else s.host.mwl }) ∧
  (∀ (direct : Bool) (n : BitVec 16) (s : State), portAlive s = true → s.boot.stage ≠ 8 → (direct = true → valGet s cHostAddr ≠ 0) →
    ∃ t, exec (.setmrl direct n) s = .next t ∧ sameBut [.cat] s t ∧ valsBut [callNo 0x1500 3, callNo 0x1500 6] s t ∧
      valGet t (callNo 0x1500 6) = if 32 ≤ n.toNat ∧ n.toNat ≤ 280 then n.toNat else valGet s (callNo 0x1500 6)) ∧
  (∀ (s : State), portServes s = true →
    ∃ t, exec .getmwl s = .next t ∧ sameBut [.cat, .host] s t ∧ valsBut [callNo 0x1500 3] s t ∧ t.host = { s.host with out := beBytes 2 s.host.mwl }) ∧
  (∀ (s : State), portServes s = true →
    ∃ t, exec .getmrl s = .next t ∧ sameBut [.cat, .host] s t ∧ valsBut [callNo 0x1500 3] s t ∧
      t.host = { s.host with out := beBytes 2 (valGet s (callNo 0x1500 6)) ++ [1#8] }) ∧
  (∀ (s : State), portServes s = true →
    ∃ t, exec .getpid s = .next t ∧ sameBut [.cat, .host] s t ∧ valsBut [callNo 0x1500 3] s t ∧
      t.host = { s.host with out := beBytes 6 (valGet s (callNo 0x1500 2)) }) ∧
  (∀ (s : State), portServes s = true →
    ∃ t, exec .getbcr s = .next t ∧ sameBut [.cat, .host] s t ∧ valsBut [callNo 0x1500 3] s t ∧ t.host = { s.host with out := [0x26#8] }) ∧
  (∀ (s : State), portServes s = true →
    ∃ t, exec .getdcr s = .next t ∧ sameBut [.cat, .host] s t ∧ valsBut [callNo 0x1500 3] s t ∧ t.host = { s.host with out := [0x00#8] }) ∧
  (∀ (s : State), portServes s = true →
    ∃ t, exec .getstatus s = .next t ∧ sameBut [.cat, .host] s t ∧ valsBut [callNo 0x1500 3] s t ∧
      t.host = { s.host with ferr := false, out := beBytes 2 (min 15 s.host.queue.length + if s.host.ferr then 32 else 0) }) ∧
  (∀ (s : State), portAlive s = true → s.boot.stage ≠ 8 →
    ∃ t, exec .enthdr0 s = .next t ∧ sameBut [.cat] s t ∧ valsBut [callNo 0x1500 3] s t ∧ valGet t (callNo 0x1500 3) = 1) ∧
  (∀ (direct : Bool) (a : Byte) (s : State), portAlive s = true → s.boot.stage ≠ 8 → (direct = true → valGet s cHostAddr ≠ 0) → a = 1#8 →
    ∃ t, exec (.rstact direct a) s = .next t ∧ sameBut [.cat, .host, .log] s t ∧ t.host.reqs = [] ∧ t.host.mwl = 280 ∧ t.host.ferr = false ∧
      valGet t (callNo 0x1500 6) = 280 ∧ valGet t (callNo 0x1500 3) = 0 ∧ valGet t cHostAddr = valGet s cHostAddr ∧
      t.cat.segs = s.cat.segs.filter (fun g => g.route != 3) ∧ logged 0x93 false 0 1 s t) ∧
  (∀ (direct : Bool) (s : State), portAlive s = true → s.boot.stage ≠ 8 → (direct = true → valGet s cHostAddr ≠ 0) →
    exec (.rstact direct 2#8) s = .next (warmReset (valPut (callNo 0x1500 3) 0 s)))

/-- From R304, R387, R392, R393, R394, R395, R398, R399, R429, R448: frames and pins of the host side. A frame whose check fails is answered
by an ERROR frame and counted; a good one is served in order and its response queued; a read takes the oldest frame; an accepted IBI is
counted; SYNC_OUT pulses at its instant; a new pin mode drops what the pin had pending; STOP_N high again is notified. The model's choices
in it: log row 39. -/
def Obligations.HostFramesAndPins : Prop :=
  (∀ (q : Byte) (last : Bool) (off : Word) (d : List Byte) (s : State), portServes s = true → d.length ≤ min (s.host.mwl - 18) 256 → unanswered s < 16 →
    s.host.reqs = [] → s.host.queue.length < 32 → s.boot.stage = 9 → off.toNat + d.length ≤ 0x800000 →
    exec (.folioData q last 0xFF#32 off d) s = .next (hostPush ⟨0xA0, q.toNat, false, 0, 0xFF, off.toNat, []⟩
      (modBoot (fun b => { b with
          hostImg := overlayBytes (bytesAt (if off = 0#32 then [] else s.boot.hostImg) 0
            (max (if off = 0#32 then [] else s.boot.hostImg).length (off.toNat + d.length))) off.toNat d
          hostEnd := last }) (bump (callNo 0x1500 8) 1 32 s)))) ∧
  (∀ (q : Byte) (n : Word) (w : Word) (s : State), portServes s = true → 22 ≤ s.host.mwl → unanswered s < 16 → s.host.reqs = [] →
    s.host.queue.length < 32 → n.toNat < 256 → tileDom s (tileOf (queueOwner s n.toNat)) = 0 →
    kvGet 0 s.power.entry (512 + tileOf (queueOwner s n.toNat)) = 0 →
    (getEng s (queueOwner s n.toNat)).rq.words.length < 64 →
    ∃ t, exec (.doorbell q n w) s = .next t ∧
      t = hostPush ⟨0xA1, q.toNat, false, 0, n.toNat, 0, []⟩
        (rqEnter (queueOwner s n.toNat) w (setPend (queueOwner s n.toNat) 30 (bump (callNo 0x1500 8) 1 32 s)))) ∧
  (∀ (b : List Byte) (s : State), portServes s = true → frameError s b ≠ 0 → s.host.reqs = [] ∨ 32 ≤ s.host.queue.length →
    ∃ t, exec (.hostRequestFrame b) s = .next t ∧ sameBut [.host, .cat] s t ∧ valsBut [callNo 0x1500 9] s t ∧
      valGet t (callNo 0x1500 9) = (valGet s (callNo 0x1500 9) + 1) % 2 ^ 32 ∧ t.host.ferr = true ∧
      (s.host.queue.length < 32 → t.host.reqs = [] ∧ t.host.queue = s.host.queue ++ [⟨0x8E, fieldAt b 1 1, false, frameError s b, 0, 0, []⟩]) ∧
      (32 ≤ s.host.queue.length → t.host.reqs = s.host.reqs ++ [⟨0x8E, fieldAt b 1 1, false, frameError s b, 0, 0, []⟩] ∧
        t.host.queue = s.host.queue)) ∧
  (∀ (b : List Byte) (s : State) (d : Desc) (l : List Byte), portServes s = true → frameError s b = 0 → fieldAt b 0 1 = 1 → s.host.reqs = [] →
    s.host.queue.length < 32 → s.cat.ready = true → descOf s (fieldAt b 8 4) = some d → d.acc ≠ 2 → lcDenied s 3 false (fieldAt b 8 4) = false →
    valueBytes (fieldAt b 8 4) (bump (callNo 0x1500 8) 1 32 s) = (l, bump (callNo 0x1500 8) 1 32 s) →
    ∃ t, exec (.hostRequestFrame b) s = .next t ∧ sameBut [.host, .cat] s t ∧ t.host.reqs = [] ∧
      t.host.queue = s.host.queue ++ [⟨0x81, fieldAt b 1 1,
        decide (l.length ≤ fieldAt b 12 4 + min (valGet s (callNo 0x1500 6) - 18) 256), 0, fieldAt b 8 4, fieldAt b 12 4,
        (l.drop (fieldAt b 12 4)).take (min (valGet s (callNo 0x1500 6) - 18) 256)⟩]) ∧
  (∀ (s : State) (f : HFrame) (fs : List HFrame), portServes s = true → s.host.queue = f :: fs → s.host.reqs = [] →
    exec .privateRead s = .next { s with host := { s.host with queue := fs, out := frameBytes f, ibi := none } }) ∧
  (∀ (s : State), portServes s = true → s.host.queue = [] →
    exec .privateRead s = .next { s with host := { s.host with out := frameBytes emptyFrame } }) ∧
  (∀ (s : State) (m : Nat), portServes s = true → s.host.ibi = some m → valGet s cIbiEnable = 1 →
    exec (.ibiRequest true) s = .next (bump (callNo 0x1500 0x0C) 1 32 { s with host := { s.host with ibi := none } }) ∧
    exec (.ibiRetry true) s = .next (bump (callNo 0x1500 0x0C) 1 32 { s with host := { s.host with ibi := none } }) ∧
    exec (.ibiRequest false) s = .next s ∧ exec (.ibiRetry false) s = .next s) ∧
  (∀ (s : State), s.cat.ready = true → deviceHeld s = false → 4 * valGet s (callNo 0x1510 5) ≤ s.now → s.pins.syncEnd ≤ s.up →
    syncInstant s (s.now - 4 * valGet s (callNo 0x1510 5)) = true →
    exec .syncOutPulse s = .next { s with pins := { s.pins with syncEnd := s.up + 4 * valGet s (callNo 0x1510 4) } }) ∧
  (∀ (r : Route) (p : Fin 16) (v : Byte) (s : State), Inv s → serves s r (cTio p 1) → archiveLow s = false → v.toNat ≤ 3 →
    ∃ t, exec (.tioMode r p v) s = .next t ∧ sameBut [.pins, .cat, .arch] s t ∧ valsBut [cTio p 1, cTio p 7] s t ∧ answered r (cTio p 1) t ∧
      valGet t (cTio p 1) = v.toNat ∧ valGet t (cTio p 7) = (valGet s (cTio p 7) + (getPin s p).pend.length) % 2 ^ 32 ∧
      (s.pins.stop = false ∨ v = 0#8 ∨ v = 3#8 ∨ 2 ≤ valGet s (cTio p 3) → getPin t p = { getPin s p with pend := [], drive := none }) ∧
      (s.pins.stop = true → v = 1#8 ∨ v = 2#8 → valGet s (cTio p 3) = 0 →
        getPin t p = { getPin s p with pend := [], drive := some false, lastDriven := false }) ∧
      (s.pins.stop = true → v = 1#8 ∨ v = 2#8 → valGet s (cTio p 3) = 1 →
        getPin t p = { getPin s p with pend := [], drive := some true, lastDriven := true }) ∧
      (∀ k : Nat, k ≠ p.val → getPin t k = getPin s k)) ∧
  (∀ (s : State), s.pins.stopN = false → s.boot.vin = true →
    ∃ t, exec .stopNRise s = .next t ∧ sameBut [.pins, .host, .drawn, .cat] s t ∧ t.pins = { s.pins with stopN := true } ∧
      (s.host.queue = [] → ∃ p, t.host.queue = [⟨0x90, 0, false, 0, 0, 0, p⟩] ∧ p.head? = some 0xA4#8))

/-- From R401, R402, R437, R439: the test access port. EXTEST, CLAMP and HIGHZ hold the device as a RESET_N reset does, and BYPASS releases
it; EXTEST, SAMPLE/PRELOAD, IDCODE and BYPASS select their data registers. An unlock opens debug access in BLANK and replaces the nonce;
TRST_N and the timeout close it. The model's choices in it: log rows 41, 44. -/
def Obligations.TestAccessPort : Prop :=
  (∀ (ls sh : List Bool) (s : State), s.tap.held = false →
    exec (.extest ls sh) s = .next { deviceReset 2 s with
      tap := { (deviceReset 2 s).tap with held := true, ir := 0, dr := levelBits ls, bsr := sh } }) ∧
  (∀ (s : State), s.tap.held = false →
    exec .clamp s = .next { deviceReset 2 s with tap := { (deviceReset 2 s).tap with held := true, ir := 4, dr := 0 } } ∧
    exec .highz s = .next { deviceReset 2 s with tap := { (deviceReset 2 s).tap with held := true, ir := 5, dr := 0 } }) ∧
  (∀ (ls sh : List Bool) (s : State), s.tap.held = true →
    exec (.extest ls sh) s = .next { s with tap := { s.tap with ir := 0, dr := levelBits ls, bsr := sh } }) ∧
  (∀ (ls sh : List Bool) (s : State), s.tap.held = false →
    exec .idcode s = .next { s with tap := { s.tap with ir := 1, dr := 0x12560793 } } ∧
    exec .bypass s = .next { s with tap := { s.tap with ir := 0x1F, dr := 0 } } ∧
    exec (.samplePreload ls sh) s = .next { s with tap := { s.tap with ir := 2, dr := levelBits ls, bsr := sh } }) ∧
  (∀ (s : State), s.tap.held = true → s.boot.held = false → s.boot.steps % 16 = 15 →
    exec .bypass s = .next { s with
      boot := { s.boot with startAt := s.up, stage := romStage s }
      tap := { s.tap with held := false, ir := 0x1F, dr := 0 } }) ∧
  (∀ (sig : List Byte) (s : State), s.tap.held = false → stepDone s 1 = true → lifecycle s = 0 →
    ∃ t, exec (.dbgOpen sig) s = .next t ∧ sameBut [.tap, .boot, .cat, .log, .host] s t ∧ valGet t cDbgOpen = 1 ∧
      t.tap = { s.tap with ir := 0x10, lastAcc := s.up, want := none } ∧ t.boot = { s.boot with nonce := Config.nonce s.boot.nonces, nonces := s.boot.nonces + 1 } ∧
      logged 0x90 false 0 0 s t) ∧
  (∀ (sig : List Byte) (s : State), s.tap.held = false → stepDone s 1 = true → lifecycle s = 4 →
    exec (.dbgOpen sig) s = .next { s with tap := { s.tap with ir := 0x10 }, boot := { s.boot with nonce := Config.nonce s.boot.nonces, nonces := s.boot.nonces + 1 } }) ∧
  (∀ (s : State), s.tap.held = false → valGet s cDbgOpen = 1 →
    ∃ t, exec .trstNLow s = .next t ∧ sameBut [.tap, .cat, .log, .host] s t ∧ valsBut [cDbgOpen] s t ∧ valGet t cDbgOpen = 0 ∧
      t.tap = { s.tap with ir := 1, dr := 0x12560793 } ∧ logged 0x91 false 0 1 s t) ∧
  (∀ (s : State), valGet s cDbgOpen = 1 → s.tap.lastAcc + valGet s (callNo 0x1510 0x0D) * 4000000 ≤ s.up →
    ∃ t, exec .dbgTimeout s = .next t ∧ sameBut [.cat, .log, .host] s t ∧ valsBut [cDbgOpen] s t ∧ valGet t cDbgOpen = 0 ∧
      logged 0x91 false 0 5 s t)

/-- From R240, R278, R281, R402: accesses of the debug port. While debug access is open, an aligned word of memory is read and written; one
whose path or right is absent gets an error response, which is counted; a catalogue value is read; an item of a halted engine is read and
written, and a write to a checked pair goes to both engines and into the log; the outcome is shifted out. While it is closed, every access
is refused. The model's choices in it: log row 40. -/
def Obligations.DebugAccesses : Prop :=
  (∀ (a : BitVec 40) (s : State), s.tap.held = false → valGet s cDbgOpen = 1 → inMemory a.toNat → physCode s false 257 a.toNat 4 = 0 →
    lockedOut s 257 (.phys a.toNat) 4 = false → readyNow s a.toNat 4 → cleanWords s a.toNat 4 →
    exec (.dbgAccRead 0 a) s = .next { s with tap := { s.tap with
      lastAcc := s.up, want := none, status := 0, data := memRead s a.toNat 4, ir := 0x11, dr := memRead s a.toNat 4 * 2 ^ 48 } }) ∧
  (∀ (a : BitVec 40) (v : Word) (s : State), Inv s → s.tap.held = false → valGet s cDbgOpen = 1 → lifecycle s ≠ 2 → inMemory a.toNat →
    physCode s true 257 a.toNat 4 = 0 → lockedOut s 257 (.phys a.toNat) 4 = false → readyNow s a.toNat 4 → cleanWords s a.toNat 4 →
    ∃ t, exec (.dbgAccWrite 0 a v) s = .next t ∧ sameBut [.tap, .mem] s t ∧ bytesBut a.toNat 4 s t ∧
      (∀ i : Nat, i < 4 → kvGet 0#8 t.mem.bytes (a.toNat + i) = BitVec.ofNat 8 (v.toNat / 256 ^ i)) ∧
      t.tap = { s.tap with lastAcc := s.up, want := none, status := 0, data := v.toNat, ir := 0x11, dr := v.toNat * 2 ^ 48 }) ∧
  (∀ (a : BitVec 40) (v : Word) (s : State), s.tap.held = false → valGet s cDbgOpen = 1 → lockedOut s 257 (.phys a.toNat) 4 = false →
    (physCode s false 257 a.toNat 4 ≠ 0 →
      ∃ t, exec (.dbgAccRead 0 a) s = .next t ∧ sameBut [.tap, .cat] s t ∧ valsBut [callNo 0x1920 5] s t ∧
        valGet t (callNo 0x1920 5) = (valGet s (callNo 0x1920 5) + 1) % 2 ^ 32 ∧ t.tap.status = 3 ∧ t.tap.want = none) ∧
    (physCode s true 257 a.toNat 4 ≠ 0 → lifecycle s ≠ 2 →
      ∃ t, exec (.dbgAccWrite 0 a v) s = .next t ∧ sameBut [.tap, .cat] s t ∧ valsBut [callNo 0x1920 5] s t ∧
        valGet t (callNo 0x1920 5) = (valGet s (callNo 0x1920 5) + 1) % 2 ^ 32 ∧ t.tap.status = 3 ∧ t.tap.want = none)) ∧
  (∀ (a : BitVec 40) (s : State) (d : Desc) (v : Nat), s.tap.held = false → valGet s cDbgOpen = 1 → s.cat.ready = true → a.toNat < 2 ^ 24 →
    descOf s a.toNat = some d → d.size ≤ 4 → d.acc ≠ 2 → shortType d.type = true → v < 256 ^ d.size →
    (∀ x, shortRead a.toNat { s with tap := x } = (v, { s with tap := x })) →
    exec (.dbgAccRead 1 a) s = .next { s with
      cat := { s.cat with reply := some ⟨4, a.toNat, 0, leBytes d.size v⟩ }
      tap := { s.tap with lastAcc := s.up, status := 0, data := v, ir := 0x11, dr := v * 2 ^ 48 } }) ∧
  (∀ (a : BitVec 40) (v : Word) (s s1 u : State) (d : Desc) (w : Nat), s.tap.held = false → valGet s cDbgOpen = 1 → lifecycle s ≠ 2 → s.cat.ready = true →
    a.toNat < 2 ^ 24 → deviceDesc a.toNat = some d → shortType d.type = true → d.size ≤ 4 → d.acc ≠ 0 → d.acc ≠ 4 →
    s1 = { s with tap := { s.tap with lastAcc := s.up } } → (d.acc = 3 → unitRuns s1 a.toNat = false) →
    w = Nat.land (v.toNat % 256 ^ d.size) (writeMask a.toNat) → descRange s1 a.toNat d w = false → unitRange s1 a.toNat w = false →
    (d.jrn = true → archiveLow s1 = false) → applyShort 4 256 a.toNat w none s1 = (0, u) →
    exec (.dbgAccWrite 1 a v) s = .next { replied .debug a.toNat u with tap := { u.tap with status := 0, data := 0, ir := 0x11, dr := 0 } }) ∧
  (∀ (a : BitVec 40) (n k : Nat) (s : State), s.tap.held = false → valGet s cDbgOpen = 1 → n < 256 → itemKnown k = true → k < 64 →
    a.toNat = n + 256 * k → countsChecked (getPair s (pairOf n)) = false → shownState s n = .halted ∨ shownState s n = .debug →
    awake s (.tile (Fin.ofNat 32 (tileOf n))) →
    exec (.dbgAccRead 2 a) s = .next { s with tap := { s.tap with
      lastAcc := s.up, status := 0, data := (itemRead (getEng s n) k).toNat, ir := 0x11, dr := (itemRead (getEng s n) k).toNat * 2 ^ 48 } }) ∧
  (∀ (a : BitVec 40) (v : Word) (n k : Nat) (s : State), Inv s → s.tap.held = false → valGet s cDbgOpen = 1 → lifecycle s ≠ 2 → n < 256 → k < 24 →
    a.toNat = n + 256 * k → countsChecked (getPair s (pairOf n)) = false → shownState s n = .halted ∨ shownState s n = .debug →
    awake s (.tile (Fin.ofNat 32 (tileOf n))) →
    ∃ t, exec (.dbgAccWrite 2 a v) s = .next t ∧ sameBut [.tap, .eng] s t ∧ engBut [n] s t ∧
      getEng t n = { getEng s n with g := kvSet 0#32 (getEng s n).g k v } ∧ t.tap.status = 0) ∧
  (∀ (a : BitVec 40) (v : Word) (n k : Nat) (s : State), Inv s → s.tap.held = false → valGet s cDbgOpen = 1 → lifecycle s ≠ 2 → n < 256 → k < 24 →
    a.toNat = n + 256 * k → countsChecked (getPair s (pairOf n)) = true → shownState s (mainOf (pairOf n)) = .halted ∨ shownState s (mainOf (pairOf n)) = .debug →
    awake s (.tile (Fin.ofNat 32 (tileOf n))) → (getPair s (pairOf n)).phase = .none → s.mem.wipe = none → (getPair s (pairOf n)).logN < 1407 →
    ∃ t, exec (.dbgAccWrite 2 a v) s = .next t ∧ sameBut [.tap, .eng, .pair, .mem] s t ∧ engBut [mainOf (pairOf n), checkerOf (pairOf n)] s t ∧
      pairBut [pairOf n] s t ∧
      getEng t (mainOf (pairOf n)) = { getEng s (mainOf (pairOf n)) with g := kvSet 0#32 (getEng s (mainOf (pairOf n))).g k v } ∧
      getEng t (checkerOf (pairOf n)) = { getEng s (checkerOf (pairOf n)) with g := kvSet 0#32 (getEng s (checkerOf (pairOf n))).g k v } ∧
      getPair t (pairOf n) = { getPair s (pairOf n) with logN := (getPair s (pairOf n)).logN + 2 } ∧
      recAt t (pairOf n) (getPair s (pairOf n)).logN = ⟨BitVec.ofNat 32 k, 0x0D, (getPair s (pairOf n)).count % 2 ^ 24⟩ ∧
      recAt t (pairOf n) ((getPair s (pairOf n)).logN + 1) = ⟨v, 0x0E, (getPair s (pairOf n)).count % 2 ^ 24⟩ ∧ t.tap.status = 0) ∧
  (∀ (space : Fin 4) (a : BitVec 40) (v : Word) (s : State), s.tap.held = false → valGet s cDbgOpen = 0 →
    exec (.dbgAccRead space a) s = .next { s with tap := { s.tap with lastAcc := s.up, status := 2, data := 0, ir := 0x11, dr := 32 } } ∧
    exec (.dbgAccWrite space a v) s = .next { s with tap := { s.tap with lastAcc := s.up, status := 2, data := 0, ir := 0x11, dr := 32 } }) ∧
  (∀ (s : State), s.tap.held = false → valGet s cDbgOpen = 1 → s.tap.want = none →
    exec (.dbgAccPoll false) s = .next { s with tap := { s.tap with lastAcc := s.up, ir := 0x11, dr := s.tap.status * 16 + s.tap.data * 2 ^ 48 } } ∧
    exec (.dbgAccPoll true) s = .next { s with tap := { s.tap with lastAcc := s.up, status := 6, data := 0, ir := 0x11, dr := 96 } })

/-- From R409, R410, R411, R412, R415, R416: pace control and the power request link. An evaluation records the measured rates and sets the
rail's new target; a READ is sent with the next sequence number; an acknowledgement pairs with its request; a link error sends it again,
and the eighth in a row loses the link and every promise; a confirmation that does not come restores the tile's class. The model's choices
in it: log rows 37, 42. -/
def Obligations.PaceAndThePowerLink : Prop :=
  (∀ (k : Fin 8) (rates : List (BitVec 16)) (s : State), Inv s → noJobs s → railBusy s k = false → s.power.linkLost = false →
    s.power.slow = [] → (∀ i : Nat, i < 4 → (getTile s (4 * k + i)).dom = 0 ∧ valGet s (cTile (4 * k + i) 6) = 0) →
    paceTarget s k (railTiles s k (rates.map fun x => x.toNat)) ≤ valGet s (cVcore k 3) →
    ∃ t, exec (.paceEvaluation k rates) s = .next t ∧ sameBut [.power, .cat] s t ∧
      (∀ i : Nat, i < 4 → valGet t (cTile (4 * k + i) 7) = (rates.map fun x => x.toNat).getD i 0) ∧ valGet t (cVcore k 4) = 0 ∧
      railTarget t k = min 950 (max (railTarget s k - 5) (valGet s (cVcore k 2))) ∧
      t.power.reqs = (if railTarget t k = railTarget s k then s.power.reqs
        else s.power.reqs ++ [⟨k.val, 1, s.power.seq, railTarget t k, 0⟩])) ∧
  (∀ (k : Fin 8) (s : State), railBusy s k = false → s.power.linkLost = false →
    exec (.readVoltage k) s = .next { s with power := { s.power with
      reqs := s.power.reqs ++ [⟨k.val, 2, s.power.seq, 0, 0⟩], seq := (s.power.seq + 1) % 256 } } ∧
    exec (.readCurrent k) s = .next { s with power := { s.power with
      reqs := s.power.reqs ++ [⟨k.val, 3, s.power.seq, 0, 0⟩], seq := (s.power.seq + 1) % 256 } } ∧
    exec (.readPhaseState k) s = .next { s with power := { s.power with
      reqs := s.power.reqs ++ [⟨k.val, 4, s.power.seq, 0, 0⟩], seq := (s.power.seq + 1) % 256 } }) ∧
  (∀ (k : Fin 8) (q : Fin 256) (v : BitVec 14) (s : State) (x : LinkReq), Inv s → x ∈ s.power.reqs → x.rail = k → x.seq = q → x.op = 1 →
    ∃ t, exec (.linkAcknowledgement k q 0 v) s = .next t ∧ sameBut [.power, .cat] s t ∧ valsBut [cVcore k 5] s t ∧
      t.power = { s.power with reqs := s.power.reqs.erase x, errRun := 0, acked := t.power.acked } ∧ railMv t k = v.toNat ∧
      (∀ j : Nat, j ≠ k.val → railMv t j = railMv s j) ∧ valGet t (cVcore k 5) = (valGet s (cVcore k 5) + 1) % 2 ^ 32) ∧
  (∀ (k : Fin 8) (q : Fin 256) (res : Fin 4) (v : BitVec 14) (s : State) (x : LinkReq), Inv s → x ∈ s.power.reqs → x.rail = k → x.seq = q → x.op ≠ 1 →
    exec (.linkAcknowledgement k q res v) s =
      .next { s with power := { s.power with reqs := s.power.reqs.erase x, errRun := 0, read := some (k.val, x.op, v.toNat) } }) ∧
  (∀ (k : Fin 8) (s : State) (x : LinkReq), Inv s → x ∈ s.power.reqs → x.rail = k → s.power.linkLost = false → s.power.errRun < 7 →
    exec (.linkError k) s = .next (bump (callNo 0x1200 0x0A) 1 32 { s with power := { s.power with
      reqs := s.power.reqs.map fun y => if y = x then { y with errors := y.errors + 1 } else y, errRun := s.power.errRun + 1 } })) ∧
  (∀ (k : Fin 8) (s : State) (x : LinkReq), Inv s → x ∈ s.power.reqs → x.rail = k → s.power.linkLost = false → s.power.errRun = 7 →
    ∃ t, exec (.linkError k) s = .next t ∧ t.power.linkLost = true ∧ (∀ i : Nat, i < 7 → promiseBit t i = false) ∧ t.boot.stopped = true ∧
      (∀ n : Nat, n < 256 → (getEng t n).st ≠ .running ∧ (getEng t n).st ≠ .held ∧ (getEng t n).st ≠ .armed)) ∧
  (∀ (t : Fin 32) (s : State) (old at_ : Nat), Inv s → s.svc.queue = [] → s.svc.waiting = none → s.svc.unloads = [] → s.power.asks = [(t.val, old, at_)] →
    at_ + 1600000 ≤ s.up → (getTile s t).waiting = [] →
    ∃ u, exec (.paceConfirmTimeout t) s = .next u ∧ sameBut [.power, .cat] s u ∧ valsBut [cTile t 6] s u ∧ valGet u (cTile t 6) = old ∧
      u.power = { s.power with asks := [] })

/-- From R253, R417, R418, R419, R420, R421: the domains. A request for retention begins the entry, the commit point and the end of the save
complete it; off loses the domain's contents; a wake event cancels the quiesce phase or wakes the domain, and an on command wakes or fills
it; an idle timer requests retention. The model's choices in it: log rows 26, 42. -/
def Obligations.DomainsSleepAndWake : Prop :=
  (∀ (r : Route) (d : Dom) (s : State), serves s r (domCall d) → domRefused s d false = false → domGet s d = 0 → entryGet s d = 0 →
    exec (.domainRetention r d) s = .next (replied r (domCall d) (entryPut d 1 s))) ∧
  (∀ (r : Route) (d : Dom) (s : State), serves s r (domCall d) → domRefused s d true = false → entryGet s d = 0 → Inv s → (∀ k, d ≠ .tile k) →
    ∃ t, exec (.domainOff r d) s = .next t ∧ answeredOnly r (domCall d) s t ∧ sameBut [.cat, .power, .mem] s t ∧ domGet t d = 2 ∧
      (∀ b : Fin 256, d = .bank b → ∀ a : Nat, a < 65536 → kvGet 0#8 t.mem.bytes (paShelf + 65536 * b + a) = 0#8) ∧
      (∀ b : Fin 256, d = .bank b → ∀ a : Nat, (a < paShelf + 65536 * b ∨ paShelf + 65536 * (b + 1) ≤ a) → kvGet 0#8 t.mem.bytes a = kvGet 0#8 s.mem.bytes a)) ∧
  (∀ (r : Route) (k : Fin 32) (s : State), serves s r (domCall (.tile k)) → domRefused s (.tile k) true = false → entryGet s (.tile k) = 0 → Inv s →
    ∃ t, exec (.domainOff r (.tile k)) s = .next t ∧ answered r (domCall (.tile k)) t ∧
      sameBut [.cat, .power, .tile, .eng, .pair, .time, .log, .host] s t ∧ tileBut [k.val] s t ∧ getTile t k = { getTile s k with dom := 2 } ∧
      (∀ e : Nat, e < 8 → (getEng s (8 * k + e)).st ≠ .fused → getEng t (8 * k + e) = Engine.fresh)) ∧
  (∀ (r : Route) (d : Dom) (s : State), serves s r (domCall d) → domGet s d = 1 → entryGet s d = 0 →
    exec (.domainOn r d) s = .next (replied r (domCall d) (domPut d 3 s))) ∧
  (∀ (r : Route) (d : Dom) (s : State), serves s r (domCall d) → domGet s d = 2 →
    exec (.domainOn r d) s = .next (replied r (domCall d) (domPut d 3 (match d with
      | .dev _ => s
      | _ => { s with power := { s.power with filling := s.power.filling ++ [domKey d] } })))) ∧
  (∀ (d : Dom) (s : State), entryGet s d = 1 → Inv s →
    ∃ t, exec (.retentionCommitPoint d) s = .next t ∧ sameBut [.power, .mem, .tile, .time, .cat, .log, .host, .eng, .pair] s t ∧ domGet t d = 1 ∧
      entryGet t d = 2 ∧ t.mem.bytes = s.mem.bytes ∧ ((∀ k, d ≠ .tile k) → sameBut [.power, .mem] s t) ∧ (∀ k, d = .tile k → tileBut [k.val] s t)) ∧
  (∀ (d : Dom) (s : State), entryGet s d = 2 → domKey d ∉ s.power.offNext → domKey d ∉ s.power.wakeNext →
    exec (.retentionSaveComplete d) s = .next (entryPut d 0 s)) ∧
  (∀ (d : Dom) (s : State), entryGet s d = 2 → domKey d ∉ s.power.offNext → domKey d ∈ s.power.wakeNext → Inv s →
    ∃ t, exec (.retentionSaveComplete d) s = .next t ∧ sameBut [.power, .mem, .tile, .time, .cat, .log, .host, .eng, .pair] s t ∧ domGet t d = 3 ∧
      entryGet t d = 0 ∧ t.power.wakeNext = s.power.wakeNext.erase (domKey d) ∧ t.mem.bytes = s.mem.bytes ∧
      ((∀ k, d ≠ .tile k) → sameBut [.power, .mem] s t) ∧ (∀ k, d = .tile k → tileBut [k.val] s t)) ∧
  (∀ (d : Dom) (s : State), entryGet s d = 0 → domGet s d = 1 → exec (.wakeEvent d) s = .next (domPut d 3 s)) ∧
  (∀ (d : Dom) (s : State), entryGet s d = 1 → exec (.wakeEvent d) s = .next (entryPut d 0 s)) ∧
  (∀ (d : Dom) (s : State), entryGet s d = 2 → domKey d ∉ s.power.wakeNext →
    exec (.wakeEvent d) s = .next { s with power := { s.power with wakeNext := s.power.wakeNext ++ [domKey d] } }) ∧
  (∀ (k : Fin 32) (s : State), Inv s → noJobs s → (getTile s k).dom = 3 → domKey (.tile k) ∉ s.power.filling → (getTile s k).waiting = [] → domKey (.tile k) ∉ s.power.retNext → s.ledger.waits = [] →
    ∃ t, exec (.wakeComplete (.tile k)) s = .next t ∧ sameBut [.tile, .cat, .power] s t ∧ tileBut [k.val] s t ∧ valsBut [cTile k 0x14] s t ∧
      getTile t k = { getTile s k with dom := 0, lock := false, lost := false, relock := true, paceOk := false } ∧
      valGet t (cTile k 0x14) = (valGet s (cTile k 0x14) + 1) % 2 ^ 32 ∧
      t.power = { s.power with confirm := kvSet 0 s.power.confirm k.val 0 }) ∧
  (∀ (b : Fin 256) (s : State), Inv s → noJobs s → domGet s (.bank b) = 3 → domKey (.bank b) ∈ s.power.filling → domKey (.bank b) ∉ s.power.retNext →
    ∃ t, exec (.domainFillComplete (.bank b)) s = .next t ∧ sameBut [.mem, .power] s t ∧ domGet t (.bank b) = 0 ∧
      t.power = { s.power with filling := s.power.filling.erase (domKey (.bank b)) } ∧
      (∀ a : Nat, a < 65536 → kvGet 0#8 t.mem.bytes (paShelf + 65536 * b + a) = 0#8)) ∧
  (∀ (d : Dom) (s : State), idleSetting s d ≠ 0 → domIdle s d = true → domRefused s d false = false → domGet s d = 0 → entryGet s d = 0 →
    exec (.idleTimerExpiry d) s = .next (entryPut d 1 s))

/-- From R33, R407, R422, R423: faults of the supply. The first failed phase is replaced by the spare with event 0x73; a second one, a linear
regulator and any part that is not single end every promise and stop the engines; a broken rating lapses PACE and its return restores it;
a warm junction is logged. The model's choices in it: log row 42. -/
def Obligations.SupplyFaultsAndRatings : Prop :=
  (∀ (p : Fin 13) (mv : Nat) (s : State), p ≠ 0 → s.power.failed = [] →
    ∃ t, exec (.phaseFailure p mv) s = .next t ∧ sameBut [.power, .cat, .log, .host] s t ∧ t.power = { s.power with failed := [p.val] } ∧
      valsBut [callNo 0x1200 5] s t ∧ valGet t (callNo 0x1200 5) = p ∧ logged 0x73 false p (phaseRail p) s t) ∧
  (∀ (p : Fin 13) (mv : Nat) (s : State), p ≠ 0 → Inv s → s.power.failed ≠ [] → p.val ∉ s.power.failed →
    ∃ t, exec (.phaseFailure p mv) s = .next t ∧ (∀ i : Nat, i < 7 → promiseBit t i = false) ∧ t.boot.stopped = true ∧
      (∀ n : Nat, n < 256 → (getEng t n).st ≠ .running ∧ (getEng t n).st ≠ .held ∧ (getEng t n).st ≠ .armed) ∧
      t.power.failed = s.power.failed ++ [p.val]) ∧
  (∀ (w : Fin 34) (v : Nat) (s : State), Inv s → w.val ∉ s.power.broken → promiseBit s 6 = true →
    ∃ t, exec (.ratingBreach w v) s = .next t ∧ sameBut [.power, .cat, .log, .host] s t ∧ t.power = { s.power with broken := s.power.broken ++ [w.val] } ∧
      promiseBit t 6 = false ∧ t.log.count = (s.log.count + 2) % 2 ^ 32 ∧ (newestEvent t).head % 65536 = 0x134) ∧
  (∀ (w : Fin 34) (v : Nat) (s : State), Inv s → s.power.broken = [w.val] → s.power.slow = [] → promiseBit s 6 = false → 6 ∈ s.log.lapsed → s.boot.stopped = false →
    ∃ t, exec (.ratingRestored w v) s = .next t ∧ sameBut [.power, .cat, .log, .host] s t ∧ t.power = { s.power with broken := [] } ∧
      promiseBit t 6 = true ∧ t.log.count = (s.log.count + 2) % 2 ^ 32 ∧ (newestEvent t).head % 65536 = 0x34) ∧
  (∀ (k : Fin 32) (s : State),
    ∃ t, exec (.junctionWarning k) s = .next t ∧ sameBut [.cat, .log, .host, .drawn] s t ∧ t.log.count = (s.log.count + 1) % 2 ^ 32 ∧
      (newestEvent t).head % 2 ^ 32 = 0x74 + k * 65536) ∧
  (∀ (w : Fin 2) (mv : Nat) (s : State), Inv s →
    ∃ t, exec (.linearRegulatorFault w mv) s = .next t ∧ (∀ i : Nat, i < 7 → promiseBit t i = false) ∧ t.boot.stopped = true ∧
      (∀ n : Nat, n < 256 → (getEng t n).st ≠ .running ∧ (getEng t n).st ≠ .held ∧ (getEng t n).st ≠ .armed)) ∧
  (∀ (s : State), Inv s →
    ∃ t, exec .nonSinglePartFault s = .next t ∧ (∀ i : Nat, i < 7 → promiseBit t i = false) ∧ t.boot.stopped = true ∧
      (∀ n : Nat, n < 256 → (getEng t n).st ≠ .running ∧ (getEng t n).st ≠ .held ∧ (getEng t n).st ≠ .armed))

/-- From R252, R263, R397, R424, R425, R426, R428, R429, R431, R436: start-up. VIN valid samples BOOT_MODE; the rails, the fuses, the
injection and the shelf fill follow in order; the valid firmware with the higher version runs, or a host image; then the catalogue is
ready. The model's choices in it: log row 43. -/
def Obligations.StartUpRunsInOrder : Prop :=
  (∀ (mode : Fin 4) (s : State), s.boot.vin = false →
    ∃ t, exec (.vinValid mode) s = .next t ∧ sameBut [.boot, .cat] s t ∧ valsBut [callNo 0x1510 2] s t ∧ valGet t (callNo 0x1510 2) = mode ∧
      t.boot = { s.boot with vin := true, startAt := s.up, stage := 1 }) ∧
  (∀ (s : State), s.boot.vin = true → stepDone s 0 = false →
    exec .railsInBand s = .next { s with boot := { s.boot with steps := s.boot.steps + 1, stage := 2 } }) ∧
  (∀ (s : State), Inv s → stepDone s 0 = true → stepDone s 1 = false →
    ∃ t, exec .fuseLoadComplete s = .next t ∧ sameBut [.boot, .eng, .pair, .mem, .cat, .log, .host] s t ∧
      t.boot = { s.boot with steps := s.boot.steps + 2, stage := if s.boot.fuseLc = 4 then 0x0A else 3 } ∧
      (∀ n ∈ s.boot.fusedEng, (getEng t n).st = .fused ∧ (getPair t (pairOf n)).st = .fused) ∧
      engBut s.boot.fusedEng s t ∧
      (s.boot.repairBad = true → t.mem = s.mem ∧ t.cat = s.cat ∧ logged 0x86 false 0 0 s t) ∧
      (s.boot.repairBad = false → t.mem = { s.mem with cols := s.mem.cols ++ s.boot.repairList.map fun x => (x.1, x.2, false) } ∧
        t.log = s.log ∧ t.host = s.host ∧ (s.boot.repairList = [] → t.cat = s.cat))) ∧
  (∀ (s : State), stepDone s 1 = true → stepDone s 2 = false → s.boot.fuseLc ≠ 4 →
    exec (.injectionComplete []) s = .next { s with boot := { s.boot with steps := s.boot.steps + 4, stage := 4 } }) ∧
  (∀ (m : Fin 128) (lane : Fin 256) (s : State), Inv s → stepDone s 1 = true → stepDone s 2 = false → s.boot.fuseLc ≠ 4 → (getPair s m).st ≠ .fused →
    ∃ t, exec (.injectionComplete [(m, lane)]) s = .next t ∧ sameBut [.boot, .pair, .log, .host] s t ∧ pairBut [m.val] s t ∧
      getPair t m = { getPair s m with st := .out } ∧ logged 0x21 true m lane s t ∧ t.boot = { s.boot with steps := s.boot.steps + 4, stage := 4 }) ∧
  (∀ (s : State), stepDone s 2 = true → stepDone s 3 = false →
    ∃ t, exec .shelfInitComplete s = .next t ∧ sameBut [.boot, .mem] s t ∧
      t.boot = { s.boot with steps := s.boot.steps + 8, stage := romStage s } ∧
      (∀ a : Nat, kvGet 0#8 t.mem.bytes a = if paShelf ≤ a ∧ a < paRom then 0#8 else kvGet 0#8 s.mem.bytes a) ∧
      (∀ w ∈ t.mem.bad, w ∈ s.mem.bad ∧ ¬(paShelf ≤ 8 * w ∧ 8 * w < paRom))) ∧
  (∀ (s : State), s.boot.stage = 5 → stepDone s 3 = true → stepDone s 4 = false → deviceHeld s = false → fwReason s s.boot.slot0 = 0 →
    fwReason s s.boot.slot1 = 0 → fieldAt s.boot.slot1 4 4 ≤ fieldAt s.boot.slot0 4 4 →
    ∃ t, exec .firmwareVerified s = .next t ∧ sameBut [.boot, .cat] s t ∧ t.boot = { s.boot with running := true, steps := s.boot.steps + 16, stage := 6 } ∧
      valGet t (callNo 0x1030 2) = 0 ∧ valGet t (callNo 0x1030 3) = fieldAt s.boot.slot0 4 4 ∧ valGet t (callNo 0x1030 5) = 0) ∧
  (∀ (s : State), s.boot.stage = 5 → stepDone s 3 = true → deviceHeld s = false → fwReason s s.boot.slot0 ≠ 0 → fwReason s s.boot.slot1 ≠ 0 →
    ∃ t, exec .firmwareVerified s = .next t ∧ sameBut [.boot, .cat, .log, .host] s t ∧ t.boot = { s.boot with stage := 9 } ∧
      valGet t (callNo 0x1030 5) = fwReason s s.boot.slot0 + 256 * fwReason s s.boot.slot1 ∧ t.log.count = (s.log.count + 2) % 2 ^ 32) ∧
  (∀ (s : State), s.boot.stage = 9 → s.boot.hostEnd = true → stepDone s 3 = true → stepDone s 4 = false → deviceHeld s = false →
    fwReason s s.boot.hostImg = 0 →
    ∃ t, exec .hostBootImage s = .next t ∧ sameBut [.boot, .cat] s t ∧
      t.boot = { s.boot with hostImg := [], hostEnd := false, running := true, steps := s.boot.steps + 16, stage := 6 } ∧
      valGet t (callNo 0x1030 2) = 2 ∧ valGet t (callNo 0x1030 3) = fieldAt s.boot.hostImg 4 4) ∧
  (∀ (s : State), s.boot.stage = 9 → s.boot.hostEnd = true → stepDone s 3 = true → deviceHeld s = false → fwReason s s.boot.hostImg ≠ 0 →
    exec .hostBootImage s = .next { s with boot := { s.boot with hostImg := [], hostEnd := false } }) ∧
  (∀ (s : State), s.boot.running = true → stepDone s 5 = true → s.cat.ready = false → deviceHeld s = false → valGet s (callNo 0x1900 8) = 1 →
    valGet s (callNo 0x1000 8) ≠ 1 → noJobs s → s.pins.stopN = true → s.pins.stop = false → (∀ m : Nat, m < 128 → autoId s m = 0) → valGet s (cRing 0 1) = 0 →
    valGet s (cRing 1 1) = 0 →
    ∃ t, exec .catalogueReady s = .next t ∧ sameBut [.cat, .ledger, .boot, .log, .host] s t ∧ t.cat.ready = true ∧
      t.ledger = { s.ledger with ready := true } ∧ t.boot = { s.boot with stage := 7 } ∧
      valGet t (callNo 0x1030 4) = (s.up - s.boot.startAt) / 4000000 ∧
      (newestEvent t).head = 0x80 + (valGet s (callNo 0x1000 8) % 65536) * 65536 + ((s.up - s.boot.startAt) / 4000000 % 2 ^ 32) * 2 ^ 32)

/-- From R397, R424, R433, R435, R442: resets. A power-on reset keeps what lies in fuses and on the archive die; a device reset by RESET_N,
device.cmd or the watchdog keeps memory, the supply and the kept entries and starts the rest anew; the release of RESET_N samples
BOOT_MODE. The model's choices in it: log row 43. -/
def Obligations.ResetsOfTheDevice : Prop :=
  (∀ (s : State), ∃ t, exec .undervoltageReset s = .next t ∧ t.pending = s.pending ∧ t.eng = [] ∧ t.pair = [] ∧ t.tile = [] ∧ t.mem.bytes = [] ∧
    t.mem.cols = s.mem.cols.filter (fun c => c.2.2) ∧ t.cat = CatSt.reset ∧ t.log = LogSt.reset ∧ t.ledger = LedgerSt.reset ∧ t.ring = [] ∧
    t.net = NetSt.reset ∧ t.xfer = XferSt.reset ∧ t.host = HostSt.reset ∧ t.power = PowerSt.reset ∧ t.svc = SvcSt.none ∧
    t.arch.journal = s.arch.journal.filter (fun y => !s.arch.erasing.contains y.block) ∧ t.arch.queue = [] ∧ t.arch.prog = [] ∧
    t.arch.head = s.arch.head ∧ t.arch.headUsed = s.arch.headUsed ∧ t.arch.free = s.arch.free ∧
    t.arch.erases = s.arch.erases ∧ t.arch.retired = s.arch.retired ∧ t.arch.spares = s.arch.spares ∧
    (∀ b, b ∉ s.arch.erasing → kvGet none t.arch.heads b = kvGet none s.arch.heads b) ∧
    t.boot = { BootSt.reset with
      fuseLc := s.boot.fuseLc, keyHash := s.boot.keyHash, rollback := s.boot.rollback, fusedEng := s.boot.fusedEng, repairList := s.boot.repairList
      repairBad := s.boot.repairBad, slot0 := s.boot.slot0, slot1 := s.boot.slot1, serial := s.boot.serial
      nonce := Config.nonce s.boot.nonces, nonces := s.boot.nonces + 1 }) ∧
  (∀ (s : State), Inv s → s.boot.held = false →
    ∃ t, exec .resetN s = .next t ∧ DeviceReset 2 s t ∧ t.boot.held = true ∧ t.pending = s.pending) ∧
  (∀ (r : Route) (s : State), Inv s → serves s r (callNo 0x1000 9) →
    ∃ t, exec (.warmReset r) s = .next t ∧ DeviceReset 3 s t ∧ answered r (callNo 0x1000 9) t ∧ t.boot.held = s.boot.held) ∧
  (∀ (s : State), Inv s → s.boot.running = true →
    ∃ t, exec .watchdogExpiry s = .next t ∧ DeviceReset 4 (logEvent 0x85 false 0 0 0 s) t) ∧
  (∀ (mode : Fin 4) (s : State), s.boot.held = true → s.boot.steps % 16 = 15 →
    ∃ t, exec (.resetNRelease mode) s = .next t ∧ sameBut [.boot, .cat] s t ∧ valGet t (callNo 0x1510 2) = mode ∧
      t.boot = { s.boot with held := false, startAt := s.up, stage := romStage t })

/-- From R436, R437, R438, R439: the life cycle. A command that passes its checks replaces the nonce and waits for its commit, ADVANCE raises
the rollback number at once; the commit makes the new state, starts a wipe, closes debug access and logs event 0x82. The model's choices
in it: log rows 44, 51. -/
def Obligations.LifeCycleCommands : Prop :=
  (∀ (r : Route) (x : LcFields) (s : State), serves s r (callNo 0x1030 7) → routeNo r ≠ 0 → lifecycle s = 0 →
    lcCode s (lcBytes 1 x.value.toNat x.nonce x.serial x.sig x.resv) = 0 →
    exec (.provision r x) s = .next (replied r (callNo 0x1030 7) { s with
      boot := { s.boot with nonce := Config.nonce s.boot.nonces, nonces := s.boot.nonces + 1, lcPending := some (lifecycle s, 1) } })) ∧
  (∀ (r : Route) (x : LcFields) (s : State), serves s r (callNo 0x1030 7) → routeNo r ≠ 0 → lifecycle s = 1 ∨ lifecycle s = 3 →
    lcCode s (lcBytes 2 x.value.toNat x.nonce x.serial x.sig x.resv) = 0 →
    exec (.field r x) s = .next (replied r (callNo 0x1030 7) { s with
      boot := { s.boot with nonce := Config.nonce s.boot.nonces, nonces := s.boot.nonces + 1, lcPending := some (lifecycle s, 2) },
      arch := { s.arch with
        queue := s.arch.queue ++ [mkRec 1 false (callNo 0x1000 7) s.arch.nextSeq [6#8, 1#8, 0#8, 2#8] s.up], nextSeq := s.arch.nextSeq + 1 } })) ∧
  (∀ (r : Route) (x : LcFields) (s : State), serves s r (callNo 0x1030 7) → routeNo r ≠ 0 → lifecycle s = 2 →
    lcCode s (lcBytes 3 x.value.toNat x.nonce x.serial x.sig x.resv) = 0 →
    exec (.service r x) s = .next (replied r (callNo 0x1030 7) { s with
      boot := { s.boot with nonce := Config.nonce s.boot.nonces, nonces := s.boot.nonces + 1, lcPending := some (lifecycle s, 3) },
      arch := { s.arch with
        queue := s.arch.queue ++ [mkRec 1 false (callNo 0x1000 7) s.arch.nextSeq [6#8, 1#8, 0#8, 3#8] s.up], nextSeq := s.arch.nextSeq + 1 } })) ∧
  (∀ (r : Route) (x : LcFields) (s : State), serves s r (callNo 0x1030 7) → routeNo r ≠ 0 → lifecycle s ≠ 4 →
    lcCode s (lcBytes 4 x.value.toNat x.nonce x.serial x.sig x.resv) = 0 →
    exec (.retire r x) s = .next (replied r (callNo 0x1030 7) { s with
      boot := { s.boot with nonce := Config.nonce s.boot.nonces, nonces := s.boot.nonces + 1, lcPending := some (lifecycle s, 4) } })) ∧
  (∀ (r : Route) (x : LcFields) (s : State), serves s r (callNo 0x1030 7) → routeNo r ≠ 0 →
    lcCode s (lcBytes 5 x.value.toNat x.nonce x.serial x.sig x.resv) = 0 →
    s.boot.rollback < x.value.toNat ∧ exec (.advance r x) s = .next (replied r (callNo 0x1030 7) { s with
      boot := { s.boot with nonce := Config.nonce s.boot.nonces, nonces := s.boot.nonces + 1, rollback := x.value.toNat } })) ∧
  (∀ (s : State) (old dst : Nat), s.boot.lcPending = some (old, dst) → (dst = 2 ∨ dst = 3 → entryWaits s (callNo 0x1000 7) = false) → dst < 5 →
    ∃ t, exec .lifecycleCommit s = .next t ∧ t.boot.lcPending = none ∧ t.mem.wipe = some (s.mem.wipe.getD 4) ∧ valGet t cDbgOpen = 0 ∧
      (newestEvent t).head = 0x82 + (old % 65536) * 65536 + dst * 2 ^ 32 ∧
      (dst = 1 → t.boot.fuseLc = 1) ∧ (dst = 2 ∨ dst = 3 → valGet t (callNo 0x1000 7) = dst) ∧
      (dst = 4 → t.boot.fuseLc = 4 ∧ t.boot.slot0 = [] ∧ t.boot.slot1 = [] ∧ t.arch.journal = [] ∧ t.svc.stored = [])) ∧
  (∀ (s : State) (old dst : Nat), s.boot.lcPending = none ∨ (s.boot.lcPending = some (old, dst) ∧ (dst = 2 ∨ dst = 3) ∧
    entryWaits s (callNo 0x1000 7) = true) → exec .lifecycleCommit s = .next s)

/-- From R440, R441, R442: tamper. A source that fires wipes, closes debug access, is counted, timed and logged with event 0x84; with
tamper.action 1 the engines stop and no START is taken; a write of tamper.state clears the bits written whose condition has ended. The
model's choices in it: log row 25. -/
def Obligations.TamperIsAnswered : Prop :=
  (∀ (k : Fin 3) (s : State), Inv s → stepDone s 1 = true → valGet s (callNo 0x1040 2) = 0 →
    ∃ t, exec (.tamperEvent k) s = .next t ∧ sameBut [.pair, .eng, .mem, .cat, .log, .host, .xfer, .boot, .arch] s t ∧
      (s.mem.wipe = none ∨ s.mem.wipe = some 4 → t.mem.wipe = some (k.val + 1)) ∧ (∀ w, s.mem.wipe = some w → w ≠ 4 → t.mem.wipe = some w) ∧
      valGet t cDbgOpen = 0 ∧ (valGet t (callNo 0x1040 1)).testBit k = true ∧ valGet t (callNo 0x1040 3) = s.now ∧
      valGet t (callNo 0x1510 9) = (valGet s (callNo 0x1510 9) + 1) % 2 ^ 32 ∧
      (newestEvent t).head = 0x184 + (k + 1) * 65536 + ((valGet s (callNo 0x1510 9) + 1) % 2 ^ 32) * 2 ^ 32 ∧
      t.boot = { s.boot with lcPending := none } ∧
      (∀ old dst, s.boot.lcPending = some (old, dst) → dst = 2 ∨ dst = 3 →
        mkRec 1 false (callNo 0x1000 7) s.arch.nextSeq [6#8, 1#8, 0#8, BitVec.ofNat 8 old] s.up ∈ t.arch.queue) ∧
      (noRestart s → ∀ n, (getEng t n).st = (getEng s n).st)) ∧
  (∀ (k : Fin 3) (s : State), Inv s → stepDone s 1 = true → valGet s (callNo 0x1040 2) = 1 →
    ∃ t, exec (.tamperEvent k) s = .next t ∧ t.boot = { s.boot with lcPending := none, tamperStop := true } ∧ t.pins.stop = true ∧
      (s.mem.wipe = none ∨ s.mem.wipe = some 4 → t.mem.wipe = some (k.val + 1)) ∧ valGet t cDbgOpen = 0 ∧
      (valGet t (callNo 0x1040 1)).testBit k = true ∧ valGet t (callNo 0x1510 9) = (valGet s (callNo 0x1510 9) + 1) % 2 ^ 32 ∧
      (∀ n : Nat, n < 256 → (getEng t n).st ≠ .running ∧ (getEng t n).st ≠ .held ∧ (getEng t n).st ≠ .armed)) ∧
  (∀ (r : Route) (v : Byte) (s : State), serves s r (callNo 0x1040 1) →
    ∃ t, exec (.tamperStateClear r v) s = .next t ∧ sameBut [.cat, .log, .host, .drawn] s t ∧ answered r (callNo 0x1040 1) t ∧
      valsBut [callNo 0x1040 1] s t ∧
      (∀ i : Nat, i < 3 → (valGet t (callNo 0x1040 1)).testBit i = ((valGet s (callNo 0x1040 1)).testBit i &&
        !(v.toNat.testBit i && !(Config.sensor (callNo 0x1040 1) s.drawn).testBit i))))

/-- From R445, R446, R448, R449, R450, R453, R454, R461, R462: service jobs. A command that svc.cmd takes occupies its slot: a LOAD places a
folio that passes every check, UNLOAD removes it, STORE and DELETE journal a stored folio, CUTOVER arms its plan and is checked again at
its deadline, CANCEL ends an armed job, FWBEGIN and FWCOMMIT write the slot that is not running. The model's choices in it: log rows 45,
46, 47. -/
def Obligations.ServiceJobs : Prop :=
  (∀ (r : Route) (x : SvcFields) (s s2 s3 : State) (b : List Byte) (o h : Nat), Inv s → svcFree s r 1 x → x.source.toNat ≤ 7 ∨ x.source.toNat = 255 →
    b = loadImage (atLoader 1 x s) (svcOf 1 x) → h = (if x.half then 1 else 0) → o = ownerOf s x.subject h → b ≠ [] → fhdrBad b = none →
    (fhdr b).length ≤ b.length → fsigBad (atLoader 1 x s) b = false → fdigestBad b = false → prepare o (fsects b (fhdr b)) (atLoader 1 x s) = (true, s2) →
    declBad b (fhdr b) = false → declPace b (fhdr b) ∈ [16, 23, 30, 36] → confirmAsk (ownerTile o) (declPace b (fhdr b)) s2 = (true, s3) →
    loadRefusal s3 x.job o x.base x.bias.toNat h b = none →
    ∃ t u, exec (.load r x) s = .next (replied r (callNo 0x1050 1) t) ∧
      u = placeFolio o x.base x.bias.toNat b ((placeSects s3 (poolUsed s3 o) (fsects b (fhdr b))).getD []) s3 ∧
      sameBut [.svc] u t ∧ t.svc = { u.svc with jobs := t.svc.jobs, waiting := none } ∧
      getJob t x.job = { Job.free with
        st := if x.at_ = 0 then 4 else 3, cmd := svcOf 1 x, subject := x.subject, progress := 10000, position := loadTotal b, at_ := x.at_.toNat } ∧
      (∀ j : Nat, j ≠ x.job.val → getJob t j = getJob s j)) ∧
  (∀ (r : Route) (x : SvcFields) (s : State), Inv s → svcFree s r 1 x → x.source.toNat ≤ 7 → kvGet [] s.svc.stages x.source.toNat = [] →
    ∃ t, exec (.load r x) s = .next t ∧ sameBut [.svc, .cat] s t ∧ answeredOnly r (callNo 0x1050 1) s t ∧
      getJob t x.job = { Job.free with st := 5, code := 0x16, cmd := svcOf 1 x, subject := x.subject } ∧ (∀ j : Nat, j ≠ x.job.val → getJob t j = getJob s j)) ∧
  (∀ (r : Route) (x : SvcFields) (s : State) (f : Folio), Inv s → svcFree s r 2 x → (∀ j : Nat, (getJob s j).st ≠ 3) → pairCode s x.subject = 0 →
    s.svc.folios.find? (fun y => y.owner == x.subject.val) = some f → (∀ y ∈ s.svc.folios, y.owner ≠ 128 + 2 * x.subject.val ∧ y.owner ≠ 129 + 2 * x.subject.val) →
    (∀ e ∈ s.cat.folio, ∀ n : Nat, e.call ≠ cEng n 0x0B) →
    ∃ t, exec (.unload r x) s = .next t ∧ sameBut [.svc, .cat, .eng, .log, .host] s t ∧ answered r (callNo 0x1050 1) t ∧
      t.svc.folios = s.svc.folios.filter (fun y => y.owner != x.subject.val) ∧
      t.cat.folio = (s.cat.folio.filter fun e => !(e.owners.all fun w => w == x.subject.val)).map
        (fun e => { e with owners := e.owners.filter fun w => w != x.subject.val }) ∧
      engBut [mainOf x.subject, checkerOf x.subject] s t ∧ valGet t (cEng (mainOf x.subject) 0x0B) = 0 ∧ valGet t (cEng (checkerOf x.subject) 0x0B) = 0 ∧
      (getEng t (mainOf x.subject)).pmem = (progPuts f.base (List.replicate f.plen idleBundle) (getEng s (mainOf x.subject))).pmem ∧
      (getEng t (checkerOf x.subject)).pmem = (progPuts f.base (List.replicate f.plen idleBundle) (getEng s (checkerOf x.subject))).pmem ∧
      getJob t x.job = { Job.free with st := 4, cmd := svcOf 2 x, subject := x.subject, progress := 10000 }) ∧
  (∀ (r : Route) (x : SvcFields) (s : State), Inv s → svcFree s r 3 x → x.source.toNat ≤ 7 → kvGet [] s.svc.stages x.source.toNat ≠ [] →
    archiveLow s = false →
    ∃ t, exec (.store r x) s = .next t ∧ sameBut [.svc, .arch, .cat] s t ∧ answeredOnly r (callNo 0x1050 1) s t ∧
      kvGet [] t.svc.stored x.folio.toNat = kvGet [] s.svc.stages x.source.toNat ∧ t.svc.stages = s.svc.stages ∧
      getJob t x.job = { Job.free with st := 4, cmd := svcOf 3 x, progress := 10000 }) ∧
  (∀ (r : Route) (x : SvcFields) (s : State), Inv s → svcFree s r 4 x → kvGet [] s.svc.stored x.folio.toNat ≠ [] →
    (∀ m : Nat, m < 128 → autoId s m ≠ x.folio.toNat) → archiveLow s = false →
    ∃ t, exec (.delete r x) s = .next t ∧ sameBut [.svc, .arch, .cat] s t ∧ answeredOnly r (callNo 0x1050 1) s t ∧
      t.svc.stored = kvSet [] s.svc.stored x.folio.toNat [] ∧
      t.arch.queue = s.arch.queue ++ [mkRec 2 false x.folio.toNat s.arch.nextSeq [] s.up] ∧
      getJob t x.job = { Job.free with st := 4, cmd := svcOf 4 x, progress := 10000 }) ∧
  (∀ (r : Route) (x : SvcFields) (s : State), Inv s → svcFree s r 5 x → s.now + 400000 ≤ x.at_.toNat →
    planBad (atLoader 5 x s) x.job (longGet s (callNo 0x1050 5)) = none →
    (∀ m ∈ planIn (longGet s (callNo 0x1050 5)), tileDom s (pairTile m) = 0 ∧ valGet s (cTile (pairTile m) 6) = 0) →
    ∃ t, exec (.cutover r x) s = .next t ∧ sameBut [.svc, .cat] s t ∧ answeredOnly r (callNo 0x1050 1) s t ∧
      getJob t x.job = { Job.free with st := 3, cmd := svcOf 5 x, at_ := x.at_.toNat, plan := longGet s (callNo 0x1050 5) }) ∧
  (∀ (j : Fin 16) (s : State), Inv s → (getJob s j).st = 3 → (getJob s j).cmd.cmd = 5 → (getJob s j).checked = false →
    markFrom s (getJob s j).at_ ≠ 0 → markFrom s (getJob s j).at_ ≤ s.now + 80000 → planBad s j (getJob s j).plan = none →
    ∃ t, exec (.cutoverArmingDeadline j) s = .next t ∧ sameBut [.svc] s t ∧ getJob t j = { getJob s j with checked := true } ∧
      (∀ k : Nat, k ≠ j.val → getJob t k = getJob s k)) ∧
  (∀ (r : Route) (x : SvcFields) (s : State), Inv s → svcFree s r 6 x → x.subject.val % 16 ≠ x.job → (getJob s (x.subject.val % 16)).st = 3 →
    (getJob s (x.subject.val % 16)).cmd.cmd = 1 →
    ∃ t, exec (.cancel r x) s = .next t ∧ sameBut [.svc, .cat] s t ∧ answeredOnly r (callNo 0x1050 1) s t ∧
      getJob t (x.subject.val % 16) = { getJob s (x.subject.val % 16) with st := 6 } ∧
      getJob t x.job = { Job.free with st := 4, cmd := svcOf 6 x, progress := 10000 }) ∧
  (∀ (r : Route) (x : SvcFields) (s : State), Inv s → svcFree s r 10 x → valGet s (callNo 0x1030 2) = 0 →
    ∃ t, exec (.fwbegin r x) s = .next t ∧ sameBut [.svc, .boot, .arch, .cat] s t ∧ answeredOnly r (callNo 0x1050 1) s t ∧
      t.boot = { s.boot with slot1 := [] } ∧ t.svc.fw = some ⟨1, []⟩ ∧
      t.arch = { s.arch with erases := (slotBlocks s 1).foldl (fun m b => kvSet 0 m b (kvGet 0 m b + 1)) s.arch.erases } ∧
      getJob t x.job = { Job.free with st := 4, cmd := svcOf 10 x, progress := 10000, position := slotSize }) ∧
  (∀ (r : Route) (x : SvcFields) (s : State) (d : List Byte), Inv s → svcFree s r 11 x → s.svc.fw = some ⟨1, d⟩ → fwReason s d = 0 →
    ∃ t, exec (.fwcommit r x) s = .next t ∧ sameBut [.svc, .boot, .cat, .log, .host] s t ∧ answeredOnly r (callNo 0x1050 1) s t ∧
      t.boot = { s.boot with slot1 := d } ∧ t.svc.fw = none ∧ logged 0x87 false 1 (fieldAt d 4 4) s t ∧ (getJob t x.job).st = 4)

/-- From R448, R457, R458, R459, R460: tests, calibration and repair. A self-test of an idle pair that finds nothing is DONE with event 0x26;
one that finds a fault puts the pair OUT and marks it; a calibration takes the tile's temperature; REPAIR marks a pair; SERVICERESET fuses
what is marked and resets; a chunk joins its stage. The model's choices in it: log row 45. -/
def Obligations.TestsCalibrationAndRepair : Prop :=
  (∀ (r : Route) (x : SvcFields) (s : State), Inv s → svcFree s r 7 x → (∀ j : Nat, (getJob s j).st ≠ 3) → (getPair s x.subject).st = .idle →
    ∃ t, exec (.selftest r x none) s = .next t ∧ sameBut [.svc, .cat, .log, .host] s t ∧ answeredOnly r (callNo 0x1050 1) s t ∧
      logged 0x26 false x.subject 0 s t ∧
      getJob t x.job = { Job.free with st := 4, cmd := svcOf 7 x, subject := x.subject, progress := 10000, position := 114688 }) ∧
  (∀ (r : Route) (x : SvcFields) (k : Fin 256) (s : State), Inv s → svcFree s r 7 x → (∀ j : Nat, (getJob s j).st ≠ 3) → (getPair s x.subject).st = .idle →
    ∃ t, exec (.selftest r x (some k)) s = .next t ∧ sameBut [.svc, .pair, .cat, .arch, .log, .host] s t ∧ answered r (callNo 0x1050 1) t ∧
      pairBut [x.subject.val] s t ∧ getPair t x.subject = { getPair s x.subject with st := .out } ∧ logged 0x26 true x.subject k s t ∧
      (leNat (longGet t cRepairPairs)).testBit x.subject = true ∧ (getJob t x.job).st = 5 ∧ (getJob t x.job).code = 0x18 + 256 * k) ∧
  (∀ (r : Route) (x : SvcFields) (s : State), Inv s → svcFree s r 8 x → x.subject.val < 32 → tileDom s x.subject = 0 →
    ∃ t, exec (.calib r x) s = .next t ∧ sameBut [.svc, .tile, .cat, .drawn] s t ∧ answeredOnly r (callNo 0x1050 1) s t ∧ t.drawn = s.drawn + 1 ∧
      tileBut [x.subject.val] s t ∧
      getTile t x.subject = { getTile s x.subject with
        calTemp := (BitVec.ofNat 16 (Config.sensor (cTile x.subject 9) s.drawn % 2 ^ 16)).toInt } ∧
      getJob t x.job = { Job.free with st := 4, cmd := svcOf 8 x, subject := x.subject, progress := 10000 }) ∧
  (∀ (k : Fin 32) (c : Int) (s : State), Inv s → tileDom s k = 0 → 300 ≤ (c - (getTile s k).calTemp).natAbs →
    ∃ t, exec (.autoCalibration k c) s = .next t ∧ sameBut [.tile] s t ∧ tileBut [k.val] s t ∧ getTile t k = { getTile s k with calTemp := c }) ∧
  (∀ (r : Route) (x : SvcFields) (s : State), Inv s → svcFree s r 9 x → (getPair s x.subject).st = .out → archiveLow s = false →
    ∃ t, exec (.repair r x) s = .next t ∧ sameBut [.svc, .arch, .cat] s t ∧ answered r (callNo 0x1050 1) t ∧
      (leNat (longGet t cRepairPairs)).testBit x.subject = true ∧
      getJob t x.job = { Job.free with st := 4, cmd := svcOf 9 x, subject := x.subject, progress := 10000 }) ∧
  (∀ (r : Route) (x : SvcFields) (s : State), Inv s → svcFree s r 12 x → lifecycle s = 1 →
    ∃ t, exec (.servicereset r x) s = .next t ∧ valGet t (callNo 0x1000 8) = 3 ∧ t.cat.ready = false ∧
      (writesHome s → t.mem.cols = s.mem.cols.map (fun c => (c.1, c.2.1, true))) ∧ t.boot.repairList = [] ∧
      (∀ m : Nat, m < 128 → (leNat (bytesAt (longGet s cRepairPairs) 0 16)).testBit m = true →
        (getPair t m).st = .fused ∧ mainOf m ∈ t.boot.fusedEng ∧ checkerOf m ∈ t.boot.fusedEng)) ∧
  (∀ (r : Route) (d : List Byte) (s : State), serves s r (callNo 0x1050 4) → routeNo r ≠ 0 → d.length ≤ 4096 → valGet s (callNo 0x1050 2) ≤ 7 →
    valGet s (callNo 0x1050 3) + d.length ≤ 0x100000 → stageLocked s (valGet s (callNo 0x1050 2)) = false →
    ∃ t, exec (.svcStageChunk r d) s = .next t ∧ sameBut [.svc, .cat] s t ∧ answered r (callNo 0x1050 4) t ∧ valsBut [callNo 0x1050 3] s t ∧
      valGet t (callNo 0x1050 3) = valGet s (callNo 0x1050 3) + d.length ∧
      t.svc = { s.svc with stages := kvSet [] s.svc.stages (valGet s (callNo 0x1050 2)) (overlayBytes
        (bytesAt (kvGet [] s.svc.stages (valGet s (callNo 0x1050 2))) 0
          (max (kvGet [] s.svc.stages (valGet s (callNo 0x1050 2))).length (valGet s (callNo 0x1050 3) + d.length)))
        (valGet s (callNo 0x1050 3)) d) })

/-- The queue of the block (the model's convention, log row 2): a step takes the command at the front of the queue and runs it on the state
with the rest of the queue. -/
def Obligations.StepRunsTheFrontCommand : Prop :=
  ∀ (c : Instr) (rest : List Instr) (s : State), step { s with pending := c :: rest } = exec c { s with pending := rest }

/-- With no command waiting, a step is a quarter-nanosecond of the device's time (R169: the instant is a 64-bit count; R172: the clock is
corrected by the rate), and the time since power-on passes at the rate's proportion, the remainder kept; that an idle step is this tick is
the model's convention, log rows 2 and 48. -/
def Obligations.AnEmptyQueueLetsTimePass : Prop :=
  ∀ (s : State), s.pending = [] →
    ∃ t, step s = .next t ∧ sameBut [.now, .up, .time] s t ∧ t.now = (s.now + 1) % 2 ^ 64 ∧ s.up ≤ t.up ∧
      t.time = { s.time with frac := t.time.frac } ∧
      (-1000000000 < s.time.rate → t.time.frac < (1000000000 + s.time.rate).toNat ∧
        (1000000000 + s.time.rate).toNat * (t.up - s.up) + t.time.frac = s.time.frac + 1000000000)

/-- The state after reset meets the invariant, lists nothing in memory and has no command waiting. The model's choices in it: log rows 8, 9. -/
def Obligations.ResetMeetsTheInvariant : Prop :=
  Inv State.reset ∧ State.reset.mem.bytes = [] ∧ State.reset.pending = []

/-- Every step keeps the invariant: memory and every table by number in their canonical form, at most 32 frames in the outbound queue (R395),
the event log within its 64 records (R349), and at most one request outstanding for each rail (R409). -/
def Obligations.EveryStepKeepsTheInvariant : Prop :=
  ∀ (s t : State), Inv s → step s = .next t → Inv t

/-- From R436, R438, R439, R458: no step leads out of RETIRED, lowers the rollback number, takes back a fused engine or returns to a nonce
that was drawn; and a step takes exactly the front command from the queue. The model's choices in it: log rows 2, 4. -/
def Obligations.NoStepUndoesWhatLasts : Prop :=
  ∀ (s t : State), step s = .next t → t.pending = s.pending.tail ∧ (Retired s → Retired t) ∧ s.boot.rollback ≤ t.boot.rollback ∧
    (∀ n ∈ s.boot.fusedEng, n ∈ t.boot.fusedEng) ∧ s.boot.nonces ≤ t.boot.nonces

/-! ### Units of an engine (chapters 5 and 13) -/

/-- R84: a move to alu0.add or alu1.add gives A + B, one to alu0.sub or alu1.sub A − B, whatever the op latch holds, and neither traps. A
bundle that executes one such move of a general register leaves the result in the unit's q, and nothing else of the engine changes but the
position and the step count. -/
def Obligations.SumsAndDifferencesNeverTrap : Prop :=
  (∀ (e : Engine) (lat : Latches) (vs : List (Nat × Word)) (v : Word) (precise first : Bool),
    (moved vs 25 = some v → (unitEffect e lat vs precise first).res.alu0q = v + lat.alu0o) ∧
    (moved vs 25 = none → moved vs 26 = some v → (unitEffect e lat vs precise first).res.alu0q = v - lat.alu0o) ∧
    (moved vs 30 = some v → (unitEffect e lat vs precise first).res.alu1q = v + lat.alu1o) ∧
    (moved vs 30 = none → moved vs 31 = some v → (unitEffect e lat vs precise first).res.alu1q = v - lat.alu1o) ∧
    (moved vs 27 = none → moved vs 32 = none → moved vs 42 = none → (unitEffect e lat vs precise first).traps = e.traps)) ∧
  (∀ (n : Fin 256) (q l r d : Nat) (c : Bool) (s : State), alone s n → noMerge s n → s.svc.unloads = [] → bundleNext s n = true →
    (getEng s n).cmd = 0 → BundleNext (getEng s n) [⟨r, d⟩] → r < 24 → d = 25 ∨ d = 26 ∨ d = 30 ∨ d = 31 →
    (getEng s n).pos = { Pos.start (getEng s n).pos.pc with lastpc := l, cntOwn := c } →
    ∃ t, exec (.bundleIssue n ⟨q, 0⟩) s = .next t ∧ besideStep n 1 s t ∧
      getEng t n = { getEng s n with
        heldHeavy := false
        res := if d = 25 then { (getEng s n).res with alu0q := kvGet 0#32 (getEng s n).g r + (getEng s n).lat.alu0o }
          else if d = 26 then { (getEng s n).res with alu0q := kvGet 0#32 (getEng s n).g r - (getEng s n).lat.alu0o }
          else if d = 30 then { (getEng s n).res with alu1q := kvGet 0#32 (getEng s n).g r + (getEng s n).lat.alu1o }
          else { (getEng s n).res with alu1q := kvGet 0#32 (getEng s n).g r - (getEng s n).lat.alu1o }
        ctr := { (getEng s n).ctr with steps := ((getEng s n).ctr.steps + 1) % 2 ^ 64 }
        pos := { Pos.start ((getEng s n).pos.pc + 1) with lastpc := (getEng s n).pos.pc, cntOwn := c } })

/-- R93, R95: the shifts, rotates and counts of the bit-field unit. The amount is B[5:0]; from 32 the logical shifts give 0, from 31 SRA gives
copies of A[31], rotates take the amount mod 32, and 0 gives A. CLZ, CTZ and POPC count as their names say and read A alone. -/
def Obligations.ShiftsRotatesAndCounts : Prop :=
  (∀ (opl a b : Word), opCode opl ≤ 4 → bfuResult opl a b = bfuResult opl a (b &&& 63#32)) ∧
  (∀ (opl a b : Word), opCode opl ≤ 1 → 32 ≤ b.toNat % 64 → bfuResult opl a b = 0#32) ∧
  (∀ (opl a b : Word), opCode opl = 2 → 31 ≤ b.toNat % 64 → bfuResult opl a b = if a.getLsbD 31 then 0xFFFFFFFF#32 else 0#32) ∧
  (∀ (opl a b : Word), opCode opl = 3 ∨ opCode opl = 4 → bfuResult opl a b = bfuResult opl a (b &&& 31#32)) ∧
  (∀ (opl a b : Word), opCode opl ≤ 4 → b.toNat % 64 = 0 → bfuResult opl a b = a) ∧
  (∀ (opl a b : Word) (k : Nat), opCode opl = 0 → b.toNat % 64 < 32 → k < 32 →
    (bfuResult opl a b).getLsbD k = (decide (b.toNat % 64 ≤ k) && a.getLsbD (k - b.toNat % 64))) ∧
  (∀ (opl a b : Word) (k : Nat), opCode opl = 1 → (bfuResult opl a b).getLsbD k = a.getLsbD (k + b.toNat % 64)) ∧
  (∀ (opl a b : Word) (k : Nat), opCode opl = 2 → k < 32 →
    (bfuResult opl a b).getLsbD k = if k + b.toNat % 64 < 32 then a.getLsbD (k + b.toNat % 64) else a.getLsbD 31) ∧
  (∀ (opl a b : Word) (k : Nat), opCode opl = 3 → k < 32 → (bfuResult opl a b).getLsbD ((k + b.toNat) % 32) = a.getLsbD k) ∧
  (∀ (opl a b : Word) (k : Nat), opCode opl = 4 → k < 32 → (bfuResult opl a b).getLsbD k = a.getLsbD ((k + b.toNat) % 32)) ∧
  (∀ (opl a b : Word), opCode opl = 11 → (bfuResult opl a b).toNat ≤ 32 ∧ a.toNat < 2 ^ (32 - (bfuResult opl a b).toNat) ∧
    (a ≠ 0#32 → (bfuResult opl a b).toNat < 32 ∧ a.getLsbD (31 - (bfuResult opl a b).toNat) = true) ∧ (a = 0#32 → (bfuResult opl a b).toNat = 32)) ∧
  (∀ (opl a b : Word), opCode opl = 12 → (∀ k : Nat, k < (bfuResult opl a b).toNat → a.getLsbD k = false) ∧
    (a ≠ 0#32 → (bfuResult opl a b).toNat < 32 ∧ a.getLsbD (bfuResult opl a b).toNat = true) ∧ (a = 0#32 → (bfuResult opl a b).toNat = 32)) ∧
  (∀ (opl a b : Word), opCode opl = 13 → (bfuResult opl a b).toNat = ((List.range 32).filter fun k => a.getLsbD k).length)

/-- R291: SWAP on the data of a transaction. Under 0b01 the bytes of each word come in the opposite order, under 0b10 its halves change
places; the two words of a 64-bit transaction keep theirs. -/
def Obligations.SwapActsOnEachWord : Prop :=
  ∀ (v i : Nat), v < 2 ^ 64 → i < 8 →
    swapData 1 8 v / 256 ^ i % 256 = v / 256 ^ (i / 4 * 4 + (3 - i % 4)) % 256 ∧
    swapData 2 8 v / 256 ^ i % 256 = v / 256 ^ (i / 4 * 4 + (i + 2) % 4) % 256 ∧
    (i < 4 → v < 2 ^ 32 → swapData 1 4 v / 256 ^ i % 256 = v / 256 ^ (3 - i) % 256 ∧
      swapData 2 4 v / 256 ^ i % 256 = v / 256 ^ ((i + 2) % 4) % 256)
end

