-- ==== Sys2Proof/Laws/Kv.lean ====
section
/-! SUPPORT. Laws/Kv.lean: the laws of the sparse tables: what a write leaves, and that it keeps the canonical form. -/

namespace Sys2Proof.Machine

variable {α : Type} [DecidableEq α] {d v : α}

/-- A canonical table stays canonical above a lower bound. -/
theorem kvWfFrom_mono {b c : Nat} (h : b ≤ c) : ∀ {m : Kv α}, kvWfFrom d c m = true → kvWfFrom d b m = true
  | [], _ => rfl
  | (j, w) :: t, k => by
    simp only [kvWfFrom, Bool.and_eq_true, decide_eq_true_eq] at *
    exact ⟨⟨Nat.le_trans h k.1.1, k.1.2⟩, k.2⟩

/-- Taking an entry out keeps the canonical form. -/
theorem kvDel_wf {k : Nat} : ∀ {b : Nat} {m : Kv α}, kvWfFrom d b m = true → kvWfFrom d b (kvDel m k) = true
  | _, [], _ => rfl
  | b, (j, w) :: t, h => by
    simp only [kvWfFrom, Bool.and_eq_true, decide_eq_true_eq] at h
    unfold kvDel
    split
    · exact kvWfFrom_mono (Nat.le_trans h.1.1 (Nat.le_succ j)) h.2
    · simp only [kvWfFrom, Bool.and_eq_true, decide_eq_true_eq]
      exact ⟨h.1, kvDel_wf h.2⟩

/-- Putting an entry in keeps the canonical form. -/
theorem kvPut_wf {k : Nat} (hv : v ≠ d) : ∀ {b : Nat} {m : Kv α}, b ≤ k → kvWfFrom d b m = true → kvWfFrom d b (kvPut m k v) = true
  | b, [], hb, _ => by simp [kvPut, kvWfFrom, hb, hv]
  | b, (j, w) :: t, hb, h => by
    simp only [kvWfFrom, Bool.and_eq_true, decide_eq_true_eq] at h
    unfold kvPut
    split
    · rename_i hk
      simp only [kvWfFrom, Bool.and_eq_true, decide_eq_true_eq]
      exact ⟨⟨hb, hv⟩, ⟨hk, h.1.2⟩, h.2⟩
    · split
      · rename_i hjk
        subst hjk
        simp only [kvWfFrom, Bool.and_eq_true, decide_eq_true_eq]
        exact ⟨⟨hb, hv⟩, h.2⟩
      · rename_i h1 h2
        simp only [kvWfFrom, Bool.and_eq_true, decide_eq_true_eq]
        exact ⟨h.1, kvPut_wf hv (by omega) h.2⟩

/-- A write keeps the canonical form. -/
theorem kvSet_wf {k : Nat} {m : Kv α} (h : kvWf d m = true) : kvWf d (kvSet d m k v) = true := by
  unfold kvSet
  split
  · exact kvDel_wf h
  · rename_i hv; exact kvPut_wf hv (Nat.zero_le _) h

/-- Leaving entries out keeps the canonical form. -/
theorem kvFilter_wf {p : Nat × α → Bool} : ∀ {b : Nat} {m : Kv α}, kvWfFrom d b m = true → kvWfFrom d b (m.filter p) = true
  | _, [], _ => rfl
  | b, (j, w) :: t, h => by
    simp only [kvWfFrom, Bool.and_eq_true, decide_eq_true_eq] at h
    rw [List.filter_cons]
    split
    · simp only [kvWfFrom, Bool.and_eq_true, decide_eq_true_eq]
      exact ⟨h.1, kvFilter_wf h.2⟩
    · exact kvWfFrom_mono (Nat.le_trans h.1.1 (Nat.le_succ j)) (kvFilter_wf h.2)

/-- A map of the values keeps the canonical form. -/
theorem kvMap_wf {f : α → α} : ∀ {b : Nat} {m : Kv α}, kvWfFrom d b m = true → kvWfFrom d b (kvMap d f m) = true
  | _, [], _ => rfl
  | b, (j, w) :: t, h => by
    simp only [kvWfFrom, Bool.and_eq_true, decide_eq_true_eq] at h
    have ih := kvMap_wf (f := f) h.2
    unfold kvMap at ih ⊢
    rw [List.map_cons, List.filter_cons]
    split
    · rename_i hv
      simp only [kvWfFrom, Bool.and_eq_true]
      exact ⟨⟨decide_eq_true h.1.1, hv⟩, ih⟩
    · exact kvWfFrom_mono (Nat.le_trans h.1.1 (Nat.le_succ j)) ih

omit [DecidableEq α] in
/-- An entry put in is read back. -/
theorem kvGet_kvPut_same {k : Nat} : ∀ {m : Kv α}, kvGet d (kvPut m k v) k = v
  | [] => by simp [kvPut, kvGet]
  | (j, w) :: t => by
    unfold kvPut
    split
    · simp [kvGet]
    · split
      · simp [kvGet]
      · rename_i h; simp [kvGet, h, kvGet_kvPut_same (m := t)]

omit [DecidableEq α] in
/-- Putting an entry in leaves every other number as it reads. -/
theorem kvGet_kvPut_other {k i : Nat} (hi : i ≠ k) : ∀ {m : Kv α}, kvGet d (kvPut m k v) i = kvGet d m i
  | [] => by simp [kvPut, kvGet, Ne.symm hi]
  | (j, w) :: t => by
    unfold kvPut
    split
    · simp [kvGet, Ne.symm hi]
    · split
      · rename_i h; subst h; simp [kvGet, Ne.symm hi]
      · simp only [kvGet]; split
        · rfl
        · exact kvGet_kvPut_other hi

omit [DecidableEq α] in
/-- Taking an entry out leaves every other number as it reads. -/
theorem kvGet_kvDel_other {k i : Nat} (hi : i ≠ k) : ∀ {m : Kv α}, kvGet d (kvDel m k) i = kvGet d m i
  | [] => rfl
  | (j, w) :: t => by
    unfold kvDel
    split
    · rename_i h; subst h; simp [kvGet, Ne.symm hi]
    · simp only [kvGet]; split
      · rfl
      · exact kvGet_kvDel_other hi

/-- A number below every number of a canonical table is unlisted. -/
theorem kvGet_below {i : Nat} : ∀ {b : Nat} {m : Kv α}, i < b → kvWfFrom d b m = true → kvGet d m i = d
  | _, [], _, _ => rfl
  | b, (j, w) :: t, hi, h => by
    simp only [kvWfFrom, Bool.and_eq_true, decide_eq_true_eq] at h
    have : j ≠ i := by omega
    simp only [kvGet, this, if_false]
    exact kvGet_below (b := j + 1) (by omega) h.2

/-- A number taken out of a canonical table reads as unlisted. -/
theorem kvGet_kvDel_same {k : Nat} : ∀ {b : Nat} {m : Kv α}, kvWfFrom d b m = true → kvGet d (kvDel m k) k = d
  | _, [], _ => rfl
  | b, (j, w) :: t, h => by
    simp only [kvWfFrom, Bool.and_eq_true, decide_eq_true_eq] at h
    unfold kvDel
    split
    · rename_i hj; exact kvGet_below (b := j + 1) (by omega) h.2
    · rename_i hj; simp only [kvGet, hj, if_false]; exact kvGet_kvDel_same h.2

/-- A write is read back from a canonical table. -/
theorem kvGet_kvSet_same {k : Nat} {m : Kv α} (h : kvWf d m = true) : kvGet d (kvSet d m k v) k = v := by
  unfold kvSet
  split
  · rename_i hv; rw [hv]; exact kvGet_kvDel_same h
  · exact kvGet_kvPut_same

/-- A write leaves every other number as it reads. -/
theorem kvGet_kvSet_other {k i : Nat} {m : Kv α} (hi : i ≠ k) : kvGet d (kvSet d m k v) i = kvGet d m i := by
  unfold kvSet
  split
  · exact kvGet_kvDel_other hi
  · exact kvGet_kvPut_other hi

/-- A write below a bound keeps every number of the table below it. -/
theorem kvSet_below {k b : Nat} (hk : k < b) {m : Kv α} (h : ∀ x ∈ m, x.1 < b) : ∀ x ∈ kvSet d m k v, x.1 < b := by
  have del : ∀ {m : Kv α}, (∀ x ∈ m, x.1 < b) → ∀ x ∈ kvDel m k, x.1 < b := by
    intro m
    induction m with
    | nil => intro _ x hx; cases hx
    | cons y t ih =>
      intro h x hx
      simp only [kvDel] at hx
      split at hx
      · exact h x (List.mem_cons_of_mem _ hx)
      · rcases List.mem_cons.mp hx with rfl | hx
        · exact h _ List.mem_cons_self
        · exact ih (fun z hz => h z (List.mem_cons_of_mem _ hz)) x hx
  have put : ∀ {m : Kv α}, (∀ x ∈ m, x.1 < b) → ∀ x ∈ kvPut m k v, x.1 < b := by
    intro m
    induction m with
    | nil => intro _ x hx; rw [List.mem_singleton.mp hx]; exact hk
    | cons y t ih =>
      intro h x hx
      simp only [kvPut] at hx
      split at hx
      · rcases List.mem_cons.mp hx with rfl | hx
        · exact hk
        · exact h x hx
      · split at hx
        · rcases List.mem_cons.mp hx with rfl | hx
          · exact hk
          · exact h x (List.mem_cons_of_mem _ hx)
        · rcases List.mem_cons.mp hx with rfl | hx
          · exact h _ List.mem_cons_self
          · exact ih (fun z hz => h z (List.mem_cons_of_mem _ hz)) x hx
  unfold kvSet
  split
  · exact del h
  · exact put h

end Sys2Proof.Machine
end

