-- ==== Sys2Proof/Laws/Keeps.lean ====
section
/-! SUPPORT. Laws/Keeps.lean: how `Keeps` composes, so that the lemma of each operation is read off its parts. -/

namespace Sys2Proof.Machine

/-- Doing nothing keeps everything. -/
theorem Keeps.rfl' (s : State) : Keeps s s :=
  ⟨id, ⟨rfl, id, Nat.le_refl _, fun _ h => h, Nat.le_refl _⟩⟩

/-- One part of an effect after another. -/
theorem Keeps.trans {s t u : State} (h : Keeps s t) (k : Keeps t u) : Keeps s u :=
  ⟨fun i => k.inv (h.inv i),
   ⟨k.lasting.waiting.trans h.lasting.waiting, fun r => k.lasting.retired (h.lasting.retired r),
    Nat.le_trans h.lasting.rollback k.lasting.rollback, fun n m => k.lasting.fused n (h.lasting.fused n m),
    Nat.le_trans h.lasting.nonces k.lasting.nonces⟩⟩

/-- An update that leaves the parts `Keeps` speaks of as they are. -/
theorem Keeps.mk' {s t : State} (h : Keeps s t) {now up : Nat} {cat : CatSt} {log : LogSt} {eng : Kv Engine} {pair : Kv Pair}
    {tile : Kv Tile} {time : TimeSt} {mem : MemSt} {net : NetSt} {xfer : XferSt} {ledger : LedgerSt} {arch : ArchSt}
    {ring : Kv RingSt} {port : Kv PortSt} {host : HostSt} {pins : PinsSt} {tap : TapSt} {power : PowerSt} {boot : BootSt}
    {svc : SvcSt} {drawn : Nat}
    (h1 : mem.bytes = t.mem.bytes) (h2 : host.queue = t.host.queue) (h3 : log.recs = t.log.recs) (h4 : power.reqs = t.power.reqs)
    (h5 : boot.fuseLc = t.boot.fuseLc) (h6 : boot.lcPending = t.boot.lcPending) (h7 : boot.rollback = t.boot.rollback)
    (h8 : boot.fusedEng = t.boot.fusedEng) (h9 : boot.nonces = t.boot.nonces)
    (t1 : eng = t.eng) (t2 : pair = t.pair) (t3 : tile = t.tile) (t4 : ring = t.ring) (t5 : port = t.port) (t6 : cat.vals = t.cat.vals)
    (t7 : cat.longs = t.cat.longs) (t8 : xfer.chans = t.xfer.chans) (t9 : pins.tio = t.pins.tio) (t10 : net.caps = t.net.caps) (t11 : svc.jobs = t.svc.jobs) (t12 : ledger.streams = t.ledger.streams)
    (t13 : mem.bank = t.mem.bank) (t14 : power.dom = t.power.dom) (t15 : power.entry = t.power.entry) (t16 : power.target = t.power.target) (t17 : power.acked = t.power.acked) :
    Keeps s (State.mk t.pending now up cat log eng pair tile time mem net xfer ledger arch ring port host pins tap power boot svc
      drawn) := by
  refine h.trans ⟨fun i => ⟨?_, ?_, ?_, ?_, ?_⟩, ⟨rfl, fun r => ⟨?_, ?_⟩, ?_, ?_, ?_⟩⟩
  · show Memory.wf mem.bytes = true; rw [h1]; exact i.mem
  · have := i.tables
    simp only [tablesWf] at this ⊢
    rw [t1, t2, t3, t4, t5, t6, t7, t8, t9, t10, t11, t12, t13, t14, t15, t16, t17]
    exact this
  · show host.queue.length ≤ 32; rw [h2]; exact i.queue
  · show ∀ x ∈ log.recs, x.1 < 64; rw [h3]; exact i.log
  · show (power.reqs.map LinkReq.rail).Nodup; rw [h4]; exact i.link
  · exact h5.trans r.1
  · exact h6.trans r.2
  · exact Nat.le_of_eq h7.symm
  · intro n m; show n ∈ boot.fusedEng; rw [h8]; exact m
  · exact Nat.le_of_eq h9.symm

/-- An update that keeps the canonical forms of the tables and leaves the other parts `Keeps` speaks of as they are. -/
theorem Keeps.tabs {s t : State} (h : Keeps s t) {now up : Nat} {cat : CatSt} {log : LogSt} {eng : Kv Engine} {pair : Kv Pair}
    {tile : Kv Tile} {time : TimeSt} {mem : MemSt} {net : NetSt} {xfer : XferSt} {ledger : LedgerSt} {arch : ArchSt}
    {ring : Kv RingSt} {port : Kv PortSt} {host : HostSt} {pins : PinsSt} {tap : TapSt} {power : PowerSt} {boot : BootSt}
    {svc : SvcSt} {drawn : Nat}
    (h1 : mem.bytes = t.mem.bytes) (h2 : host.queue = t.host.queue) (h3 : log.recs = t.log.recs) (h4 : power.reqs = t.power.reqs)
    (h5 : boot.fuseLc = t.boot.fuseLc) (h6 : boot.lcPending = t.boot.lcPending) (h7 : boot.rollback = t.boot.rollback)
    (h8 : boot.fusedEng = t.boot.fusedEng) (h9 : boot.nonces = t.boot.nonces)
    (ht : tablesWf t = true → tablesWf (State.mk t.pending now up cat log eng pair tile time mem net xfer ledger arch ring port host
      pins tap power boot svc drawn) = true) :
    Keeps s (State.mk t.pending now up cat log eng pair tile time mem net xfer ledger arch ring port host pins tap power boot svc
      drawn) := by
  refine h.trans ⟨fun i => ⟨?_, ht i.tables, ?_, ?_, ?_⟩, ⟨rfl, fun r => ⟨?_, ?_⟩, ?_, ?_, ?_⟩⟩
  · show Memory.wf mem.bytes = true; rw [h1]; exact i.mem
  · show host.queue.length ≤ 32; rw [h2]; exact i.queue
  · show ∀ x ∈ log.recs, x.1 < 64; rw [h3]; exact i.log
  · show (power.reqs.map LinkReq.rail).Nodup; rw [h4]; exact i.link
  · exact h5.trans r.1
  · exact h6.trans r.2
  · exact Nat.le_of_eq h7.symm
  · intro n m; show n ∈ boot.fusedEng; rw [h8]; exact m
  · exact Nat.le_of_eq h9.symm

/-- A choice of two effects. -/
theorem Keeps.ite {c : Prop} [Decidable c] {s t u : State} (h : Keeps s t) (k : Keeps s u) : Keeps s (if c then t else u) := by
  split
  · exact h
  · exact k

/-- A choice of two effects with an answer before the state. -/
theorem Keeps.ite_snd {α : Type} {c : Prop} [Decidable c] {s : State} {t u : α × State} (h : Keeps s t.2) (k : Keeps s u.2) :
    Keeps s (if c then t else u).2 := by
  split
  · exact h
  · exact k

/-- A choice of two effects with something behind the state. -/
theorem Keeps.ite_fst {α : Type} {c : Prop} [Decidable c] {s : State} {t u : State × α} (h : Keeps s t.1) (k : Keeps s u.1) :
    Keeps s (if c then t else u).1 := by
  split
  · exact h
  · exact k

/-- A loop whose turns all keep everything. -/
theorem Keeps.foldl {α : Type} {s t : State} {f : State → α → State} (l : List α) (h : Keeps s t)
    (hf : ∀ a x, Keeps s a → Keeps s (f a x)) : Keeps s (l.foldl f t) := by
  induction l generalizing t with
  | nil => exact h
  | cons x l ih => exact ih (hf t x h)

/-- A loop that carries the state as the second part of a pair. -/
theorem Keeps.foldl_snd {α β : Type} {s : State} {p : β × State} {f : β × State → α → β × State} (l : List α) (h : Keeps s p.2)
    (hf : ∀ a x, Keeps s a.2 → Keeps s (f a x).2) : Keeps s (l.foldl f p).2 := by
  induction l generalizing p with
  | nil => exact h
  | cons x l ih => exact ih (hf p x h)

/-- A loop that carries the state as the first part of a pair. -/
theorem Keeps.foldl_fst {α β : Type} {s : State} {p : State × β} {f : State × β → α → State × β} (l : List α) (h : Keeps s p.1)
    (hf : ∀ a x, Keeps s a.1 → Keeps s (f a x).1) : Keeps s (l.foldl f p).1 := by
  induction l generalizing p with
  | nil => exact h
  | cons x l ih => exact ih (hf p x h)

end Sys2Proof.Machine
end

