-- ==== Sys2Proof/Laws/Ops.lean ====
section
/-! SUPPORT. Laws/Ops.lean: the parts of the state, values, events and journal records keep the forms of the state and undo nothing that lasts, operation by operation. -/

set_option linter.unusedVariables false

namespace Sys2Proof.Machine

theorem setEng_keeps {s0 s : State} {a0 : Nat} {a1 : Engine} (h : Keeps s0 s) : Keeps s0 (setEng a0 a1 s) := by
  refine h.tabs rfl rfl rfl rfl rfl rfl rfl rfl rfl fun i => ?_
  simp only [tablesWf, Bool.and_eq_true] at i ⊢
  simp only [i, kvSet_wf, and_self]

theorem modEng_keeps {s0 s : State} {a0 : Nat} {a1 : Engine → Engine} (h : Keeps s0 s) : Keeps s0 (modEng a0 a1 s) := by
  unfold modEng
  repeat' first | with_reducible assumption | with_reducible apply setEng_keeps

theorem setPair_keeps {s0 s : State} {a0 : Nat} {a1 : Pair} (h : Keeps s0 s) : Keeps s0 (setPair a0 a1 s) := by
  refine h.tabs rfl rfl rfl rfl rfl rfl rfl rfl rfl fun i => ?_
  simp only [tablesWf, Bool.and_eq_true] at i ⊢
  simp only [i, kvSet_wf, and_self]

theorem modPair_keeps {s0 s : State} {a0 : Nat} {a1 : Pair → Pair} (h : Keeps s0 s) : Keeps s0 (modPair a0 a1 s) := by
  unfold modPair
  repeat' first | with_reducible assumption | with_reducible apply setPair_keeps

theorem setTile_keeps {s0 s : State} {a0 : Nat} {a1 : Tile} (h : Keeps s0 s) : Keeps s0 (setTile a0 a1 s) := by
  refine h.tabs rfl rfl rfl rfl rfl rfl rfl rfl rfl fun i => ?_
  simp only [tablesWf, Bool.and_eq_true] at i ⊢
  simp only [i, kvSet_wf, and_self]

theorem modTile_keeps {s0 s : State} {a0 : Nat} {a1 : Tile → Tile} (h : Keeps s0 s) : Keeps s0 (modTile a0 a1 s) := by
  unfold modTile
  repeat' first | with_reducible assumption | with_reducible apply setTile_keeps

theorem setRing_keeps {s0 s : State} {a0 : Nat} {a1 : RingSt} (h : Keeps s0 s) : Keeps s0 (setRing a0 a1 s) := by
  refine h.tabs rfl rfl rfl rfl rfl rfl rfl rfl rfl fun i => ?_
  simp only [tablesWf, Bool.and_eq_true] at i ⊢
  simp only [i, kvSet_wf, and_self]

theorem modRing_keeps {s0 s : State} {a0 : Nat} {a1 : RingSt → RingSt} (h : Keeps s0 s) : Keeps s0 (modRing a0 a1 s) := by
  unfold modRing
  repeat' first | with_reducible assumption | with_reducible apply setRing_keeps

theorem setPort_keeps {s0 s : State} {a0 : Nat} {a1 : PortSt} (h : Keeps s0 s) : Keeps s0 (setPort a0 a1 s) := by
  refine h.tabs rfl rfl rfl rfl rfl rfl rfl rfl rfl fun i => ?_
  simp only [tablesWf, Bool.and_eq_true] at i ⊢
  simp only [i, kvSet_wf, and_self]

theorem modPort_keeps {s0 s : State} {a0 : Nat} {a1 : PortSt → PortSt} (h : Keeps s0 s) : Keeps s0 (modPort a0 a1 s) := by
  unfold modPort
  repeat' first | with_reducible assumption | with_reducible apply setPort_keeps

theorem setChan_keeps {s0 s : State} {a0 : Nat} {a1 : XfCh} (h : Keeps s0 s) : Keeps s0 (setChan a0 a1 s) := by
  refine h.tabs rfl rfl rfl rfl rfl rfl rfl rfl rfl fun i => ?_
  simp only [tablesWf, Bool.and_eq_true] at i ⊢
  simp only [i, kvSet_wf, and_self]

theorem setPin_keeps {s0 s : State} {a0 : Nat} {a1 : PinSt} (h : Keeps s0 s) : Keeps s0 (setPin a0 a1 s) := by
  refine h.tabs rfl rfl rfl rfl rfl rfl rfl rfl rfl fun i => ?_
  simp only [tablesWf, Bool.and_eq_true] at i ⊢
  simp only [i, kvSet_wf, and_self]

theorem setCap_keeps {s0 s : State} {a0 : Nat} {a1 : CapQ} (h : Keeps s0 s) : Keeps s0 (setCap a0 a1 s) := by
  refine h.tabs rfl rfl rfl rfl rfl rfl rfl rfl rfl fun i => ?_
  simp only [tablesWf, Bool.and_eq_true] at i ⊢
  simp only [i, kvSet_wf, and_self]

theorem setJob_keeps {s0 s : State} {a0 : Nat} {a1 : Job} (h : Keeps s0 s) : Keeps s0 (setJob a0 a1 s) := by
  refine h.tabs rfl rfl rfl rfl rfl rfl rfl rfl rfl fun i => ?_
  simp only [tablesWf, Bool.and_eq_true] at i ⊢
  simp only [i, kvSet_wf, and_self]

theorem valPut_keeps {s0 s : State} {a0 a1 : Nat} (h : Keeps s0 s) : Keeps s0 (valPut a0 a1 s) := by
  refine h.tabs rfl rfl rfl rfl rfl rfl rfl rfl rfl fun i => ?_
  simp only [tablesWf, Bool.and_eq_true] at i ⊢
  simp only [i, kvSet_wf, and_self]

theorem bump_keeps {s0 s : State} {a0 : Nat} {a1 : Nat} {a2 : Nat} (h : Keeps s0 s) : Keeps s0 (bump a0 a1 a2 s) := by
  unfold bump
  repeat' first | with_reducible assumption | with_reducible apply valPut_keeps

theorem longPut_keeps {s0 s : State} {a0 : Nat} {a1 : List Byte} (h : Keeps s0 s) : Keeps s0 (longPut a0 a1 s) := by
  refine h.tabs rfl rfl rfl rfl rfl rfl rfl rfl rfl fun i => ?_
  simp only [tablesWf, Bool.and_eq_true] at i ⊢
  simp only [i, kvSet_wf, and_self]

theorem hostPush_keeps {s0 s : State} {f : HFrame} (h : Keeps s0 s) : Keeps s0 (hostPush f s) := by
  unfold hostPush
  split
  · exact h
  · refine h.trans ⟨fun i => ⟨i.mem, i.tables, ?_, i.log, i.link⟩, ⟨rfl, id, Nat.le_refl _, fun _ m => m, Nat.le_refl _⟩⟩
    simp only [List.length_append, List.length_singleton]
    omega

/-- The replacement of a NOTIFY leaves the number of frames as it is. -/
theorem replaceNotify_length (mdb : Nat) (p : List Byte) :
    ∀ (l q : List HFrame), replaceNotify mdb p l = some q → q.length = l.length := by
  intro l
  induction l with
  | nil => intro q h; simp [replaceNotify] at h
  | cons f t ih =>
    intro q h
    simp only [replaceNotify] at h
    split at h
    · cases h; rfl
    · cases hr : replaceNotify mdb p t with
      | none => simp [hr] at h
      | some r => simp only [hr, Option.map_some, Option.some.injEq] at h; rw [← h]; simp [ih r hr]

theorem hostNotify_keeps {s0 s : State} {mdb data : Nat} (h : Keeps s0 s) : Keeps s0 (hostNotify mdb data s) := by
  unfold hostNotify
  dsimp only
  split
  · rename_i q hq
    refine h.trans ⟨fun i => ⟨i.mem, i.tables, ?_, i.log, i.link⟩, ⟨rfl, id, Nat.le_refl _, fun _ m => m, Nat.le_refl _⟩⟩
    have := replaceNotify_length _ _ _ _ hq
    have := i.queue
    simp only [List.length_reverse] at *
    omega
  · exact hostPush_keeps h

theorem logEvent_keeps {s0 s : State} {code : Nat} {lapse : Bool} {subject detail more : Nat} (h : Keeps s0 s) :
    Keeps s0 (logEvent code lapse subject detail more s) := by
  unfold logEvent
  dsimp only
  have k : ∀ c, Keeps s0 { s with log := { s.log with
      recs := kvSet ⟨0, 0, 0⟩ s.log.recs ((s.log.newest + 1) % 64) c
      count := (s.log.count + 1) % 2 ^ 32, newest := (s.log.newest + 1) % 64 } } := by
    intro c
    refine h.trans ⟨fun i => ⟨i.mem, i.tables, i.queue, ?_, i.link⟩, ⟨rfl, id, Nat.le_refl _, fun _ m => m, Nat.le_refl _⟩⟩
    exact kvSet_below (Nat.mod_lt _ (by decide)) i.log
  exact Keeps.ite (hostNotify_keeps (k _)) (k _)

theorem putPromise_keeps {s0 s : State} {a0 : Nat} {a1 : Bool} (h : Keeps s0 s) : Keeps s0 (putPromise a0 a1 s) := by
  unfold putPromise
  repeat' first
    | with_reducible assumption | with_reducible apply valPut_keeps | with_reducible apply hostNotify_keeps
    | with_reducible apply Keeps.ite

theorem lapse_keeps {s0 s : State} {a0 : Nat} {a1 : Nat} {a2 : Nat} {a3 : Nat} {a4 : Nat} (h : Keeps s0 s) :
    Keeps s0 (lapse a0 a1 a2 a3 a4 s) := by
  unfold lapse
  repeat' first
    | with_reducible assumption | with_reducible apply bump_keeps | with_reducible apply putPromise_keeps
    | with_reducible apply logEvent_keeps | with_reducible apply Keeps.ite | dsimp only
    | with_reducible refine Keeps.mk' ?_ rfl rfl rfl rfl rfl rfl rfl rfl rfl rfl rfl rfl rfl rfl rfl rfl rfl rfl rfl rfl rfl rfl rfl rfl rfl rfl

theorem restorePromise_keeps {s0 s : State} {a0 : Nat} {a1 : Nat} {a2 : Nat} {a3 : Nat} {a4 : Nat} (h : Keeps s0 s) :
    Keeps s0 (restorePromise a0 a1 a2 a3 a4 s) := by
  unfold restorePromise
  repeat' first
    | with_reducible assumption | with_reducible apply putPromise_keeps | with_reducible apply logEvent_keeps
    | with_reducible apply Keeps.ite | dsimp only
    | with_reducible refine Keeps.mk' ?_ rfl rfl rfl rfl rfl rfl rfl rfl rfl rfl rfl rfl rfl rfl rfl rfl rfl rfl rfl rfl rfl rfl rfl rfl rfl rfl

theorem journal_keeps {s0 s : State} {a0 : Nat} {a1 : Bool} {a2 : Nat} {a3 : List Byte} (h : Keeps s0 s) :
    Keeps s0 (journal a0 a1 a2 a3 s) := by
  unfold journal
  repeat' first
    | with_reducible assumption | dsimp only
    | with_reducible refine Keeps.mk' ?_ rfl rfl rfl rfl rfl rfl rfl rfl rfl rfl rfl rfl rfl rfl rfl rfl rfl rfl rfl rfl rfl rfl rfl rfl rfl rfl

theorem journalChunks_keeps {s0 : State} {kind key : Nat} :
    ∀ {n off : Nat} {bs : List Byte} {s : State}, Keeps s0 s → Keeps s0 (journalChunks kind key n off bs s)
  | 0, _, _, _, h => h
  | n + 1, off, bs, s, h => by
    unfold journalChunks
    split
    · exact h
    · exact journalChunks_keeps (journal_keeps h)

theorem journalGroup_keeps {s0 s : State} {a0 : Nat} {a1 : Nat} {a2 : List Byte} (h : Keeps s0 s) :
    Keeps s0 (journalGroup a0 a1 a2 s) := by
  unfold journalGroup
  repeat' first | with_reducible assumption | with_reducible apply journal_keeps | with_reducible apply journalChunks_keeps

theorem journalEntry_keeps {s0 s : State} {a0 : Nat} {a1 : List Byte} (h : Keeps s0 s) : Keeps s0 (journalEntry a0 a1 s) := by
  unfold journalEntry
  repeat' first
    | with_reducible assumption | with_reducible apply journalGroup_keeps | with_reducible apply journal_keeps
    | with_reducible apply Keeps.ite

theorem valJournal_keeps {s0 s : State} {a0 : Nat} {a1 : Nat} (h : Keeps s0 s) : Keeps s0 (valJournal a0 a1 s) := by
  unfold valJournal
  repeat' first | with_reducible assumption | with_reducible apply journalEntry_keeps | with_reducible apply valPut_keeps

end Sys2Proof.Machine
end

