-- ==== Sys2Proof/Laws/Grid.lean ====
section
/-! SUPPORT. Laws/Grid.lean: the grids of cycles and periods and the output images keep the forms of the state and undo nothing that lasts, operation by operation. -/

set_option linter.unusedVariables false

namespace Sys2Proof.Machine

theorem imagePutOut_keeps {s0 : State} {a0 : Nat} :
    ∀ {a1 a2 a3 : Nat} {s : State}, Keeps s0 s → Keeps s0 (imagePutOut a0 a1 a2 a3 s)
  | _, 0, _, _, h => by unfold imagePutOut; exact h
  | _, _ + 1, _, _, h => by unfold imagePutOut; exact imagePutOut_keeps (Keeps.ite h (modRing_keeps h))

theorem imageSend_keeps {s0 s : State} {a0 : Word} {a1 : Word} (h : Keeps s0 s) : Keeps s0 (imageSend a0 a1 s) := by
  unfold imageSend
  repeat' first | with_reducible assumption | with_reducible apply imagePutOut_keeps

theorem imagesPut_keeps {s0 s : State} {a0 : Stamped → Bool} (h : Keeps s0 s) : Keeps s0 (imagesPut a0 s) := by
  unfold imagesPut
  repeat' first
    | with_reducible assumption | with_reducible apply imageSend_keeps | with_reducible apply Keeps.foldl | intro _ _ _ | dsimp only
    | with_reducible refine Keeps.mk' ?_ rfl rfl rfl rfl rfl rfl rfl rfl rfl rfl rfl rfl rfl rfl rfl rfl rfl rfl rfl rfl rfl rfl rfl rfl rfl rfl

theorem freezeWith_keeps {s0 s : State} {a0 : Nat} {a1 : Nat} (h : Keeps s0 s) : Keeps s0 (freezeWith a0 a1 s) := by
  unfold freezeWith
  repeat' first | with_reducible assumption | with_reducible apply imagesPut_keeps | with_reducible apply modRing_keeps

theorem freezeDue_keeps {s0 s : State} {a0 : Nat} (h : Keeps s0 s) : Keeps s0 (freezeDue a0 s) := by
  unfold freezeDue
  repeat' first | with_reducible assumption | with_reducible apply freezeWith_keeps | with_reducible apply Keeps.ite | split

theorem freezeImage_keeps {s0 s : State} {a0 : Nat} (h : Keeps s0 s) : Keeps s0 (freezeImage a0 s) := by
  unfold freezeImage
  repeat' first | with_reducible assumption | with_reducible apply freezeWith_keeps | with_reducible apply Keeps.ite

theorem imageApply_keeps {s0 s : State} {a0 : Nat} {a1 : Nat} {a2 : Nat} {a3 : Nat} (h : Keeps s0 s) :
    Keeps s0 (imageApply a0 a1 a2 a3 s) := by
  unfold imageApply
  repeat' first | with_reducible assumption | with_reducible apply imagePutOut_keeps | with_reducible apply freezeDue_keeps

end Sys2Proof.Machine
end

