-- ==== Sys2Proof/Laws/Memory.lean ====
section
/-! SUPPORT. Laws/Memory.lean: memory and the physical address space keep the forms of the state and undo nothing that lasts, operation by operation. -/

set_option linter.unusedVariables false

namespace Sys2Proof.Machine

/-- Bytes written keep the canonical form of memory. -/
theorem memBytesWrite_wf : ∀ {n pa v : Nat} {m : Kv Byte}, kvWf 0#8 m = true → kvWf 0#8 (memBytesWrite m pa n v) = true
  | 0, _, _, _, h => h
  | _ + 1, _, _, _, h => by unfold memBytesWrite; exact memBytesWrite_wf (kvSet_wf h)

/-- An update of memory's bytes that keeps their canonical form. -/
theorem Keeps.bytes {s t : State} (h : Keeps s t) {m : MemSt} (hm : Memory.wf t.mem.bytes = true → Memory.wf m.bytes = true)
    (hb : m.bank = t.mem.bank) : Keeps s { t with mem := m } := by
  refine h.trans ⟨fun i => ⟨hm i.mem, ?_, i.queue, i.log, i.link⟩, ⟨rfl, id, Nat.le_refl _, fun _ k => k, Nat.le_refl _⟩⟩
  have := i.tables
  simp only [tablesWf] at this ⊢
  rw [hb]
  exact this

theorem memWrite_keeps {s0 s : State} {a0 a1 a2 : Nat} (h : Keeps s0 s) : Keeps s0 (memWrite a0 a1 a2 s) :=
  h.bytes memBytesWrite_wf rfl

theorem columnFault_keeps {s0 s : State} {a0 : Nat} {a1 : Nat} (h : Keeps s0 s) : Keeps s0 (columnFault a0 a1 s) := by
  unfold columnFault
  repeat' first
    | with_reducible assumption | with_reducible apply logEvent_keeps | with_reducible apply Keeps.ite | dsimp only
    | with_reducible refine Keeps.mk' ?_ rfl rfl rfl rfl rfl rfl rfl rfl rfl rfl rfl rfl rfl rfl rfl rfl rfl rfl rfl rfl rfl rfl rfl rfl rfl rfl

theorem correctShelf_keeps {s0 s : State} {a0 : Nat} {a1 : Nat} (h : Keeps s0 s) : Keeps s0 (correctShelf a0 a1 s) := by
  unfold correctShelf
  repeat' first
    | with_reducible assumption | with_reducible apply bump_keeps | with_reducible apply columnFault_keeps
    | with_reducible apply Keeps.ite | split | dsimp only
    | with_reducible refine Keeps.mk' ?_ rfl rfl rfl rfl rfl rfl rfl rfl rfl rfl rfl rfl rfl rfl rfl rfl rfl rfl rfl rfl rfl rfl rfl rfl rfl rfl

theorem eccWord_keeps {s0 s : State} {a0 : Nat} (h : Keeps s0 s) : Keeps s0 (eccWord a0 s).2 := by
  unfold eccWord
  repeat' first
    | with_reducible assumption | with_reducible apply logEvent_keeps | with_reducible apply valPut_keeps
    | with_reducible apply bump_keeps | with_reducible apply correctShelf_keeps | with_reducible apply Keeps.ite
    | with_reducible apply Keeps.ite_snd | dsimp only
    | with_reducible refine Keeps.mk' ?_ rfl rfl rfl rfl rfl rfl rfl rfl rfl rfl rfl rfl rfl rfl rfl rfl rfl rfl rfl rfl rfl rfl rfl rfl rfl rfl

theorem eccWords_keeps {s0 : State} : ∀ {a0 : List Nat} {s : State}, Keeps s0 s → Keeps s0 (eccWords a0 s).2
  | [], _, h => h
  | _ :: _, _, h => by unfold eccWords; exact eccWords_keeps (eccWord_keeps h)

theorem eccClean_keeps {s0 s : State} {a0 : Nat} (h : Keeps s0 s) : Keeps s0 (eccClean a0 s) := by
  unfold eccClean
  repeat' first
    | with_reducible assumption | dsimp only
    | with_reducible refine Keeps.mk' ?_ rfl rfl rfl rfl rfl rfl rfl rfl rfl rfl rfl rfl rfl rfl rfl rfl rfl rfl rfl rfl rfl rfl rfl rfl rfl rfl

theorem storeWord_keeps {s0 s : State} {a0 : Nat} {a1 : Nat} {a2 : Nat} {a3 : Nat} (h : Keeps s0 s) :
    Keeps s0 (storeWord a0 a1 a2 a3 s).2 := by
  unfold storeWord
  repeat' first
    | with_reducible assumption | with_reducible apply eccWord_keeps | with_reducible apply memWrite_keeps
    | with_reducible apply eccClean_keeps | with_reducible apply Keeps.ite_snd

theorem wakeBank_keeps {s0 s : State} {a0 : Nat} (h : Keeps s0 s) : Keeps s0 (wakeBank a0 s) := by
  unfold wakeBank
  refine Keeps.ite ?_ h
  refine h.tabs rfl rfl rfl rfl rfl rfl rfl rfl rfl fun i => ?_
  simp only [tablesWf, Bool.and_eq_true] at i ⊢
  simp only [i, kvSet_wf, and_self]

theorem wakeDram_keeps {s0 s : State} (h : Keeps s0 s) : Keeps s0 (wakeDram s) := by
  unfold wakeDram
  refine Keeps.ite ?_ h
  refine h.tabs rfl rfl rfl rfl rfl rfl rfl rfl rfl fun i => ?_
  simp only [tablesWf, Bool.and_eq_true] at i ⊢
  simp only [i, kvSet_wf, and_self]

theorem physWake_keeps {s0 s : State} {a0 : Nat} {a1 : Nat} (h : Keeps s0 s) : Keeps s0 (physWake a0 a1 s) := by
  unfold physWake
  repeat' first
    | with_reducible assumption | with_reducible apply wakeDram_keeps | with_reducible apply wakeBank_keeps
    | with_reducible apply Keeps.foldl | intro _ _ _ | split

theorem viewPop_keeps {s0 s : State} {a0 : PKind} {a1 : Nat} (h : Keeps s0 s) : Keeps s0 (viewPop a0 a1 s) := by
  unfold viewPop
  repeat' first
    | with_reducible assumption | with_reducible apply setCap_keeps | with_reducible apply modRing_keeps | with_reducible apply Keeps.ite
    | split

theorem queueSeg_keeps {s0 s : State} {a0 : Nat} {a1 : Nat} {a2 : List Byte} {a3 : Nat} (h : Keeps s0 s) :
    Keeps s0 (queueSeg a0 a1 a2 a3 s) := by
  unfold queueSeg
  repeat' first | with_reducible assumption | with_reducible apply modRing_keeps

theorem acycTransmit_keeps {s0 s : State} {a0 : Nat} {a1 : Nat} (h : Keeps s0 s) : Keeps s0 (acycTransmit a0 a1 s) := by
  unfold acycTransmit
  repeat' first
    | with_reducible assumption | with_reducible apply bump_keeps | with_reducible apply queueSeg_keeps
    | with_reducible apply modRing_keeps | with_reducible apply Keeps.ite

theorem accError_keeps {s0 s : State}  (h : Keeps s0 s) : Keeps s0 (accError s).st := by
  unfold accError
  repeat' first | with_reducible assumption | with_reducible apply bump_keeps

theorem readPart_keeps {s0 s : State} {a0 : Nat} {a1 : Nat} (h : Keeps s0 s) : Keeps s0 (readPart a0 a1 s).st := by
  unfold readPart
  repeat' first
    | with_reducible assumption | with_reducible apply accError_keeps | with_reducible apply eccWord_keeps
    | with_reducible apply viewPop_keeps | split

theorem writePart_keeps {s0 s : State} {a0 : Nat} {a1 : Nat} {a2 : Nat} {a3 : Nat} (h : Keeps s0 s) :
    Keeps s0 (writePart a0 a1 a2 a3 s).st := by
  unfold writePart
  repeat' first
    | with_reducible assumption | with_reducible apply accError_keeps | with_reducible apply storeWord_keeps
    | with_reducible apply imageApply_keeps | with_reducible apply acycTransmit_keeps | with_reducible apply modRing_keeps | split
    | dsimp only
    | with_reducible refine Keeps.mk' ?_ rfl rfl rfl rfl rfl rfl rfl rfl rfl rfl rfl rfl rfl rfl rfl rfl rfl rfl rfl rfl rfl rfl rfl rfl rfl rfl

theorem readParts_keeps {s0 : State} : ∀ {a0 : List (Nat × Nat)} {s : State}, Keeps s0 s → Keeps s0 (readParts a0 s).st
  | [], _, h => h
  | _ :: _, _, h => by unfold readParts; dsimp only; exact readParts_keeps (readPart_keeps h)

theorem writeParts_keeps {s0 : State} {a0 : Nat} :
    ∀ {a1 : List (Nat × Nat)} {a2 : Nat} {s : State}, Keeps s0 s → Keeps s0 (writeParts a0 a1 a2 s).st
  | [], _, _, h => h
  | _ :: _, _, _, h => by unfold writeParts; dsimp only; exact writeParts_keeps (writePart_keeps h)

theorem readPhys_keeps {s0 s : State} {a0 : Nat} {a1 : Nat} (h : Keeps s0 s) : Keeps s0 (readPhys a0 a1 s).st := by
  unfold readPhys
  repeat' first | with_reducible assumption | with_reducible apply physWake_keeps | with_reducible apply readParts_keeps | split

theorem writePhys_keeps {s0 s : State} {a0 : Nat} {a1 : Nat} {a2 : Nat} {a3 : Nat} (h : Keeps s0 s) :
    Keeps s0 (writePhys a0 a1 a2 a3 s).st := by
  unfold writePhys
  repeat' first | with_reducible assumption | with_reducible apply physWake_keeps | with_reducible apply writeParts_keeps | split

end Sys2Proof.Machine
end

