-- ==== Sys2Proof/Laws/Slot.lean ====
section
/-! SUPPORT. Laws/Slot.lean: checkpoint slots and input logs keep the forms of the state and undo nothing that lasts, operation by operation. -/

set_option linter.unusedVariables false

namespace Sys2Proof.Machine

theorem scrubWords_keeps {s0 s : State} {a0 : Nat} {a1 : Nat} (h : Keeps s0 s) : Keeps s0 (scrubWords a0 a1 s) := by
  unfold scrubWords
  repeat' first | with_reducible assumption | with_reducible apply eccClean_keeps | with_reducible apply Keeps.foldl | intro _ _ _

theorem putSlot_keeps {s0 s : State} {a0 : Nat} {a1 : Bool} {a2 : Ckpt} (h : Keeps s0 s) : Keeps s0 (putSlot a0 a1 a2 s) := by
  unfold putSlot
  repeat' first | with_reducible assumption | with_reducible apply memWrite_keeps | with_reducible apply scrubWords_keeps

theorem readSlot_keeps {s0 s : State} {a0 : Nat} {a1 : Bool} (h : Keeps s0 s) : Keeps s0 (readSlot a0 a1 s).2 := by
  unfold readSlot
  repeat' first | with_reducible assumption | with_reducible apply eccWords_keeps | with_reducible apply Keeps.ite_snd

theorem putRec_keeps {s0 s : State} {a0 : Nat} {a1 : Nat} {a2 : LogRec} (h : Keeps s0 s) : Keeps s0 (putRec a0 a1 a2 s) := by
  unfold putRec
  repeat' first | with_reducible assumption | with_reducible apply memWrite_keeps | with_reducible apply eccClean_keeps

theorem readLog_keeps {s0 s : State} {a0 : Nat} (h : Keeps s0 s) : Keeps s0 (readLog a0 s).2.2 := by
  unfold readLog
  repeat' first | with_reducible assumption | with_reducible apply eccWords_keeps

theorem copyBytes_keeps {s0 s : State} {a0 : Nat} {a1 : Nat} {a2 : Nat} (h : Keeps s0 s) : Keeps s0 (copyBytes a0 a1 a2 s) := by
  unfold copyBytes
  repeat' first | with_reducible assumption | with_reducible apply memWrite_keeps | with_reducible apply scrubWords_keeps

theorem logItems_keeps {s0 s : State} {a0 : Nat} {a1 : List (Nat × Word)} (h : Keeps s0 s) : Keeps s0 (logItems a0 a1 s) := by
  unfold logItems
  repeat' first
    | with_reducible assumption | with_reducible apply modPair_keeps | with_reducible apply putRec_keeps
    | with_reducible apply Keeps.foldl | intro _ _ _ | with_reducible apply Keeps.ite

end Sys2Proof.Machine
end

