-- ==== Sys2Proof/Laws/Run.lean ====
section
/-! SUPPORT. Laws/Run.lean: the steps of engines and the delay chain keep the forms of the state and undo nothing that lasts, operation by operation. -/

set_option linter.unusedVariables false

namespace Sys2Proof.Machine

theorem setPend_keeps {s0 s : State} {a0 : Nat} {a1 : Nat} (h : Keeps s0 s) : Keeps s0 (setPend a0 a1 s) := by
  unfold setPend
  repeat' first
    | with_reducible assumption | with_reducible apply modPair_keeps | with_reducible apply modEng_keeps | with_reducible apply Keeps.ite

theorem setPendAll_keeps {s0 s : State} {a0 : Nat} (h : Keeps s0 s) : Keeps s0 (setPendAll a0 s) := by
  unfold setPendAll
  repeat' first | with_reducible assumption | with_reducible apply setPend_keeps | with_reducible apply Keeps.foldl | intro _ _ _

theorem countLate_keeps {s0 s : State} {a0 : Nat} (h : Keeps s0 s) : Keeps s0 (countLate a0 s) := by
  unfold countLate
  repeat' first | with_reducible assumption | with_reducible apply bump_keeps | with_reducible apply valPut_keeps

theorem rqEnter_keeps {s0 s : State} {a0 : Nat} {a1 : Word} (h : Keeps s0 s) : Keeps s0 (rqEnter a0 a1 s) := by
  unfold rqEnter
  repeat' first
    | with_reducible assumption | with_reducible apply setEng_keeps | with_reducible apply setPend_keeps | with_reducible apply Keeps.ite

theorem sendLeaves_keeps {s0 s : State} {a0 : Nat} {a1 : SendOp} (h : Keeps s0 s) : Keeps s0 (sendLeaves a0 a1 s) := by
  unfold sendLeaves
  repeat' first
    | with_reducible assumption | with_reducible apply Keeps.ite | dsimp only
    | with_reducible refine Keeps.mk' ?_ rfl rfl rfl rfl rfl rfl rfl rfl rfl rfl rfl rfl rfl rfl rfl rfl rfl rfl rfl rfl rfl rfl rfl rfl rfl rfl

theorem releaseItem_keeps {s0 s : State} {a0 : Nat} {a1 : OutItem} (h : Keeps s0 s) : Keeps s0 (releaseItem a0 s a1) := by
  unfold releaseItem
  repeat' first
    | with_reducible assumption | with_reducible apply setPair_keeps | with_reducible apply modEng_keeps
    | with_reducible apply sendLeaves_keeps | with_reducible apply Keeps.ite | split

theorem tryMask_keeps {s0 s : State} {a0 : Nat} (h : Keeps s0 s) : Keeps s0 (tryMask a0 s) := by
  unfold tryMask
  repeat' first | with_reducible assumption | with_reducible apply restorePromise_keeps | with_reducible apply Keeps.ite

theorem loseMask_keeps {s0 s : State} {a0 : Nat} (h : Keeps s0 s) : Keeps s0 (loseMask a0 s) := by
  unfold loseMask
  repeat' first | with_reducible assumption | with_reducible apply lapse_keeps

theorem freeLocks_keeps {s0 s : State} {a0 : Nat} (h : Keeps s0 s) : Keeps s0 (freeLocks a0 s) := by
  unfold freeLocks
  repeat' first
    | with_reducible assumption | dsimp only
    | with_reducible refine Keeps.mk' ?_ rfl rfl rfl rfl rfl rfl rfl rfl rfl rfl rfl rfl rfl rfl rfl rfl rfl rfl rfl rfl rfl rfl rfl rfl rfl rfl

theorem breakLocks_keeps {s0 s : State} {a0 : Nat} (h : Keeps s0 s) : Keeps s0 (breakLocks a0 s) := by
  unfold breakLocks
  repeat' first
    | with_reducible assumption | with_reducible apply freeLocks_keeps | with_reducible apply bump_keeps | with_reducible apply Keeps.ite

theorem haltPair_keeps {s0 s : State} {a0 : Nat} (h : Keeps s0 s) : Keeps s0 (haltPair a0 s) := by
  unfold haltPair
  repeat' first | with_reducible assumption | with_reducible apply modEng_keeps

theorem pairOut_keeps {s0 s : State} {a0 : Nat} (h : Keeps s0 s) : Keeps s0 (pairOut a0 s) := by
  unfold pairOut
  repeat' first
    | with_reducible assumption | with_reducible apply freeLocks_keeps | with_reducible apply haltPair_keeps
    | with_reducible apply modEng_keeps | with_reducible apply loseMask_keeps | with_reducible apply modPair_keeps

theorem unrecoverable_keeps {s0 s : State} {a0 : Nat} (h : Keeps s0 s) : Keeps s0 (unrecoverable a0 s) := by
  unfold unrecoverable
  repeat' first | with_reducible assumption | with_reducible apply logEvent_keeps | with_reducible apply pairOut_keeps

theorem beginRestart_keeps {s0 s : State} {a0 : Nat} (h : Keeps s0 s) : Keeps s0 (beginRestart a0 s) := by
  unfold beginRestart
  repeat' first
    | with_reducible assumption | with_reducible apply setEng_keeps | with_reducible apply modEng_keeps
    | with_reducible apply breakLocks_keeps | with_reducible apply setPair_keeps | with_reducible apply Keeps.ite | dsimp only
    | with_reducible refine Keeps.mk' ?_ rfl rfl rfl rfl rfl rfl rfl rfl rfl rfl rfl rfl rfl rfl rfl rfl rfl rfl rfl rfl rfl rfl rfl rfl rfl rfl

theorem startMigration_keeps {s0 s : State} {a0 : Nat} {a1 : Nat} {a2 : Bool} (h : Keeps s0 s) :
    Keeps s0 (startMigration a0 a1 a2 s) := by
  unfold startMigration
  repeat' first | with_reducible assumption | with_reducible apply modPair_keeps | with_reducible apply loseMask_keeps | split

theorem mismatch_keeps {s0 s : State} {a0 : Nat} {a1 : Bool} (h : Keeps s0 s) : Keeps s0 (mismatch a0 a1 s) := by
  unfold mismatch
  repeat' first
    | with_reducible assumption | with_reducible apply bump_keeps | with_reducible apply logEvent_keeps
    | with_reducible apply unrecoverable_keeps | with_reducible apply modPair_keeps | with_reducible apply beginRestart_keeps
    | with_reducible apply startMigration_keeps | with_reducible apply Keeps.ite

theorem thirdFault_keeps {s0 s : State} {a0 : Nat} {a1 : Nat} {a2 : Bool} (h : Keeps s0 s) : Keeps s0 (thirdFault a0 a1 a2 s) := by
  unfold thirdFault
  repeat' first
    | with_reducible assumption | with_reducible apply freeLocks_keeps | with_reducible apply modEng_keeps
    | with_reducible apply logEvent_keeps | with_reducible apply valPut_keeps | with_reducible apply pairOut_keeps
    | with_reducible apply modPair_keeps | with_reducible apply beginRestart_keeps | with_reducible apply unrecoverable_keeps
    | with_reducible apply Keeps.ite

theorem releaseToken_keeps {s0 s : State} {a0 : Nat} {a1 : Token} (h : Keeps s0 s) : Keeps s0 (releaseToken a0 a1 s) := by
  unfold releaseToken
  repeat' first | with_reducible assumption | with_reducible apply releaseItem_keeps | with_reducible apply Keeps.foldl | intro _ _ _

theorem runToken_keeps {s0 s : State} {a0 : Nat} {a1 : Token} (h : Keeps s0 s) : Keeps s0 (runToken a0 a1 s) := by
  unfold runToken
  repeat' first
    | with_reducible assumption | with_reducible apply setEng_keeps | with_reducible apply releaseToken_keeps
    | with_reducible apply mismatch_keeps | with_reducible apply Keeps.ite

theorem drainChain_keeps {s0 : State} {a1 a2 : Nat} : ∀ {a0 : Nat} {s : State}, Keeps s0 s → Keeps s0 (drainChain a0 a1 a2 s)
  | 0, _, h => h
  | _ + 1, _, h => by
    unfold drainChain
    dsimp only
    split
    · exact h
    · exact Keeps.ite h (drainChain_keeps (runToken_keeps (setPair_keeps h)))

theorem pushTokens_keeps {s0 s : State} {a0 : Nat} {a1 : Token} {a2 : Nat} (h : Keeps s0 s) : Keeps s0 (pushTokens a0 a1 a2 s) := by
  unfold pushTokens
  repeat' first | with_reducible assumption | with_reducible apply drainChain_keeps | with_reducible apply modPair_keeps

theorem noteTile_keeps {s0 s : State} {a0 : Nat} {a1 : IssueOut} {a2 : Nat} (h : Keeps s0 s) : Keeps s0 (noteTile a0 a1 a2 s) := by
  unfold noteTile
  repeat' first
    | with_reducible assumption | with_reducible apply bump_keeps | with_reducible apply modEng_keeps | with_reducible apply Keeps.ite

theorem stopNow_keeps {s0 s : State} {a0 : Nat} (h : Keeps s0 s) : Keeps s0 (stopNow a0 s) := by
  unfold stopNow
  repeat' first | with_reducible assumption | with_reducible apply freeLocks_keeps | with_reducible apply modEng_keeps

theorem resetNow_keeps {s0 s : State} {a0 : Nat} (h : Keeps s0 s) : Keeps s0 (resetNow a0 s) := by
  unfold resetNow
  repeat' first | with_reducible assumption | with_reducible apply freeLocks_keeps | with_reducible apply modEng_keeps

theorem applyEngCmd_keeps {s0 s : State} {a0 : Nat} (h : Keeps s0 s) : Keeps s0 (applyEngCmd a0 s) := by
  unfold applyEngCmd
  repeat' first
    | with_reducible assumption | with_reducible apply stopNow_keeps | with_reducible apply modEng_keeps
    | with_reducible apply resetNow_keeps | with_reducible apply Keeps.ite | split

theorem modEngs_keeps {s0 s : State} {a0 : Engine → Engine} (h : Keeps s0 s) : Keeps s0 (modEngs a0 s) := by
  unfold modEngs
  repeat' first | with_reducible assumption | with_reducible apply modEng_keeps | with_reducible apply Keeps.foldl | intro _ _ _

theorem logLoads_keeps {s0 s : State} {a0 : Nat} {a1 : Nat} (h : Keeps s0 s) : Keeps s0 (logLoads a0 a1 s) := by
  unfold logLoads
  repeat' first
    | with_reducible assumption | with_reducible apply setEng_keeps | with_reducible apply logItems_keeps
    | with_reducible apply modPair_keeps | with_reducible apply Keeps.ite | split | dsimp only

theorem notePeak_keeps {s0 s : State}  (h : Keeps s0 s) : Keeps s0 (notePeak s) := by
  unfold notePeak
  repeat' first | with_reducible assumption | with_reducible apply valPut_keeps | with_reducible apply Keeps.ite

theorem pairStep_keeps {s0 s : State} {a0 : Nat} {a1 : Nat} {a2 : Inp} {a3 : IssueOut} (h : Keeps s0 s) :
    Keeps s0 (pairStep a0 a1 a2 a3 s) := by
  unfold pairStep
  repeat' first
    | with_reducible assumption | with_reducible apply logLoads_keeps | with_reducible apply logItems_keeps
    | with_reducible apply modPair_keeps | with_reducible apply pushTokens_keeps

theorem splitSteps_keeps {s0 s : State} {a0 : Nat} {a1 : Nat} {a2 : Bool} (h : Keeps s0 s) : Keeps s0 (splitSteps a0 a1 a2 s) := by
  unfold splitSteps
  repeat' first
    | with_reducible assumption | with_reducible apply modPair_keeps | intro _ _ | intro _ | with_reducible apply Keeps.ite
    | with_reducible apply Keeps.ite_snd | with_reducible apply Keeps.ite_fst | split | dsimp only
    | with_reducible refine Keeps.mk' ?_ rfl rfl rfl rfl rfl rfl rfl rfl rfl rfl rfl rfl rfl rfl rfl rfl rfl rfl rfl rfl rfl rfl rfl rfl rfl rfl

theorem engineStep_keeps {s0 s : State} {a0 : Nat} {a1 : Nat} (h : Keeps s0 s) : Keeps s0 (engineStep a0 a1 s) := by
  unfold engineStep
  repeat' first
    | with_reducible assumption | with_reducible apply noteTile_keeps | with_reducible apply setEng_keeps
    | with_reducible apply countLate_keeps | with_reducible apply splitSteps_keeps | with_reducible apply releaseItem_keeps
    | with_reducible apply pairStep_keeps | with_reducible apply thirdFault_keeps | with_reducible apply notePeak_keeps
    | with_reducible apply applyEngCmd_keeps | with_reducible apply Keeps.foldl | intro _ _ _ | with_reducible apply Keeps.ite

end Sys2Proof.Machine
end

