-- ==== Sys2Proof/Laws/Pairs.lean ====
section
/-! SUPPORT. Laws/Pairs.lean: engine and pair commands, captures and restores keep the forms of the state and undo nothing that lasts, operation by operation. -/

set_option linter.unusedVariables false

namespace Sys2Proof.Machine

theorem freshMeter_keeps {s0 s : State} {a0 : Nat} (h : Keeps s0 s) : Keeps s0 (freshMeter a0 s) := by
  unfold freshMeter
  repeat' first
    | with_reducible assumption | with_reducible apply modEng_keeps | with_reducible apply modTile_keeps
    | with_reducible apply Keeps.foldl | intro _ _ _ | with_reducible apply Keeps.ite

theorem startEngineAt_keeps {s0 s : State} {a0 : Nat} {a1 : Nat} {a2 : Bool} (h : Keeps s0 s) : Keeps s0 (startEngineAt a0 a1 a2 s) := by
  unfold startEngineAt
  repeat' first | with_reducible assumption | with_reducible apply modEng_keeps | with_reducible apply freshMeter_keeps

theorem startEngine_keeps {s0 s : State} {a0 : Nat} {a1 : Nat} (h : Keeps s0 s) : Keeps s0 (startEngine a0 a1 s) := by
  unfold startEngine
  repeat' first | with_reducible assumption | with_reducible apply startEngineAt_keeps

theorem endHold_keeps {s0 s : State} {a0 : Nat} {a1 : WaitSt} {a2 : Bool} (h : Keeps s0 s) : Keeps s0 (endHold a0 a1 a2 s) := by
  unfold endHold
  repeat' first
    | with_reducible assumption | with_reducible apply setEng_keeps | with_reducible apply countLate_keeps
    | with_reducible apply Keeps.ite

theorem rejoinWait_keeps {s0 s : State} {a0 : Nat} (h : Keeps s0 s) : Keeps s0 (rejoinWait a0 s) := by
  unfold rejoinWait
  repeat' first
    | with_reducible assumption | with_reducible apply setEng_keeps | with_reducible apply endHold_keeps | with_reducible apply Keeps.ite
    | split | dsimp only

theorem pairAfter_keeps {s0 s : State} {a0 : Nat} (h : Keeps s0 s) : Keeps s0 (pairAfter a0 s) := by
  unfold pairAfter
  repeat' first
    | with_reducible assumption | with_reducible apply drainChain_keeps | with_reducible apply tryMask_keeps
    | with_reducible apply modPair_keeps | with_reducible apply modEng_keeps | with_reducible apply Keeps.ite

theorem engStopLike_keeps {s0 s : State} {a0 : Nat} {a1 : Nat} (h : Keeps s0 s) : Keeps s0 (engStopLike a0 a1 s) := by
  unfold engStopLike
  repeat' first
    | with_reducible assumption | with_reducible apply setEng_keeps | with_reducible apply applyEngCmd_keeps
    | with_reducible apply Keeps.ite

theorem stopInto_keeps {s0 s : State} {a0 : Nat} {a1 : PairState} (h : Keeps s0 s) : Keeps s0 (stopInto a0 a1 s) := by
  unfold stopInto
  repeat' first
    | with_reducible assumption | with_reducible apply pairAfter_keeps | with_reducible apply engStopLike_keeps
    | with_reducible apply setPair_keeps | with_reducible apply modPair_keeps | with_reducible apply Keeps.ite

theorem mergeAfter_keeps {s0 s : State} {a0 : Nat} (h : Keeps s0 s) : Keeps s0 (mergeAfter a0 s) := by
  unfold mergeAfter
  repeat' first | with_reducible assumption | with_reducible apply stopInto_keeps | with_reducible apply Keeps.ite

theorem issueOne_keeps {s0 s : State} {a0 : Nat} {a1 : Nat} (h : Keeps s0 s) : Keeps s0 (issueOne a0 a1 s) := by
  unfold issueOne
  repeat' first
    | with_reducible assumption | with_reducible apply mergeAfter_keeps | with_reducible apply pairAfter_keeps
    | with_reducible apply engineStep_keeps

theorem engStepOne_keeps {s0 s : State} {a0 : Nat} (h : Keeps s0 s) : Keeps s0 (engStepOne a0 s) := by
  unfold engStepOne
  repeat' first
    | with_reducible assumption | with_reducible apply modEng_keeps | with_reducible apply rejoinWait_keeps
    | with_reducible apply issueOne_keeps | with_reducible apply Keeps.ite

theorem engCmdWrite_keeps {s0 s : State} {a0 : Nat} {a1 : Nat} (h : Keeps s0 s) : Keeps s0 (engCmdWrite a0 a1 s).2 := by
  unfold engCmdWrite
  repeat' first
    | with_reducible assumption | with_reducible apply startEngine_keeps | with_reducible apply modTile_keeps
    | with_reducible apply engStopLike_keeps | with_reducible apply rejoinWait_keeps | with_reducible apply engStepOne_keeps
    | with_reducible apply Keeps.ite_snd | split

theorem captureSteps_keeps {s0 s : State} {a0 : Nat} (h : Keeps s0 s) : Keeps s0 (captureSteps a0 s) := by
  unfold captureSteps
  repeat' first | with_reducible assumption | with_reducible apply modEng_keeps | with_reducible apply Keeps.ite

theorem pairEvent_keeps {s0 s : State} {a0 : Nat} {a1 : Nat} (h : Keeps s0 s) : Keeps s0 (pairEvent a0 a1 s) := by
  unfold pairEvent
  repeat' first | with_reducible assumption | with_reducible apply valPut_keeps | with_reducible apply Keeps.ite

theorem logCapture_keeps {s0 s : State} {a0 : Nat} (h : Keeps s0 s) : Keeps s0 (logCapture a0 s) := by
  unfold logCapture
  repeat' first | with_reducible assumption | with_reducible apply pairEvent_keeps | with_reducible apply Keeps.ite

theorem acceptCapture_keeps {s0 s : State} {a0 : Nat} {a1 : Ckpt} (h : Keeps s0 s) : Keeps s0 (acceptCapture a0 a1 s) := by
  unfold acceptCapture
  repeat' first
    | with_reducible assumption | with_reducible apply setPair_keeps | with_reducible apply modEng_keeps
    | with_reducible apply putSlot_keeps | with_reducible apply logCapture_keeps | with_reducible apply modPair_keeps
    | with_reducible apply Keeps.ite

theorem moveQueue_keeps {s0 s : State} {a0 : Nat} {a1 : Nat} (h : Keeps s0 s) : Keeps s0 (moveQueue a0 a1 s) := by
  unfold moveQueue
  repeat' first | with_reducible assumption | with_reducible apply modEng_keeps

theorem handOver_keeps {s0 s : State} {a0 : Nat} {a1 : Nat} {a2 : Ckpt} (h : Keeps s0 s) : Keeps s0 (handOver a0 a1 a2 s) := by
  unfold handOver
  repeat' first
    | with_reducible assumption | with_reducible apply putSlot_keeps | with_reducible apply haltPair_keeps
    | with_reducible apply moveQueue_keeps | with_reducible apply modEng_keeps | with_reducible apply setPair_keeps
    | with_reducible apply logEvent_keeps

theorem splitKeep_keeps {s0 s : State} {a0 : Nat} (h : Keeps s0 s) : Keeps s0 (splitKeep a0 s) := by
  unfold splitKeep
  repeat' first | with_reducible assumption | with_reducible apply modPair_keeps | with_reducible apply modEng_keeps

theorem mergeKeep_keeps {s0 s : State} {a0 : Nat} {a1 : Ckpt} (h : Keeps s0 s) : Keeps s0 (mergeKeep a0 a1 s) := by
  unfold mergeKeep
  repeat' first
    | with_reducible assumption | with_reducible apply modEng_keeps | with_reducible apply modPair_keeps
    | with_reducible apply putSlot_keeps

theorem takeCapture_keeps {s0 s : State} {a0 : Nat} (h : Keeps s0 s) : Keeps s0 (takeCapture a0 s) := by
  unfold takeCapture
  repeat' first
    | with_reducible assumption | with_reducible apply drainChain_keeps | with_reducible apply captureSteps_keeps
    | with_reducible apply mismatch_keeps | with_reducible apply handOver_keeps | with_reducible apply acceptCapture_keeps
    | with_reducible apply splitKeep_keeps | with_reducible apply Keeps.ite | split

theorem takeMergeCapture_keeps {s0 s : State} {a0 : Nat} (h : Keeps s0 s) : Keeps s0 (takeMergeCapture a0 s) := by
  unfold takeMergeCapture
  repeat' first | with_reducible assumption | with_reducible apply modEng_keeps | with_reducible apply mergeKeep_keeps

theorem restorePair_keeps {s0 s : State} {a0 : Nat} {a1 : Bool} (h : Keeps s0 s) : Keeps s0 (restorePair a0 a1 s) := by
  unfold restorePair
  repeat' first
    | with_reducible assumption | with_reducible apply readSlot_keeps | with_reducible apply readLog_keeps
    | with_reducible apply setPair_keeps | with_reducible apply modEng_keeps | with_reducible apply unrecoverable_keeps | split
    | dsimp only

theorem replayDone_keeps {s0 s : State} {a0 : Nat} (h : Keeps s0 s) : Keeps s0 (replayDone a0 s) := by
  unfold replayDone
  repeat' first | with_reducible assumption | with_reducible apply modEng_keeps | with_reducible apply setPair_keeps

theorem startPairAt_keeps {s0 s : State} {a0 : Nat} {a1 : Bool} (h : Keeps s0 s) : Keeps s0 (startPairAt a0 a1 s) := by
  unfold startPairAt
  repeat' first
    | with_reducible assumption | with_reducible apply startEngineAt_keeps | with_reducible apply setPair_keeps | dsimp only
    | with_reducible refine Keeps.mk' ?_ rfl rfl rfl rfl rfl rfl rfl rfl rfl rfl rfl rfl rfl rfl rfl rfl rfl rfl rfl rfl rfl rfl rfl rfl rfl rfl

theorem startPair_keeps {s0 s : State} {a0 : Nat} (h : Keeps s0 s) : Keeps s0 (startPair a0 s) := by
  unfold startPair
  repeat' first | with_reducible assumption | with_reducible apply startPairAt_keeps

theorem injectPair_keeps {s0 s : State} {a0 : Nat} {a1 : Option Nat} (h : Keeps s0 s) : Keeps s0 (injectPair a0 a1 s) := by
  unfold injectPair
  repeat' first | with_reducible assumption | with_reducible apply logEvent_keeps | with_reducible apply modPair_keeps | split

theorem pairStopLike_keeps {s0 s : State} {a0 : Nat} {a1 : Nat} (h : Keeps s0 s) : Keeps s0 (pairStopLike a0 a1 s) := by
  unfold pairStopLike
  repeat' first | with_reducible assumption | with_reducible apply pairAfter_keeps | with_reducible apply engStopLike_keeps

theorem pairResume_keeps {s0 s : State} {a0 : Nat} (h : Keeps s0 s) : Keeps s0 (pairResume a0 s) := by
  unfold pairResume
  repeat' first
    | with_reducible assumption | with_reducible apply rejoinWait_keeps | with_reducible apply modPair_keeps
    | with_reducible apply modEng_keeps

theorem pairStepOne_keeps {s0 s : State} {a0 : Nat} (h : Keeps s0 s) : Keeps s0 (pairStepOne a0 s) := by
  unfold pairStepOne
  repeat' first
    | with_reducible assumption | with_reducible apply pairResume_keeps | with_reducible apply modEng_keeps
    | with_reducible apply issueOne_keeps | with_reducible apply Keeps.ite

theorem pairCmdWrite_keeps {s0 s : State} {a0 : Nat} {a1 : Nat} {a2 : Option Nat} (h : Keeps s0 s) :
    Keeps s0 (pairCmdWrite a0 a1 a2 s).2 := by
  unfold pairCmdWrite
  repeat' first
    | with_reducible assumption | with_reducible apply setPair_keeps | with_reducible apply startPair_keeps
    | with_reducible apply modTile_keeps | with_reducible apply pairStopLike_keeps | with_reducible apply modPair_keeps
    | with_reducible apply startMigration_keeps | with_reducible apply pairResume_keeps | with_reducible apply pairStepOne_keeps
    | with_reducible apply injectPair_keeps | with_reducible apply Keeps.ite_snd | split

theorem pairAtMark_keeps {s0 s : State} {a0 : Nat} (h : Keeps s0 s) : Keeps s0 (pairAtMark a0 s) := by
  unfold pairAtMark
  repeat' first
    | with_reducible assumption | with_reducible apply stopInto_keeps | with_reducible apply setPair_keeps
    | with_reducible apply Keeps.ite | split | dsimp only

theorem substAtMark_keeps {s0 s : State} {a0 : Nat} (h : Keeps s0 s) : Keeps s0 (substAtMark a0 s) := by
  unfold substAtMark
  repeat' first | with_reducible assumption | with_reducible apply modPair_keeps

end Sys2Proof.Machine
end

