-- ==== Sys2Proof/Laws/Net.lean ====
section
/-! SUPPORT. Laws/Net.lean: images, pins and captures keep the forms of the state and undo nothing that lasts, operation by operation. -/

set_option linter.unusedVariables false

namespace Sys2Proof.Machine

theorem wakeTile_keeps {s0 s : State} {a0 : Nat} (h : Keeps s0 s) : Keeps s0 (wakeTile a0 s) := by
  have aborted : Keeps s0 { s with power := { s.power with entry := kvSet 0 s.power.entry (512 + a0) 0 } } := by
    refine h.tabs rfl rfl rfl rfl rfl rfl rfl rfl rfl fun i => ?_
    simp only [tablesWf, Bool.and_eq_true] at i ⊢
    simp only [i, kvSet_wf, and_self]
  unfold wakeTile
  repeat' first
    | with_reducible assumption | with_reducible apply modTile_keeps | with_reducible apply Keeps.ite | dsimp only
    | with_reducible refine Keeps.mk' ?_ rfl rfl rfl rfl rfl rfl rfl rfl rfl rfl rfl rfl rfl rfl rfl rfl rfl rfl rfl rfl rfl rfl rfl rfl rfl rfl

theorem setOverflow_keeps {s0 s : State} {a0 : Nat} (h : Keeps s0 s) : Keeps s0 (setOverflow a0 s) := by
  unfold setOverflow
  repeat' first
    | with_reducible assumption | with_reducible apply setEng_keeps | with_reducible apply setPend_keeps | with_reducible apply Keeps.ite

theorem lateIf_keeps {s0 s : State} {a0 : Nat} {a1 : Nat} (h : Keeps s0 s) : Keeps s0 (lateIf a0 a1 s) := by
  unfold lateIf
  repeat' first | with_reducible assumption | with_reducible apply countLate_keeps | with_reducible apply Keeps.ite

theorem wordsDue_keeps {s0 s : State} {a0 : Nat} {a1 : Nat} (h : Keeps s0 s) : Keeps s0 (wordsDue a0 a1 s) := by
  unfold wordsDue
  repeat' first
    | with_reducible assumption | with_reducible apply rqEnter_keeps | with_reducible apply Keeps.foldl | intro _ _ _ | dsimp only
    | with_reducible refine Keeps.mk' ?_ rfl rfl rfl rfl rfl rfl rfl rfl rfl rfl rfl rfl rfl rfl rfl rfl rfl rfl rfl rfl rfl rfl rfl rfl rfl rfl

theorem wordArrives_keeps {s0 s : State} {a0 : Nat} {a1 : Nat} (h : Keeps s0 s) : Keeps s0 (wordArrives a0 s a1) := by
  unfold wordArrives
  repeat' first
    | with_reducible assumption | with_reducible apply wakeTile_keeps | with_reducible apply wordsDue_keeps
    | with_reducible apply rqEnter_keeps | with_reducible apply lateIf_keeps | with_reducible apply setOverflow_keeps
    | with_reducible apply Keeps.ite | split | dsimp only
    | with_reducible refine Keeps.mk' ?_ rfl rfl rfl rfl rfl rfl rfl rfl rfl rfl rfl rfl rfl rfl rfl rfl rfl rfl rfl rfl rfl rfl rfl rfl rfl rfl

theorem stampedEntry_keeps {s0 s : State} {a0 : Nat} (h : Keeps s0 s) : Keeps s0 (stampedEntry a0 s) := by
  unfold stampedEntry
  repeat' first
    | with_reducible assumption | with_reducible apply wordsDue_keeps | with_reducible apply wakeTile_keeps | split | dsimp only
    | with_reducible refine Keeps.mk' ?_ rfl rfl rfl rfl rfl rfl rfl rfl rfl rfl rfl rfl rfl rfl rfl rfl rfl rfl rfl rfl rfl rfl rfl rfl rfl rfl

theorem pinDiscard_keeps {s0 s : State} {a0 : Nat} (h : Keeps s0 s) : Keeps s0 (pinDiscard a0 s) := by
  unfold pinDiscard
  repeat' first | with_reducible assumption | with_reducible apply bump_keeps

theorem pinApply_keeps {s0 s : State} {a0 : Nat} {a1 : Nat} (h : Keeps s0 s) : Keeps s0 (pinApply a0 a1 s) := by
  unfold pinApply
  repeat' first
    | with_reducible assumption | with_reducible apply pinDiscard_keeps | with_reducible apply valPut_keeps
    | with_reducible apply setPin_keeps | with_reducible apply Keeps.ite

theorem pinQueue_keeps {s0 s : State} {a0 : Nat} {a1 : Stamped} (h : Keeps s0 s) : Keeps s0 (pinQueue a0 a1 s) := by
  unfold pinQueue
  repeat' first
    | with_reducible assumption | with_reducible apply bump_keeps | with_reducible apply logEvent_keeps
    | with_reducible apply setPin_keeps | with_reducible apply Keeps.ite

theorem outApply_keeps {s0 s : State} {a0 : Word} {a1 : Word} (h : Keeps s0 s) : Keeps s0 (outApply a0 a1 s) := by
  unfold outApply
  repeat' first
    | with_reducible assumption | with_reducible apply imageSend_keeps | with_reducible apply freezeDue_keeps
    | with_reducible apply pinApply_keeps | with_reducible apply Keeps.ite

theorem pinDue_keeps {s0 s : State} {a0 : Nat} {a1 : Nat} (h : Keeps s0 s) : Keeps s0 (pinDue a0 s a1) := by
  unfold pinDue
  repeat' first
    | with_reducible assumption | with_reducible apply outApply_keeps | with_reducible apply setPin_keeps
    | with_reducible apply Keeps.foldl | intro _ _ _

theorem stampedDue_keeps {s0 s : State}  (h : Keeps s0 s) : Keeps s0 (stampedDue s) := by
  unfold stampedDue
  repeat' first
    | with_reducible assumption | with_reducible apply pinDue_keeps | with_reducible apply imagesPut_keeps
    | with_reducible apply freezeDue_keeps | with_reducible apply Keeps.foldl | intro _ _ _

theorem outArrives_keeps {s0 s : State} {a0 : OutWrite} (h : Keeps s0 s) : Keeps s0 (outArrives a0 s) := by
  unfold outArrives
  repeat' first
    | with_reducible assumption | with_reducible apply stampedDue_keeps | with_reducible apply outApply_keeps
    | with_reducible apply lateIf_keeps | with_reducible apply pinQueue_keeps | with_reducible apply Keeps.ite | split | dsimp only
    | with_reducible refine Keeps.mk' ?_ rfl rfl rfl rfl rfl rfl rfl rfl rfl rfl rfl rfl rfl rfl rfl rfl rfl rfl rfl rfl rfl rfl rfl rfl rfl rfl

theorem outArrival_keeps {s0 s : State} {a0 : Nat} (h : Keeps s0 s) : Keeps s0 (outArrival a0 s) := by
  unfold outArrival
  repeat' first
    | with_reducible assumption | with_reducible apply outArrives_keeps | split | dsimp only
    | with_reducible refine Keeps.mk' ?_ rfl rfl rfl rfl rfl rfl rfl rfl rfl rfl rfl rfl rfl rfl rfl rfl rfl rfl rfl rfl rfl rfl rfl rfl rfl rfl

theorem recordEdge_keeps {s0 s : State} {a0 : Nat} {a1 : Bool} (h : Keeps s0 s) : Keeps s0 (recordEdge a0 a1 s) := by
  unfold recordEdge
  repeat' first
    | with_reducible assumption | with_reducible apply setCap_keeps | with_reducible apply setPendAll_keeps
    | with_reducible apply bump_keeps | with_reducible apply Keeps.ite

theorem syncMeasure_keeps {s0 s : State} {a0 : Bool} (h : Keeps s0 s) : Keeps s0 (syncMeasure a0 s) := by
  unfold syncMeasure
  repeat' first
    | with_reducible assumption | with_reducible apply Keeps.ite | dsimp only
    | with_reducible refine Keeps.mk' ?_ rfl rfl rfl rfl rfl rfl rfl rfl rfl rfl rfl rfl rfl rfl rfl rfl rfl rfl rfl rfl rfl rfl rfl rfl rfl rfl

theorem edgeAt_keeps {s0 s : State} {a0 : Nat} {a1 : Bool} (h : Keeps s0 s) : Keeps s0 (edgeAt a0 a1 s) := by
  unfold edgeAt
  repeat' first
    | with_reducible assumption | with_reducible apply recordEdge_keeps | with_reducible apply setPin_keeps
    | with_reducible apply syncMeasure_keeps | with_reducible apply Keeps.ite | dsimp only
    | with_reducible refine Keeps.mk' ?_ rfl rfl rfl rfl rfl rfl rfl rfl rfl rfl rfl rfl rfl rfl rfl rfl rfl rfl rfl rfl rfl rfl rfl rfl rfl rfl

theorem frameCapture_keeps {s0 s : State} {a0 : Nat} {a1 : Nat} (h : Keeps s0 s) : Keeps s0 (frameCapture a0 a1 s) := by
  unfold frameCapture
  repeat' first | with_reducible assumption | with_reducible apply setCap_keeps

theorem stopRing_keeps {s0 s : State} {a0 : Nat} (h : Keeps s0 s) : Keeps s0 (stopRing a0 s) := by
  unfold stopRing
  repeat' first | with_reducible assumption | with_reducible apply modRing_keeps | with_reducible apply Keeps.ite

theorem stopPin_keeps {s0 s : State} {a0 : Nat} (h : Keeps s0 s) : Keeps s0 (stopPin s a0) := by
  unfold stopPin
  repeat' first | with_reducible assumption | with_reducible apply setPin_keeps | with_reducible apply Keeps.ite | split

theorem pinHolds_keeps {s0 s : State} {a0 : Nat} (h : Keeps s0 s) : Keeps s0 (pinHolds a0 s) := by
  unfold pinHolds
  repeat' first | with_reducible assumption | with_reducible apply stopPin_keeps | with_reducible apply Keeps.ite

theorem safeStop_keeps {s0 s : State}  (h : Keeps s0 s) : Keeps s0 (safeStop s) := by
  unfold safeStop
  repeat' first
    | with_reducible assumption | with_reducible apply stopRing_keeps | with_reducible apply logEvent_keeps
    | with_reducible apply stopPin_keeps | with_reducible apply Keeps.foldl | split | dsimp only
    | with_reducible refine Keeps.mk' ?_ rfl rfl rfl rfl rfl rfl rfl rfl rfl rfl rfl rfl rfl rfl rfl rfl rfl rfl rfl rfl rfl rfl rfl rfl rfl rfl

end Sys2Proof.Machine
end

