-- ==== Sys2Proof/Laws/Time.lean ====
section
/-! SUPPORT. Laws/Time.lean: Sirkan time, followers, waits and refresh keep the forms of the state and undo nothing that lasts, operation by operation. -/

set_option linter.unusedVariables false

namespace Sys2Proof.Machine

theorem phaseReduce_keeps {s0 s : State}  (h : Keeps s0 s) : Keeps s0 (phaseReduce s) := by
  unfold phaseReduce
  repeat' first | with_reducible assumption | with_reducible apply valJournal_keeps | with_reducible apply Keeps.ite

theorem periodRun_keeps {s0 s : State} {a0 : Nat} (h : Keeps s0 s) : Keeps s0 (periodRun a0 s) := by
  unfold periodRun
  repeat' first
    | with_reducible assumption | split | dsimp only
    | with_reducible refine Keeps.mk' ?_ rfl rfl rfl rfl rfl rfl rfl rfl rfl rfl rfl rfl rfl rfl rfl rfl rfl rfl rfl rfl rfl rfl rfl rfl rfl rfl

theorem alignFollow_keeps {s0 s : State} {a0 : Nat} {a1 : Nat} (h : Keeps s0 s) : Keeps s0 (alignFollow a0 a1 s) := by
  unfold alignFollow
  repeat' first
    | with_reducible assumption | with_reducible apply restorePromise_keeps | with_reducible apply lapse_keeps
    | with_reducible apply Keeps.ite

theorem ringFollow_keeps {s0 s : State} {a0 : Nat} (h : Keeps s0 s) : Keeps s0 (ringFollow a0 s) := by
  unfold ringFollow
  repeat' first
    | with_reducible assumption | with_reducible apply restorePromise_keeps | with_reducible apply lapse_keeps
    | with_reducible apply Keeps.ite

theorem withStatus_keeps {s0 s : State} {a0 : State → State} (h :
    Keeps s0 s) (ha0 : ∀ x, Keeps s0 x → Keeps s0 (a0 x)): Keeps s0 (withStatus a0 s) := by
  unfold withStatus
  repeat' first
    | with_reducible assumption | with_reducible apply ha0 | with_reducible apply ringFollow_keeps | with_reducible apply setPendAll_keeps
    | with_reducible apply Keeps.ite | dsimp only
    | with_reducible refine Keeps.mk' ?_ rfl rfl rfl rfl rfl rfl rfl rfl rfl rfl rfl rfl rfl rfl rfl rfl rfl rfl rfl rfl rfl rfl rfl rfl rfl rfl

theorem noteMissed_keeps {s0 s : State} {a0 : Nat} (h : Keeps s0 s) : Keeps s0 (noteMissed a0 s) := by
  unfold noteMissed
  repeat' first | with_reducible assumption | with_reducible apply setEng_keeps | with_reducible apply Keeps.ite

theorem noteTileMissed_keeps {s0 s : State} {a0 : Nat} (h : Keeps s0 s) : Keeps s0 (noteTileMissed a0 s) := by
  unfold noteTileMissed
  repeat' first | with_reducible assumption | with_reducible apply noteMissed_keeps | with_reducible apply Keeps.foldl | intro _ _ _

theorem stepHold_keeps {s0 s : State} {a0 : Nat} (h : Keeps s0 s) : Keeps s0 (stepHold a0 s) := by
  unfold stepHold
  repeat' first
    | with_reducible assumption | with_reducible apply endHold_keeps | with_reducible apply noteMissed_keeps
    | with_reducible apply Keeps.ite | split | dsimp only

theorem stepFreeze_keeps {s0 s : State} {a0 : Nat} (h : Keeps s0 s) : Keeps s0 (stepFreeze a0 s) := by
  unfold stepFreeze
  repeat' first | with_reducible assumption | with_reducible apply modRing_keeps | with_reducible apply Keeps.ite | split

theorem replanJobs_keeps {s0 s : State}  (h : Keeps s0 s) : Keeps s0 (replanJobs s) := by
  unfold replanJobs
  repeat' first | with_reducible assumption | with_reducible apply setJob_keeps | with_reducible apply Keeps.foldl | intro _ _ _

theorem stepTime_keeps {s0 s : State} {a0 : Nat} (h : Keeps s0 s) : Keeps s0 (stepTime a0 s) := by
  unfold stepTime
  repeat' first
    | with_reducible assumption | with_reducible apply freezeDue_keeps | with_reducible apply stepFreeze_keeps
    | with_reducible apply stepHold_keeps | with_reducible apply replanJobs_keeps | with_reducible apply Keeps.foldl | dsimp only
    | with_reducible refine Keeps.mk' ?_ rfl rfl rfl rfl rfl rfl rfl rfl rfl rfl rfl rfl rfl rfl rfl rfl rfl rfl rfl rfl rfl rfl rfl rfl rfl rfl

theorem timeSet_keeps {s0 s : State} {a0 : Nat} (h : Keeps s0 s) : Keeps s0 (timeSet a0 s) := by
  unfold timeSet
  repeat' first
    | with_reducible assumption | with_reducible apply withStatus_keeps | with_reducible apply alignFollow_keeps
    | with_reducible apply logEvent_keeps | with_reducible apply stepTime_keeps | intro _ _ | dsimp only
    | with_reducible refine Keeps.mk' ?_ rfl rfl rfl rfl rfl rfl rfl rfl rfl rfl rfl rfl rfl rfl rfl rfl rfl rfl rfl rfl rfl rfl rfl rfl rfl rfl

theorem timeSource_keeps {s0 s : State}  (h : Keeps s0 s) : Keeps s0 (timeSource s) := by
  unfold timeSource
  repeat' first
    | with_reducible assumption | with_reducible apply withStatus_keeps | with_reducible apply valPut_keeps | intro _ _ | dsimp only
    | with_reducible refine Keeps.mk' ?_ rfl rfl rfl rfl rfl rfl rfl rfl rfl rfl rfl rfl rfl rfl rfl rfl rfl rfl rfl rfl rfl rfl rfl rfl rfl rfl

theorem measure_keeps {s0 s : State} {a0 : Int} {a1 : Int} (h : Keeps s0 s) : Keeps s0 (measure a0 a1 s) := by
  unfold measure
  repeat' first
    | with_reducible assumption | with_reducible apply valPut_keeps | with_reducible apply withStatus_keeps
    | with_reducible apply stepTime_keeps | with_reducible apply lapse_keeps | with_reducible apply alignFollow_keeps | intro _ _
    | with_reducible apply Keeps.ite | split | dsimp only
    | with_reducible refine Keeps.mk' ?_ rfl rfl rfl rfl rfl rfl rfl rfl rfl rfl rfl rfl rfl rfl rfl rfl rfl rfl rfl rfl rfl rfl rfl rfl rfl rfl

theorem sourceLost_keeps {s0 s : State}  (h : Keeps s0 s) : Keeps s0 (sourceLost s) := by
  unfold sourceLost
  repeat' first
    | with_reducible assumption | with_reducible apply Keeps.ite | dsimp only
    | with_reducible refine Keeps.mk' ?_ rfl rfl rfl rfl rfl rfl rfl rfl rfl rfl rfl rfl rfl rfl rfl rfl rfl rfl rfl rfl rfl rfl rfl rfl rfl rfl

theorem holdoverOver_keeps {s0 s : State}  (h : Keeps s0 s) : Keeps s0 (holdoverOver s) := by
  unfold holdoverOver
  repeat' first
    | with_reducible assumption | with_reducible apply withStatus_keeps | with_reducible apply alignFollow_keeps | intro _ _
    | with_reducible apply Keeps.ite | dsimp only
    | with_reducible refine Keeps.mk' ?_ rfl rfl rfl rfl rfl rfl rfl rfl rfl rfl rfl rfl rfl rfl rfl rfl rfl rfl rfl rfl rfl rfl rfl rfl rfl rfl

theorem followerLost_keeps {s0 s : State} {a0 : Nat} (h : Keeps s0 s) : Keeps s0 (followerLost a0 s) := by
  unfold followerLost
  repeat' first
    | with_reducible assumption | with_reducible apply withStatus_keeps | with_reducible apply alignFollow_keeps
    | with_reducible apply noteTileMissed_keeps | with_reducible apply modTile_keeps | intro _ _ | with_reducible apply Keeps.ite

theorem followerLock_keeps {s0 s : State} {a0 : Nat} (h : Keeps s0 s) : Keeps s0 (followerLock a0 s) := by
  unfold followerLock
  repeat' first
    | with_reducible assumption | with_reducible apply withStatus_keeps | with_reducible apply alignFollow_keeps
    | with_reducible apply noteTileMissed_keeps | with_reducible apply modTile_keeps | intro _ _ | with_reducible apply Keeps.ite

theorem followerTimeout_keeps {s0 s : State} {a0 : Nat} (h : Keeps s0 s) : Keeps s0 (followerTimeout a0 s) := by
  unfold followerTimeout
  repeat' first | with_reducible assumption | with_reducible apply followerLost_keeps | with_reducible apply Keeps.ite

theorem lostLate_keeps {s0 s : State} {a0 : Nat} (h : Keeps s0 s) : Keeps s0 (lostLate a0 s) := by
  unfold lostLate
  repeat' first | with_reducible assumption | with_reducible apply countLate_keeps | with_reducible apply Keeps.ite

theorem waitRelease_keeps {s0 s : State} {a0 : Nat} {a1 : Nat} (h : Keeps s0 s) : Keeps s0 (waitRelease a0 a1 s) := by
  unfold waitRelease
  repeat' first
    | with_reducible assumption | with_reducible apply endHold_keeps | with_reducible apply issueOne_keeps
    | with_reducible apply Keeps.ite | split | dsimp only

theorem startRelease_keeps {s0 s : State} {a0 : Nat} {a1 : Nat} (h : Keeps s0 s) : Keeps s0 (startRelease a0 a1 s) := by
  unfold startRelease
  repeat' first
    | with_reducible assumption | with_reducible apply lostLate_keeps | with_reducible apply modEng_keeps
    | with_reducible apply issueOne_keeps | with_reducible apply Keeps.ite

theorem refreshWindow_keeps {s0 s : State}  (h : Keeps s0 s) : Keeps s0 (refreshWindow s) := by
  unfold refreshWindow
  repeat' first
    | with_reducible assumption | with_reducible apply valPut_keeps | with_reducible apply Keeps.ite | dsimp only
    | with_reducible refine Keeps.mk' ?_ rfl rfl rfl rfl rfl rfl rfl rfl rfl rfl rfl rfl rfl rfl rfl rfl rfl rfl rfl rfl rfl rfl rfl rfl rfl rfl

theorem refreshDebt_keeps {s0 s : State} {a0 : Nat} (h : Keeps s0 s) : Keeps s0 (refreshDebt a0 s) := by
  unfold refreshDebt
  repeat' first
    | with_reducible assumption | with_reducible apply valPut_keeps | with_reducible apply logEvent_keeps | with_reducible apply Keeps.ite

theorem refreshCommand_keeps {s0 s : State}  (h : Keeps s0 s) : Keeps s0 (refreshCommand s) := by
  unfold refreshCommand
  repeat' first
    | with_reducible assumption | with_reducible apply bump_keeps | with_reducible apply valPut_keeps | with_reducible apply Keeps.ite
    | dsimp only
    | with_reducible refine Keeps.mk' ?_ rfl rfl rfl rfl rfl rfl rfl rfl rfl rfl rfl rfl rfl rfl rfl rfl rfl rfl rfl rfl rfl rfl rfl rfl rfl rfl

theorem refreshAtMark_keeps {s0 s : State}  (h : Keeps s0 s) : Keeps s0 (refreshAtMark s) := by
  unfold refreshAtMark
  repeat' first
    | with_reducible assumption | with_reducible apply refreshDebt_keeps | split | dsimp only
    | with_reducible refine Keeps.mk' ?_ rfl rfl rfl rfl rfl rfl rfl rfl rfl rfl rfl rfl rfl rfl rfl rfl rfl rfl rfl rfl rfl rfl rfl rfl rfl rfl

end Sys2Proof.Machine
end

