-- ==== Sys2Proof/Laws/Power.lean ====
section
/-! SUPPORT. Laws/Power.lean: the power link, pace control and domains keep the forms of the state and undo nothing that lasts, operation by operation. -/

set_option linter.unusedVariables false

namespace Sys2Proof.Machine

theorem stopAllEngines_keeps {s0 s : State}  (h : Keeps s0 s) : Keeps s0 (stopAllEngines s) := by
  unfold stopAllEngines
  repeat' first
    | with_reducible assumption | with_reducible apply stopNow_keeps | with_reducible apply Keeps.foldl | intro _ _ _
    | with_reducible apply Keeps.ite

theorem idleAllPairs_keeps {s0 s : State}  (h : Keeps s0 s) : Keeps s0 (idleAllPairs s) := by
  unfold idleAllPairs
  repeat' first
    | with_reducible assumption | with_reducible apply modPair_keeps | with_reducible apply Keeps.foldl | intro _ _ _
    | with_reducible apply Keeps.ite

theorem nonSingleFault_keeps {s0 s : State}  (h : Keeps s0 s) : Keeps s0 (nonSingleFault s) := by
  unfold nonSingleFault
  repeat' first
    | with_reducible assumption | with_reducible apply lapse_keeps | with_reducible apply idleAllPairs_keeps
    | with_reducible apply stopAllEngines_keeps | with_reducible apply Keeps.foldl | intro _ _ _ | with_reducible apply Keeps.ite
    | dsimp only
    | with_reducible refine Keeps.mk' ?_ rfl rfl rfl rfl rfl rfl rfl rfl rfl rfl rfl rfl rfl rfl rfl rfl rfl rfl rfl rfl rfl rfl rfl rfl rfl rfl

/-- An update of the power request link that keeps one request for a rail. -/
theorem Keeps.power {s t : State} (h : Keeps s t) {p : PowerSt}
    (hp : (t.power.reqs.map LinkReq.rail).Nodup → (p.reqs.map LinkReq.rail).Nodup) (hd : p.dom = t.power.dom)
    (he : p.entry = t.power.entry) (ht : kvWf 650 t.power.target = true → kvWf 650 p.target = true)
    (ha : kvWf 650 t.power.acked = true → kvWf 650 p.acked = true) : Keeps s { t with power := p } := by
  refine h.trans ⟨fun i => ⟨i.mem, ?_, i.queue, i.log, hp i.link⟩, ⟨rfl, id, Nat.le_refl _, fun _ k => k, Nat.le_refl _⟩⟩
  have := i.tables
  simp only [tablesWf, Bool.and_eq_true] at this ⊢
  rw [hd, he]
  exact ⟨⟨this.1.1, ht this.1.2⟩, ha this.2⟩

theorem linkSend_keeps {s0 s : State} {a0 a1 a2 : Nat} (h : Keeps s0 s) : Keeps s0 (linkSend a0 a1 a2 s) := by
  unfold linkSend
  split
  · exact h
  · rename_i hb
    refine h.power (fun i => ?_) rfl rfl id id
    simp only [railBusy, not_or, List.any_eq_true, beq_iff_eq, not_exists, not_and] at hb
    simp only [List.map_append, List.map_cons, List.map_nil, List.nodup_append]
    refine ⟨i, by simp, ?_⟩
    intro x hx y hy
    simp only [List.mem_map, List.mem_singleton] at hx hy
    obtain ⟨r, hr, rfl⟩ := hx
    subst hy
    exact hb.1 r hr

theorem railSet_keeps {s0 s : State} {a0 a1 : Nat} (h : Keeps s0 s) : Keeps s0 (railSet a0 a1 s) := by
  unfold railSet
  exact Keeps.ite h (linkSend_keeps (h.power id rfl rfl kvSet_wf id))

theorem linkAck_keeps {s0 s : State} {a0 a1 a2 a3 : Nat} (h : Keeps s0 s) : Keeps s0 (linkAck a0 a1 a2 a3 s) := by
  unfold linkAck
  split
  · exact h
  · rename_i r _
    dsimp only
    have e : (s.power.reqs.map LinkReq.rail).Nodup → ((s.power.reqs.erase r).map LinkReq.rail).Nodup :=
      fun i => i.sublist ((List.erase_sublist).map LinkReq.rail)
    exact Keeps.ite (Keeps.ite (bump_keeps (h.power e rfl rfl id kvSet_wf)) (h.power e rfl rfl id id)) (h.power e rfl rfl id id)

theorem linkError_keeps {s0 s : State} {a0 : Nat} (h : Keeps s0 s) : Keeps s0 (linkError a0 s) := by
  unfold linkError
  split
  · exact h
  · rename_i r _
    dsimp only
    have e : (s.power.reqs.map LinkReq.rail).Nodup →
        ((s.power.reqs.map fun q => if q = r then { q with errors := q.errors + 1 } else q).map LinkReq.rail).Nodup := by
      intro i
      rw [List.map_map]
      have : (LinkReq.rail ∘ fun q => if q = r then { q with errors := q.errors + 1 } else q) = LinkReq.rail := by
        funext q
        simp only [Function.comp_apply]
        split <;> rfl
      rw [this]
      exact i
    refine Keeps.ite h (Keeps.ite (nonSingleFault_keeps (logEvent_keeps ?_)) (bump_keeps (h.power e rfl rfl id id)))
    with_reducible refine Keeps.mk' ?_ rfl rfl rfl rfl rfl rfl rfl rfl rfl rfl rfl rfl rfl rfl rfl rfl rfl rfl rfl rfl rfl rfl rfl rfl rfl rfl
    exact bump_keeps (h.power e rfl rfl id id)

theorem confirmTile_keeps {s0 s : State} {a0 : Nat × Nat × Nat} (h : Keeps s0 s) : Keeps s0 (confirmTile a0 s) := by
  unfold confirmTile
  repeat' first
    | with_reducible assumption | split | dsimp only
    | with_reducible refine Keeps.mk' ?_ rfl rfl rfl rfl rfl rfl rfl rfl rfl rfl rfl rfl rfl rfl rfl rfl rfl rfl rfl rfl rfl rfl rfl rfl rfl rfl

theorem tryPace_keeps {s0 s : State} {a0 : Nat} (h : Keeps s0 s) : Keeps s0 (tryPace a0 s) := by
  unfold tryPace
  repeat' first | with_reducible assumption | with_reducible apply restorePromise_keeps | with_reducible apply Keeps.ite

theorem judgeTile_keeps {s0 s : State} {a0 : Nat} {a1 : Nat × Nat × Nat} (h : Keeps s0 s) : Keeps s0 (judgeTile a0 s a1) := by
  unfold judgeTile
  repeat' first
    | with_reducible assumption | with_reducible apply lapse_keeps | with_reducible apply tryPace_keeps | with_reducible apply Keeps.ite
    | dsimp only
    | with_reducible refine Keeps.mk' ?_ rfl rfl rfl rfl rfl rfl rfl rfl rfl rfl rfl rfl rfl rfl rfl rfl rfl rfl rfl rfl rfl rfl rfl rfl rfl rfl

theorem paceEvaluate_keeps {s0 s : State} {a0 : Nat} {a1 : List Nat} (h : Keeps s0 s) : Keeps s0 (paceEvaluate a0 a1 s) := by
  unfold paceEvaluate
  repeat' first
    | with_reducible assumption | with_reducible apply valPut_keeps | with_reducible apply railSet_keeps
    | with_reducible apply logEvent_keeps | with_reducible apply confirmTile_keeps | with_reducible apply judgeTile_keeps
    | with_reducible apply Keeps.foldl | intro _ _ _ | with_reducible apply Keeps.ite

theorem domPut_keeps {s0 s : State} {a0 : DomId} {a1 : Nat} (h : Keeps s0 s) : Keeps s0 (domPut a0 a1 s) := by
  cases a0 with
  | tile t => unfold domPut; exact withStatus_keeps h fun _ k => alignFollow_keeps (modTile_keeps k)
  | dev d =>
    have hm : (if d.val = 4 ∧ a1 = 0 then { s.mem with refEnd := max s.mem.refEnd s.up } else s.mem).bytes = s.mem.bytes := by
      split <;> rfl
    have hb : (if d.val = 4 ∧ a1 = 0 then { s.mem with refEnd := max s.mem.refEnd s.up } else s.mem).bank = s.mem.bank := by
      split <;> rfl
    refine h.tabs hm rfl rfl rfl rfl rfl rfl rfl rfl fun i => ?_
    simp only [tablesWf, Bool.and_eq_true, hb] at i ⊢
    simp only [i, kvSet_wf, and_self]
  | bank b =>
    refine h.tabs rfl rfl rfl rfl rfl rfl rfl rfl rfl fun i => ?_
    simp only [tablesWf, Bool.and_eq_true] at i ⊢
    simp only [i, kvSet_wf, and_self]

theorem entryPut_keeps {s0 s : State} {a0 : DomId} {a1 : Nat} (h : Keeps s0 s) : Keeps s0 (entryPut a0 a1 s) := by
  refine h.tabs rfl rfl rfl rfl rfl rfl rfl rfl rfl fun i => ?_
  simp only [tablesWf, Bool.and_eq_true] at i ⊢
  simp only [i, kvSet_wf, and_self]

theorem loseBank_keeps {s0 s : State} {a0 : Nat} (h : Keeps s0 s) : Keeps s0 (loseBank a0 s) :=
  h.bytes kvFilter_wf rfl

theorem loseDram_keeps {s0 s : State} (h : Keeps s0 s) : Keeps s0 (loseDram s) :=
  h.bytes kvFilter_wf rfl

theorem rebuildTile_keeps {s0 s : State} {a0 : Nat} (h : Keeps s0 s) : Keeps s0 (rebuildTile a0 s) := by
  unfold rebuildTile
  repeat' first | with_reducible assumption | with_reducible apply modEng_keeps | with_reducible apply Keeps.foldl | intro _ _ _

theorem domOff_keeps {s0 s : State} {a0 : DomId} (h : Keeps s0 s) : Keeps s0 (domOff a0 s) := by
  unfold domOff
  repeat' first
    | with_reducible assumption | with_reducible apply domPut_keeps | with_reducible apply entryPut_keeps
    | with_reducible apply rebuildTile_keeps | with_reducible apply loseBank_keeps | with_reducible apply loseDram_keeps
    | with_reducible apply Keeps.ite | split | dsimp only
    | with_reducible refine Keeps.mk' ?_ rfl rfl rfl rfl rfl rfl rfl rfl rfl rfl rfl rfl rfl rfl rfl rfl rfl rfl rfl rfl rfl rfl rfl rfl rfl rfl

theorem domWake_keeps {s0 s : State} {a0 : DomId} (h : Keeps s0 s) : Keeps s0 (domWake a0 s) := by
  unfold domWake
  repeat' first | with_reducible assumption | with_reducible apply domPut_keeps

theorem wakeEvent_keeps {s0 s : State} {a0 : DomId} (h : Keeps s0 s) : Keeps s0 (wakeEvent a0 s) := by
  unfold wakeEvent
  repeat' first
    | with_reducible assumption | with_reducible apply entryPut_keeps | with_reducible apply domWake_keeps
    | with_reducible apply Keeps.ite | dsimp only
    | with_reducible refine Keeps.mk' ?_ rfl rfl rfl rfl rfl rfl rfl rfl rfl rfl rfl rfl rfl rfl rfl rfl rfl rfl rfl rfl rfl rfl rfl rfl rfl rfl

theorem domRequest_keeps {s0 s : State} {a0 : DomId} {a1 : Nat} (h : Keeps s0 s) : Keeps s0 (domRequest a0 a1 s).2 := by
  unfold domRequest
  repeat' first
    | with_reducible assumption | with_reducible apply domPut_keeps | with_reducible apply wakeEvent_keeps
    | with_reducible apply entryPut_keeps | with_reducible apply domOff_keeps | with_reducible apply Keeps.ite_snd | split | dsimp only
    | with_reducible refine Keeps.mk' ?_ rfl rfl rfl rfl rfl rfl rfl rfl rfl rfl rfl rfl rfl rfl rfl rfl rfl rfl rfl rfl rfl rfl rfl rfl rfl rfl

theorem commitPoint_keeps {s0 s : State} {a0 : DomId} (h : Keeps s0 s) : Keeps s0 (commitPoint a0 s) := by
  unfold commitPoint
  repeat' first
    | with_reducible assumption | with_reducible apply domPut_keeps | with_reducible apply entryPut_keeps | with_reducible apply Keeps.ite

theorem saveComplete_keeps {s0 s : State} {a0 : DomId} (h : Keeps s0 s) : Keeps s0 (saveComplete a0 s) := by
  unfold saveComplete
  repeat' first
    | with_reducible assumption | with_reducible apply entryPut_keeps | with_reducible apply domOff_keeps
    | with_reducible apply domWake_keeps | with_reducible apply Keeps.ite | dsimp only
    | with_reducible refine Keeps.mk' ?_ rfl rfl rfl rfl rfl rfl rfl rfl rfl rfl rfl rfl rfl rfl rfl rfl rfl rfl rfl rfl rfl rfl rfl rfl rfl rfl

theorem tileOn_keeps {s0 s : State} {a0 : Nat} (h : Keeps s0 s) : Keeps s0 (tileOn a0 s) := by
  unfold tileOn
  repeat' first
    | with_reducible assumption | with_reducible apply modTile_keeps | dsimp only
    | with_reducible refine Keeps.mk' ?_ rfl rfl rfl rfl rfl rfl rfl rfl rfl rfl rfl rfl rfl rfl rfl rfl rfl rfl rfl rfl rfl rfl rfl rfl rfl rfl

theorem retainNext_keeps {s0 s : State} {a0 : DomId} (h : Keeps s0 s) : Keeps s0 (retainNext a0 s) := by
  unfold retainNext
  repeat' first
    | with_reducible assumption | with_reducible apply entryPut_keeps | with_reducible apply Keeps.ite | dsimp only
    | with_reducible refine Keeps.mk' ?_ rfl rfl rfl rfl rfl rfl rfl rfl rfl rfl rfl rfl rfl rfl rfl rfl rfl rfl rfl rfl rfl rfl rfl rfl rfl rfl

theorem wakeComplete_keeps {s0 s : State} {a0 : DomId} (h : Keeps s0 s) : Keeps s0 (wakeComplete a0 s) := by
  unfold wakeComplete
  repeat' first
    | with_reducible assumption | with_reducible apply retainNext_keeps | with_reducible apply bump_keeps
    | with_reducible apply tileOn_keeps | with_reducible apply domPut_keeps | with_reducible apply Keeps.ite | split

theorem fillComplete_keeps {s0 s : State} {a0 : DomId} (h : Keeps s0 s) : Keeps s0 (fillComplete a0 s) := by
  unfold fillComplete
  repeat' first
    | with_reducible assumption | with_reducible apply retainNext_keeps | with_reducible apply tileOn_keeps
    | with_reducible apply rebuildTile_keeps | with_reducible apply domPut_keeps | with_reducible apply loseBank_keeps
    | with_reducible apply Keeps.ite | split | dsimp only
    | with_reducible refine Keeps.mk' ?_ rfl rfl rfl rfl rfl rfl rfl rfl rfl rfl rfl rfl rfl rfl rfl rfl rfl rfl rfl rfl rfl rfl rfl rfl rfl rfl

theorem idleExpiry_keeps {s0 s : State} {a0 : DomId} (h : Keeps s0 s) : Keeps s0 (idleExpiry a0 s) := by
  unfold idleExpiry
  repeat' first | with_reducible assumption | with_reducible apply domRequest_keeps | with_reducible apply Keeps.ite

theorem phaseFailure_keeps {s0 s : State} {a0 : Nat} {a1 : Nat} (h : Keeps s0 s) : Keeps s0 (phaseFailure a0 a1 s) := by
  unfold phaseFailure
  repeat' first
    | with_reducible assumption | with_reducible apply logEvent_keeps | with_reducible apply valPut_keeps
    | with_reducible apply nonSingleFault_keeps | with_reducible apply Keeps.ite | dsimp only
    | with_reducible refine Keeps.mk' ?_ rfl rfl rfl rfl rfl rfl rfl rfl rfl rfl rfl rfl rfl rfl rfl rfl rfl rfl rfl rfl rfl rfl rfl rfl rfl rfl

theorem regulatorFault_keeps {s0 s : State} {a0 : Nat} {a1 : Nat} (h : Keeps s0 s) : Keeps s0 (regulatorFault a0 a1 s) := by
  unfold regulatorFault
  repeat' first | with_reducible assumption | with_reducible apply nonSingleFault_keeps | with_reducible apply logEvent_keeps

theorem ratingBreach_keeps {s0 s : State} {a0 : Nat} {a1 : Nat} (h : Keeps s0 s) : Keeps s0 (ratingBreach a0 a1 s) := by
  unfold ratingBreach
  repeat' first
    | with_reducible assumption | with_reducible apply lapse_keeps | with_reducible apply logEvent_keeps | with_reducible apply Keeps.ite
    | dsimp only
    | with_reducible refine Keeps.mk' ?_ rfl rfl rfl rfl rfl rfl rfl rfl rfl rfl rfl rfl rfl rfl rfl rfl rfl rfl rfl rfl rfl rfl rfl rfl rfl rfl

theorem ratingRestored_keeps {s0 s : State} {a0 : Nat} {a1 : Nat} (h : Keeps s0 s) : Keeps s0 (ratingRestored a0 a1 s) := by
  unfold ratingRestored
  repeat' first
    | with_reducible assumption | with_reducible apply tryPace_keeps | with_reducible apply logEvent_keeps
    | with_reducible apply Keeps.ite | dsimp only
    | with_reducible refine Keeps.mk' ?_ rfl rfl rfl rfl rfl rfl rfl rfl rfl rfl rfl rfl rfl rfl rfl rfl rfl rfl rfl rfl rfl rfl rfl rfl rfl rfl

end Sys2Proof.Machine
end

