-- ==== Sys2Proof/Laws/Access.lean ====
section
/-! SUPPORT. Laws/Access.lean: loads, stores, shelf cells and wipes keep the forms of the state and undo nothing that lasts, operation by operation. -/

set_option linter.unusedVariables false

namespace Sys2Proof.Machine

theorem lockClose_keeps {s0 s : State} {a0 : Nat} (h : Keeps s0 s) : Keeps s0 (lockClose a0 s) := by
  unfold lockClose
  repeat' first | with_reducible assumption | with_reducible apply freeLocks_keeps | with_reducible apply modEng_keeps

theorem lockAbort_keeps {s0 s : State} {a0 : Nat} (h : Keeps s0 s) : Keeps s0 (lockAbort a0 s) := by
  unfold lockAbort
  repeat' first | with_reducible assumption | with_reducible apply lockClose_keeps | with_reducible apply modEng_keeps

theorem lockStep_keeps {s0 s : State} {a0 : Nat} {a1 : Place} {a2 : Nat} {a3 : Bool} (h : Keeps s0 s) :
    Keeps s0 (lockStep a0 a1 a2 a3 s).2 := by
  unfold lockStep
  repeat' first
    | with_reducible assumption | with_reducible apply lockAbort_keeps | with_reducible apply modEng_keeps
    | with_reducible apply Keeps.ite_snd | split | dsimp only
    | with_reducible refine Keeps.mk' ?_ rfl rfl rfl rfl rfl rfl rfl rfl rfl rfl rfl rfl rfl rfl rfl rfl rfl rfl rfl rfl rfl rfl rfl rfl rfl rfl

theorem upset_keeps {s0 s : State} {a0 : Nat} {a1 : Nat} (h : Keeps s0 s) : Keeps s0 (upset a0 a1 s) := by
  unfold upset
  repeat' first
    | with_reducible assumption | with_reducible apply Keeps.ite | dsimp only
    | with_reducible refine Keeps.mk' ?_ rfl rfl rfl rfl rfl rfl rfl rfl rfl rfl rfl rfl rfl rfl rfl rfl rfl rfl rfl rfl rfl rfl rfl rfl rfl rfl

theorem upsetAt_keeps {s0 s : State} {a0 : Place} {a1 : Nat} (h : Keeps s0 s) : Keeps s0 (upsetAt a0 a1 s) := by
  unfold upsetAt
  repeat' first | with_reducible assumption | with_reducible apply upset_keeps | split

theorem loadAt_keeps {s0 s : State} {a0 : CatLoad} {a1 : Nat} {a2 : LoadOp} (h :
    Keeps s0 s) (ha0 : ∀ i j k l x, Keeps s0 x → Keeps s0 (a0 i j k l x).2.2): Keeps s0 (loadAt a0 a1 a2 s).st := by
  unfold loadAt
  repeat' first
    | with_reducible assumption | with_reducible apply ha0 | with_reducible apply readPhys_keeps | with_reducible apply modEng_keeps
    | split

theorem putLoaded_keeps {s0 s : State} {a0 : Nat} {a1 : LoadOp} (h : Keeps s0 s) : Keeps s0 (putLoaded a0 a1 s) := by
  unfold putLoaded
  repeat' first
    | with_reducible assumption | with_reducible apply modEng_keeps | with_reducible apply modPair_keeps
    | with_reducible apply memWrite_keeps | with_reducible apply Keeps.foldl | intro _ _ _ | split

theorem eccSubstitute_keeps {s0 s : State} {a0 : Nat} {a1 : LoadOp} {a2 : Nat} (h : Keeps s0 s) :
    Keeps s0 (eccSubstitute a0 a1 a2 s) := by
  unfold eccSubstitute
  repeat' first | with_reducible assumption | with_reducible apply modPair_keeps | with_reducible apply Keeps.ite

/-- An access that waits leaves the engines and the locks as they were. -/
theorem Keeps.engBack {s t u : State} (h : Keeps s t) (k : Keeps s u) : Keeps s { t with eng := u.eng, xfer := u.xfer } := by
  refine ⟨fun i => ⟨(h.inv i).mem, ?_, (h.inv i).queue, (h.inv i).log, (h.inv i).link⟩, ⟨h.lasting.waiting, h.lasting.retired,
    h.lasting.rollback, h.lasting.fused, h.lasting.nonces⟩⟩
  have i1 := (h.inv i).tables
  have i2 := (k.inv i).tables
  simp only [tablesWf, Bool.and_eq_true] at i1 i2 ⊢
  simp only [i1, i2, and_self]

theorem performLoad_keeps {s0 s : State} {a0 : CatLoad} {a1 : Nat} {a2 : LoadOp} (h : Keeps s0 s)
    (ha0 : ∀ i j k l x, Keeps s0 x → Keeps s0 (a0 i j k l x).2.2) : Keeps s0 (performLoad a0 a1 a2 s) := by
  unfold performLoad
  dsimp only
  have put : ∀ {v err : Nat} {x : State}, Keeps s0 x → Keeps s0 (eccSubstitute a1 a2 err (putLoaded a1 (loadDone a2 v err) x)) :=
    fun k => eccSubstitute_keeps (putLoaded_keeps k)
  refine Keeps.ite h ?_
  split
  · exact h
  · exact put h
  · have hl := lockStep_keeps (a0 := a1) (a1 := a2.place) (a2 := 2 ^ a2.width) (a3 := a2.last) h
    have ht := loadAt_keeps (a1 := a1) (a2 := a2) h ha0
    have hu := loadAt_keeps (a1 := a1) (a2 := a2) hl ha0
    refine Keeps.ite h (Keeps.ite (Keeps.ite (put (bump_keeps hl)) (Keeps.ite (hu.engBack h) ?_)) (Keeps.ite ht (put ht)))
    exact Keeps.ite (lockAbort_keeps (put hu)) (Keeps.ite (lockClose_keeps (put hu)) (put hu))

theorem arrive_keeps {s0 s : State} {a0 : Nat} (h : Keeps s0 s) : Keeps s0 (arrive a0 s) := by
  unfold arrive
  repeat' first | with_reducible assumption | with_reducible apply setEng_keeps | with_reducible apply Keeps.ite | split | dsimp only

theorem loadReturn_keeps {s0 s : State} {a0 : CatLoad} {a1 : Nat} {a2 : Nat} (h :
    Keeps s0 s) (ha0 : ∀ i j k l x, Keeps s0 x → Keeps s0 (a0 i j k l x).2.2): Keeps s0 (loadReturn a0 a1 a2 s) := by
  unfold loadReturn
  repeat' first
    | with_reducible assumption | with_reducible apply arrive_keeps | with_reducible apply performLoad_keeps
    | with_reducible apply upsetAt_keeps | with_reducible apply Keeps.ite | split | dsimp only

theorem storeError_keeps {s0 s : State} {a0 : Nat} {a1 : Nat} {a2 : StoreOp} (h : Keeps s0 s) : Keeps s0 (storeError a0 a1 a2 s) := by
  unfold storeError
  repeat' first
    | with_reducible assumption | with_reducible apply modPair_keeps | with_reducible apply modEng_keeps | with_reducible apply Keeps.ite

theorem popStore_keeps {s0 s : State} {a0 : Nat} (h : Keeps s0 s) : Keeps s0 (popStore a0 s) := by
  unfold popStore
  repeat' first | with_reducible assumption | with_reducible apply modEng_keeps

theorem storeAt_keeps {s0 s : State} {a0 : CatStore} {a1 : Nat} {a2 : StoreOp} (h :
    Keeps s0 s) (ha0 : ∀ i j k l m x, Keeps s0 x → Keeps s0 (a0 i j k l m x).2): Keeps s0 (storeAt a0 a1 a2 s).st := by
  unfold storeAt
  repeat' first
    | with_reducible assumption | with_reducible apply ha0 | with_reducible apply writePhys_keeps | with_reducible apply Keeps.ite_snd
    | split

theorem storePerformed_keeps {s0 s : State} {a0 : CatStore} {a1 : Nat} (h : Keeps s0 s)
    (ha0 : ∀ i j k l m x, Keeps s0 x → Keeps s0 (a0 i j k l m x).2) : Keeps s0 (storePerformed a0 a1 s) := by
  unfold storePerformed
  split
  · exact h
  · rename_i t _ _
    dsimp only
    have hl := lockStep_keeps (a0 := a1) (a1 := t.place) (a2 := 2 ^ t.width) (a3 := t.last) h
    have ht := storeAt_keeps (a1 := a1) (a2 := t) h ha0
    have hu := storeAt_keeps (a1 := a1) (a2 := t) hl ha0
    have fail : ∀ {c : Nat} {x : State}, Keeps s0 x → Keeps s0 (if (getEng s a1).pastSt.isEmpty = true then storeError a1 c t x else x) :=
      fun k => Keeps.ite (storeError_keeps k) k
    have p1 := popStore_keeps (a0 := a1) hu
    refine Keeps.ite h (Keeps.ite (Keeps.ite (fail (popStore_keeps (bump_keeps hl))) (Keeps.ite (hu.engBack h) ?_))
      (Keeps.ite ht (Keeps.ite (popStore_keeps ht) (fail (popStore_keeps ht)))))
    exact Keeps.ite (fail (lockAbort_keeps p1)) (Keeps.ite (lockClose_keeps p1) p1)

theorem serveEngine_keeps {s0 s : State} {a0 : Nat} {a1 : Nat} (h : Keeps s0 s) : Keeps s0 (serveEngine a0 a1 s) := by
  unfold serveEngine
  repeat' first
    | with_reducible assumption | with_reducible apply performLoad_keeps | with_reducible apply storePerformed_keeps | intro _ _ | intro _
    | with_reducible apply Keeps.ite | split

theorem countConflict_keeps {s0 s : State} {a0 : Nat} {a1 : Nat} {a2 : Nat} (h : Keeps s0 s) : Keeps s0 (countConflict a0 a1 s a2) := by
  unfold countConflict
  repeat' first
    | with_reducible assumption | with_reducible apply bump_keeps | with_reducible apply modEng_keeps | with_reducible apply Keeps.ite

theorem shelfAccess_keeps {s0 s : State} {a0 : Nat} {a1 : Nat} {a2 : List Nat} {a3 : Nat} (h : Keeps s0 s) :
    Keeps s0 (shelfAccess a0 a1 a2 a3 s) := by
  unfold shelfAccess
  repeat' first
    | with_reducible assumption | with_reducible apply countConflict_keeps | with_reducible apply upsetAt_keeps
    | with_reducible apply serveEngine_keeps | with_reducible apply Keeps.foldl | intro _ _ _ | with_reducible apply Keeps.ite | split
    | dsimp only
    | with_reducible refine Keeps.mk' ?_ rfl rfl rfl rfl rfl rfl rfl rfl rfl rfl rfl rfl rfl rfl rfl rfl rfl rfl rfl rfl rfl rfl rfl rfl rfl rfl

theorem eccWriteback_keeps {s0 s : State} {a0 : Nat} (h : Keeps s0 s) : Keeps s0 (eccWriteback a0 s) := by
  unfold eccWriteback
  repeat' first | with_reducible assumption | with_reducible apply eccClean_keeps | split

theorem sweepReport_keeps {s0 s : State}  (h : Keeps s0 s) : Keeps s0 (sweepReport s) := by
  unfold sweepReport
  repeat' first | with_reducible assumption | with_reducible apply valPut_keeps

theorem sweepRoll_keeps {s0 s : State}  (h : Keeps s0 s) : Keeps s0 (sweepRoll s) := by
  unfold sweepRoll
  repeat' first
    | with_reducible assumption | with_reducible apply sweepReport_keeps | with_reducible apply bump_keeps
    | with_reducible apply Keeps.ite | dsimp only
    | with_reducible refine Keeps.mk' ?_ rfl rfl rfl rfl rfl rfl rfl rfl rfl rfl rfl rfl rfl rfl rfl rfl rfl rfl rfl rfl rfl rfl rfl rfl rfl rfl

theorem shelfReadRegion_keeps {s0 s : State} {a0 : Nat} {a1 : List Nat} (h : Keeps s0 s) : Keeps s0 (shelfReadRegion a0 a1 s) := by
  unfold shelfReadRegion
  repeat' first
    | with_reducible assumption | with_reducible apply sweepRoll_keeps | with_reducible apply sweepReport_keeps
    | with_reducible apply eccWord_keeps | with_reducible apply eccClean_keeps | with_reducible apply bump_keeps
    | with_reducible apply columnFault_keeps | with_reducible apply Keeps.foldl | intro _ _ _ | with_reducible apply Keeps.ite | split
    | dsimp only
    | with_reducible refine Keeps.mk' ?_ rfl rfl rfl rfl rfl rfl rfl rfl rfl rfl rfl rfl rfl rfl rfl rfl rfl rfl rfl rfl rfl rfl rfl rfl rfl rfl

theorem columnSwap_keeps {s0 s : State} {a0 : Nat} {a1 : Nat} (h : Keeps s0 s) : Keeps s0 (columnSwap a0 a1 s) := by
  unfold columnSwap
  repeat' first
    | with_reducible assumption | with_reducible apply valPut_keeps | with_reducible apply logEvent_keeps
    | with_reducible apply bump_keeps | with_reducible apply journal_keeps | with_reducible apply Keeps.ite | split | dsimp only
    | with_reducible refine Keeps.mk' ?_ rfl rfl rfl rfl rfl rfl rfl rfl rfl rfl rfl rfl rfl rfl rfl rfl rfl rfl rfl rfl rfl rfl rfl rfl rfl rfl

theorem wipeReplay_keeps {s0 s : State} {a0 : Nat} (h : Keeps s0 s) : Keeps s0 (wipeReplay a0 s) := by
  unfold wipeReplay
  repeat' first | with_reducible assumption | with_reducible apply unrecoverable_keeps | with_reducible apply Keeps.ite

/-- A loop of writes keeps the canonical form of a table. -/
theorem kvFold_wf {α : Type} [DecidableEq α] {d : α} {f : Nat → Nat} {g : Kv α → Nat → α} : ∀ {l : List Nat} {m : Kv α}, kvWf d m = true →
    kvWf d (l.foldl (fun m k => kvSet d m (f k) (g m k)) m) = true
  | [], _, h => h
  | _ :: l, _, h => kvFold_wf (l := l) (kvSet_wf h)

theorem startWipe_keeps {s0 s : State} {a0 : Nat} (h : Keeps s0 s) : Keeps s0 (startWipe a0 s) := by
  unfold startWipe
  refine Keeps.ite h ?_
  have k : Keeps s0 { s with pair := (List.range 128).foldl (fun m k => kvSet Pair.fresh m k (wipePair (kvGet Pair.fresh m k))) s.pair } := by
    refine h.tabs rfl rfl rfl rfl rfl rfl rfl rfl rfl fun i => ?_
    simp only [tablesWf, Bool.and_eq_true] at i ⊢
    have := kvFold_wf (f := id) (g := fun m k => wipePair (kvGet Pair.fresh m k)) (l := List.range 128) i.1.1.1.1.1.1.1.1.1.1.1.1.1.1.1.2
    simp only [i, and_true, true_and]
    exact this
  have k2 := Keeps.foldl (f := fun a m => wipeReplay m a) (List.range 128) (modEngs_keeps (a0 := forgetRecords) k) fun _ _ ha => wipeReplay_keeps ha
  dsimp only
  generalize List.foldl (fun a m => wipeReplay m a) _ _ = s1 at k2 ⊢
  refine Keeps.foldl _ ?_ fun _ _ ha => wakeBank_keeps ha
  exact Keeps.mk' k2 rfl rfl rfl rfl rfl rfl rfl rfl rfl rfl rfl rfl rfl rfl rfl rfl rfl rfl rfl rfl rfl rfl rfl rfl rfl rfl

theorem wipeBanks_keeps {s0 s : State}  (h : Keeps s0 s) : Keeps s0 (wipeBanks s) := by
  unfold wipeBanks
  repeat' first | with_reducible assumption | with_reducible apply loseBank_keeps | with_reducible apply Keeps.foldl | intro _ _ _

theorem writeOutside_keeps {s0 : State} {a0 : Nat} :
    ∀ {a1 : List (Nat × Nat)} {a2 : Nat} {s : State}, Keeps s0 s → Keeps s0 (writeOutside a0 a1 a2 s)
  | [], _, _, h => h
  | _ :: _, _, _, h => by
    unfold writeOutside
    refine writeOutside_keeps ?_
    split
    · exact h
    · exact writePart_keeps h

theorem wipeStore_keeps {s0 s : State} {a0 : Nat} (h : Keeps s0 s) : Keeps s0 (wipeStore a0 s) := by
  unfold wipeStore
  repeat' first
    | with_reducible assumption | with_reducible apply popStore_keeps | with_reducible apply writeOutside_keeps
    | with_reducible apply Keeps.ite | split

theorem wipeLoad_keeps {s0 s : State} {a0 : Nat} (h : Keeps s0 s) : Keeps s0 (wipeLoad a0 s) := by
  unfold wipeLoad
  repeat' first | with_reducible assumption | with_reducible apply putLoaded_keeps | with_reducible apply Keeps.ite | split

theorem wipeDebug_keeps {s0 s : State}  (h : Keeps s0 s) : Keeps s0 (wipeDebug s) := by
  unfold wipeDebug
  repeat' first
    | with_reducible assumption | with_reducible apply Keeps.ite | split | dsimp only
    | with_reducible refine Keeps.mk' ?_ rfl rfl rfl rfl rfl rfl rfl rfl rfl rfl rfl rfl rfl rfl rfl rfl rfl rfl rfl rfl rfl rfl rfl rfl rfl rfl

theorem wipeComplete_keeps {s0 s : State}  (h : Keeps s0 s) : Keeps s0 (wipeComplete s) := by
  unfold wipeComplete
  repeat' first
    | with_reducible assumption | with_reducible apply wipeBanks_keeps | with_reducible apply wipeDebug_keeps
    | with_reducible apply setChan_keeps | with_reducible apply wipeLoad_keeps | with_reducible apply wipeStore_keeps
    | with_reducible apply valJournal_keeps | with_reducible apply logEvent_keeps | with_reducible apply Keeps.foldl | intro _ _ _ | split
    | dsimp only
    | with_reducible refine Keeps.mk' ?_ rfl rfl rfl rfl rfl rfl rfl rfl rfl rfl rfl rfl rfl rfl rfl rfl rfl rfl rfl rfl rfl rfl rfl rfl rfl rfl

theorem wipeStacks_keeps {s0 s : State} {a0 : Nat} (h : Keeps s0 s) : Keeps s0 (wipeStacks a0 s) :=
  h.bytes kvFilter_wf rfl

theorem channelOut_keeps {s0 s : State} {a0 : Nat} (h : Keeps s0 s) : Keeps s0 (channelOut a0 s) := by
  unfold channelOut
  repeat' first
    | with_reducible assumption | with_reducible apply loseMask_keeps | with_reducible apply logEvent_keeps
    | with_reducible apply valPut_keeps | with_reducible apply Keeps.ite

end Sys2Proof.Machine
end

