-- ==== Sys2Proof/Laws/Xfer.lean ====
section
/-! SUPPORT. Laws/Xfer.lean: transfer channels keep the forms of the state and undo nothing that lasts, operation by operation. -/

set_option linter.unusedVariables false

namespace Sys2Proof.Machine

theorem lockExpire_keeps {s0 s : State} {a0 : Nat} (h : Keeps s0 s) : Keeps s0 (lockExpire a0 s) := by
  unfold lockExpire
  repeat' first
    | with_reducible assumption | with_reducible apply bump_keeps | with_reducible apply Keeps.ite | split | dsimp only
    | with_reducible refine Keeps.mk' ?_ rfl rfl rfl rfl rfl rfl rfl rfl rfl rfl rfl rfl rfl rfl rfl rfl rfl rfl rfl rfl rfl rfl rfl rfl rfl rfl

theorem xfStart_keeps {s0 s : State} {a0 : Nat} (h : Keeps s0 s) : Keeps s0 (xfStart a0 s) := by
  unfold xfStart
  repeat' first
    | with_reducible assumption | with_reducible apply setChan_keeps | with_reducible apply bump_keeps | with_reducible apply Keeps.ite

theorem xfIrq_keeps {s0 s : State} {a0 : Nat} (h : Keeps s0 s) : Keeps s0 (xfIrq a0 s) := by
  unfold xfIrq
  repeat' first | with_reducible assumption | with_reducible apply setPend_keeps | with_reducible apply Keeps.ite

theorem xfSettle_keeps {s0 s : State} {a0 : Nat} (h : Keeps s0 s) : Keeps s0 (xfSettle a0 s) := by
  unfold xfSettle
  repeat' first
    | with_reducible assumption | with_reducible apply xfIrq_keeps | with_reducible apply bump_keeps | with_reducible apply setChan_keeps
    | with_reducible apply Keeps.ite

theorem xfCtlWrite_keeps {s0 s : State} {a0 : Nat} {a1 : Nat} (h : Keeps s0 s) : Keeps s0 (xfCtlWrite a0 a1 s).2 := by
  unfold xfCtlWrite
  repeat' first
    | with_reducible assumption | with_reducible apply xfSettle_keeps | with_reducible apply setChan_keeps
    | with_reducible apply valPut_keeps | with_reducible apply xfStart_keeps | with_reducible apply Keeps.ite_snd

theorem xfPace_keeps {s0 s : State} {a0 : Nat} (h : Keeps s0 s) : Keeps s0 (xfPace s a0) := by
  unfold xfPace
  repeat' first | with_reducible assumption | with_reducible apply setChan_keeps | with_reducible apply Keeps.ite

theorem xfIssueOne_keeps {s0 s : State} {a0 : Nat} (h : Keeps s0 s) : Keeps s0 (xfIssueOne a0 s) := by
  unfold xfIssueOne
  repeat' first | with_reducible assumption | with_reducible apply notePeak_keeps | with_reducible apply setChan_keeps

theorem xfIssue_keeps {s0 s : State} {a0 : Nat} (h : Keeps s0 s) : Keeps s0 (xfIssue a0 s) := by
  unfold xfIssue
  repeat' first
    | with_reducible assumption | with_reducible apply xfPace_keeps | with_reducible apply xfIssueOne_keeps
    | with_reducible apply Keeps.foldl | with_reducible apply Keeps.ite | split | dsimp only
    | with_reducible refine Keeps.mk' ?_ rfl rfl rfl rfl rfl rfl rfl rfl rfl rfl rfl rfl rfl rfl rfl rfl rfl rfl rfl rfl rfl rfl rfl rfl rfl rfl

theorem xfRead_keeps {s0 s : State} {a0 : Nat} {a1 : Nat} (h : Keeps s0 s) : Keeps s0 (xfRead a0 a1 s) := by
  unfold xfRead
  repeat' first
    | with_reducible assumption | with_reducible apply upsetAt_keeps | with_reducible apply accError_keeps
    | with_reducible apply readPhys_keeps | with_reducible apply xfSettle_keeps | with_reducible apply setChan_keeps
    | with_reducible apply Keeps.ite | split

theorem xfWrite_keeps {s0 s : State} {a0 : Nat} {a1 : Nat} (h : Keeps s0 s) : Keeps s0 (xfWrite a0 a1 s) := by
  unfold xfWrite
  repeat' first
    | with_reducible assumption | with_reducible apply upsetAt_keeps | with_reducible apply accError_keeps
    | with_reducible apply writePhys_keeps | with_reducible apply xfSettle_keeps | with_reducible apply setChan_keeps
    | with_reducible apply bump_keeps | with_reducible apply Keeps.ite | split

theorem quietLead_keeps {s0 s : State}  (h : Keeps s0 s) : Keeps s0 (quietLead s) := by
  unfold quietLead
  repeat' first
    | with_reducible assumption | with_reducible apply Keeps.ite | dsimp only
    | with_reducible refine Keeps.mk' ?_ rfl rfl rfl rfl rfl rfl rfl rfl rfl rfl rfl rfl rfl rfl rfl rfl rfl rfl rfl rfl rfl rfl rfl rfl rfl rfl

theorem quietClose_keeps {s0 s : State}  (h : Keeps s0 s) : Keeps s0 (quietClose s) := by
  unfold quietClose
  repeat' first
    | with_reducible assumption | with_reducible apply Keeps.ite | dsimp only
    | with_reducible refine Keeps.mk' ?_ rfl rfl rfl rfl rfl rfl rfl rfl rfl rfl rfl rfl rfl rfl rfl rfl rfl rfl rfl rfl rfl rfl rfl rfl rfl rfl

theorem dropWrite_keeps {s0 s : State} {a0 : Nat} {a1 : Nat} {a2 : XfTxn} (h : Keeps s0 s) : Keeps s0 (dropWrite a0 a1 s a2) := by
  unfold dropWrite
  repeat' first
    | with_reducible assumption | with_reducible apply accError_keeps | with_reducible apply writePhys_keeps
    | with_reducible apply bump_keeps | with_reducible apply Keeps.ite | split
    | with_reducible refine Keeps.mk' ?_ rfl rfl rfl rfl rfl rfl rfl rfl rfl rfl rfl rfl rfl rfl rfl rfl rfl rfl rfl rfl rfl rfl rfl rfl rfl rfl

theorem dropChan_keeps {s0 s : State} {a0 : Nat} (h : Keeps s0 s) : Keeps s0 (dropChan s a0) := by
  unfold dropChan
  repeat' first
    | with_reducible assumption | with_reducible apply dropWrite_keeps | with_reducible apply setChan_keeps
    | with_reducible apply Keeps.foldl | intro _ _ _ | with_reducible apply Keeps.ite
    | with_reducible refine Keeps.mk' ?_ rfl rfl rfl rfl rfl rfl rfl rfl rfl rfl rfl rfl rfl rfl rfl rfl rfl rfl rfl rfl rfl rfl rfl rfl rfl rfl

theorem xfuDisable_keeps {s0 s : State} {a0 : Nat} (h : Keeps s0 s) : Keeps s0 (xfuDisable a0 s) := by
  unfold xfuDisable
  repeat' first
    | with_reducible assumption | with_reducible apply valPut_keeps | with_reducible apply dropChan_keeps
    | with_reducible apply Keeps.foldl

theorem xfuReenable_keeps {s0 s : State} {a0 : Nat} (h : Keeps s0 s) : Keeps s0 (xfuReenable a0 s) := by
  unfold xfuReenable
  repeat' first
    | with_reducible assumption | with_reducible apply valPut_keeps | with_reducible apply setChan_keeps
    | with_reducible apply Keeps.foldl | intro _ _ _ | with_reducible apply Keeps.ite

end Sys2Proof.Machine
end

