-- ==== Sys2Proof/Laws/Archive.lean ====
section
/-! SUPPORT. Laws/Archive.lean: the archive die keep the forms of the state and undo nothing that lasts, operation by operation. -/

set_option linter.unusedVariables false

namespace Sys2Proof.Machine

theorem archiveFollow_keeps {s0 s : State}  (h : Keeps s0 s) : Keeps s0 (archiveFollow s) := by
  unfold archiveFollow
  repeat' first
    | with_reducible assumption | with_reducible apply lapse_keeps | with_reducible apply restorePromise_keeps
    | with_reducible apply Keeps.ite | dsimp only
    | with_reducible refine Keeps.mk' ?_ rfl rfl rfl rfl rfl rfl rfl rfl rfl rfl rfl rfl rfl rfl rfl rfl rfl rfl rfl rfl rfl rfl rfl rfl rfl rfl

theorem takeHead_keeps {s0 s : State}  (h : Keeps s0 s) : Keeps s0 (takeHead s) := by
  unfold takeHead
  repeat' first
    | with_reducible assumption | with_reducible apply lapse_keeps | with_reducible apply Keeps.ite | split | dsimp only
    | with_reducible refine Keeps.mk' ?_ rfl rfl rfl rfl rfl rfl rfl rfl rfl rfl rfl rfl rfl rfl rfl rfl rfl rfl rfl rfl rfl rfl rfl rfl rfl rfl

theorem programStart_keeps {s0 s : State}  (h : Keeps s0 s) : Keeps s0 (programStart s) := by
  unfold programStart
  repeat' first
    | with_reducible assumption | with_reducible apply takeHead_keeps | with_reducible apply Keeps.ite | dsimp only
    | with_reducible refine Keeps.mk' ?_ rfl rfl rfl rfl rfl rfl rfl rfl rfl rfl rfl rfl rfl rfl rfl rfl rfl rfl rfl rfl rfl rfl rfl rfl rfl rfl

theorem weedNext_keeps {s0 s : State}  (h : Keeps s0 s) : Keeps s0 (weedNext s) := by
  unfold weedNext
  repeat' first
    | with_reducible assumption | with_reducible apply journal_keeps | with_reducible apply bump_keeps | split | dsimp only
    | with_reducible refine Keeps.mk' ?_ rfl rfl rfl rfl rfl rfl rfl rfl rfl rfl rfl rfl rfl rfl rfl rfl rfl rfl rfl rfl rfl rfl rfl rfl rfl rfl

theorem weedStart_keeps {s0 s : State} {a0 : Bool} (h : Keeps s0 s) : Keeps s0 (weedStart a0 s) := by
  unfold weedStart
  repeat' first
    | with_reducible assumption | with_reducible apply valPut_keeps | with_reducible apply weedNext_keeps | with_reducible apply Keeps.ite
    | split | dsimp only
    | with_reducible refine Keeps.mk' ?_ rfl rfl rfl rfl rfl rfl rfl rfl rfl rfl rfl rfl rfl rfl rfl rfl rfl rfl rfl rfl rfl rfl rfl rfl rfl rfl

theorem weedAuto_keeps {s0 s : State}  (h : Keeps s0 s) : Keeps s0 (weedAuto s) := by
  unfold weedAuto
  repeat' first | with_reducible assumption | with_reducible apply weedStart_keeps | with_reducible apply Keeps.ite

theorem weed_keeps {s0 s : State} {a0 : Bool} (h : Keeps s0 s) : Keeps s0 (weed a0 s) := by
  unfold weed
  repeat' first
    | with_reducible assumption | with_reducible apply weedStart_keeps | with_reducible apply weedAuto_keeps
    | with_reducible apply Keeps.ite

theorem eraseVictim_keeps {s0 s : State}  (h : Keeps s0 s) : Keeps s0 (eraseVictim s) := by
  unfold eraseVictim
  repeat' first
    | with_reducible assumption | with_reducible apply Keeps.ite | split | dsimp only
    | with_reducible refine Keeps.mk' ?_ rfl rfl rfl rfl rfl rfl rfl rfl rfl rfl rfl rfl rfl rfl rfl rfl rfl rfl rfl rfl rfl rfl rfl rfl rfl rfl

theorem headWritten_keeps {s0 s : State}  (h : Keeps s0 s) : Keeps s0 (headWritten s) := by
  unfold headWritten
  repeat' first
    | with_reducible assumption | with_reducible apply Keeps.ite | split | dsimp only
    | with_reducible refine Keeps.mk' ?_ rfl rfl rfl rfl rfl rfl rfl rfl rfl rfl rfl rfl rfl rfl rfl rfl rfl rfl rfl rfl rfl rfl rfl rfl rfl rfl

theorem programDone_keeps {s0 s : State}  (h : Keeps s0 s) : Keeps s0 (programDone s) := by
  unfold programDone
  repeat' first
    | with_reducible assumption | with_reducible apply headWritten_keeps | with_reducible apply weedAuto_keeps
    | with_reducible apply archiveFollow_keeps | with_reducible apply eraseVictim_keeps | with_reducible apply Keeps.ite | dsimp only
    | with_reducible refine Keeps.mk' ?_ rfl rfl rfl rfl rfl rfl rfl rfl rfl rfl rfl rfl rfl rfl rfl rfl rfl rfl rfl rfl rfl rfl rfl rfl rfl rfl

theorem weedStep_keeps {s0 s : State}  (h : Keeps s0 s) : Keeps s0 (weedStep s) := by
  unfold weedStep
  repeat' first
    | with_reducible assumption | with_reducible apply valPut_keeps | with_reducible apply weedNext_keeps | with_reducible apply Keeps.ite
    | dsimp only
    | with_reducible refine Keeps.mk' ?_ rfl rfl rfl rfl rfl rfl rfl rfl rfl rfl rfl rfl rfl rfl rfl rfl rfl rfl rfl rfl rfl rfl rfl rfl rfl rfl

theorem eraseDone_keeps {s0 s : State} {a0 : Nat} (h : Keeps s0 s) : Keeps s0 (eraseDone a0 s) := by
  unfold eraseDone
  repeat' first
    | with_reducible assumption | with_reducible apply archiveFollow_keeps | with_reducible apply weedStep_keeps
    | with_reducible apply Keeps.ite | dsimp only
    | with_reducible refine Keeps.mk' ?_ rfl rfl rfl rfl rfl rfl rfl rfl rfl rfl rfl rfl rfl rfl rfl rfl rfl rfl rfl rfl rfl rfl rfl rfl rfl rfl

theorem countErases_keeps {s0 s : State} {a0 : List Nat} (h : Keeps s0 s) : Keeps s0 (countErases a0 s) := by
  unfold countErases
  repeat' first
    | with_reducible assumption | dsimp only
    | with_reducible refine Keeps.mk' ?_ rfl rfl rfl rfl rfl rfl rfl rfl rfl rfl rfl rfl rfl rfl rfl rfl rfl rfl rfl rfl rfl rfl rfl rfl rfl rfl

theorem replaceBlock_keeps {s0 s : State} {a0 : Nat} {a1 : Nat} (h : Keeps s0 s) : Keeps s0 (replaceBlock a0 a1 s) := by
  unfold replaceBlock
  repeat' first
    | with_reducible assumption | with_reducible apply weedStep_keeps | with_reducible apply weedNext_keeps
    | with_reducible apply Keeps.ite | split | dsimp only
    | with_reducible refine Keeps.mk' ?_ rfl rfl rfl rfl rfl rfl rfl rfl rfl rfl rfl rfl rfl rfl rfl rfl rfl rfl rfl rfl rfl rfl rfl rfl rfl rfl

theorem shrinkJournal_keeps {s0 s : State} {a0 : Nat} (h : Keeps s0 s) : Keeps s0 (shrinkJournal a0 s) := by
  unfold shrinkJournal
  repeat' first
    | with_reducible assumption | with_reducible apply archiveFollow_keeps | with_reducible apply weedNext_keeps
    | with_reducible apply Keeps.ite | split | dsimp only
    | with_reducible refine Keeps.mk' ?_ rfl rfl rfl rfl rfl rfl rfl rfl rfl rfl rfl rfl rfl rfl rfl rfl rfl rfl rfl rfl rfl rfl rfl rfl rfl rfl

theorem blockFailure_keeps {s0 s : State} {a0 : Nat} (h : Keeps s0 s) : Keeps s0 (blockFailure a0 s) := by
  unfold blockFailure
  repeat' first
    | with_reducible assumption | with_reducible apply valJournal_keeps | with_reducible apply logEvent_keeps
    | with_reducible apply replaceBlock_keeps | with_reducible apply shrinkJournal_keeps | with_reducible apply Keeps.ite | split
    | dsimp only
    | with_reducible refine Keeps.mk' ?_ rfl rfl rfl rfl rfl rfl rfl rfl rfl rfl rfl rfl rfl rfl rfl rfl rfl rfl rfl rfl rfl rfl rfl rfl rfl rfl

theorem reportBad_keeps {s0 s : State} {a0 : List JRec} (h : Keeps s0 s) : Keeps s0 (reportBad a0 s) := by
  unfold reportBad
  repeat' first | with_reducible assumption | with_reducible apply logEvent_keeps | with_reducible apply Keeps.foldl | intro _ _ _

theorem restoreEntry_keeps {s0 s : State} {a0 : Nat} (h : Keeps s0 s) : Keeps s0 (restoreEntry s a0) := by
  unfold restoreEntry
  repeat' first
    | with_reducible assumption | with_reducible apply valPut_keeps | with_reducible apply longPut_keeps | with_reducible apply Keeps.ite
    | split

theorem restoreEntries_keeps {s0 s : State}  (h : Keeps s0 s) : Keeps s0 (restoreEntries s) := by
  unfold restoreEntries
  repeat' first | with_reducible assumption | with_reducible apply restoreEntry_keeps | with_reducible apply Keeps.foldl

theorem restoreFolios_keeps {s0 s : State}  (h : Keeps s0 s) : Keeps s0 (restoreFolios s) := by
  unfold restoreFolios
  repeat' first
    | with_reducible assumption | with_reducible apply Keeps.foldl | intro _ _ _ | with_reducible apply Keeps.ite | split | dsimp only
    | with_reducible refine Keeps.mk' ?_ rfl rfl rfl rfl rfl rfl rfl rfl rfl rfl rfl rfl rfl rfl rfl rfl rfl rfl rfl rfl rfl rfl rfl rfl rfl rfl

end Sys2Proof.Machine
end

