-- ==== Sys2Proof/Laws/Ledger.lean ====
section
/-! SUPPORT. Laws/Ledger.lean: the work ledger keep the forms of the state and undo nothing that lasts, operation by operation. -/

set_option linter.unusedVariables false

namespace Sys2Proof.Machine

theorem setStream_keeps {s0 s : State} {a0 : Nat} {a1 : LStream} (h : Keeps s0 s) : Keeps s0 (setStream a0 a1 s) := by
  refine h.tabs rfl rfl rfl rfl rfl rfl rfl rfl rfl fun i => ?_
  simp only [tablesWf, Bool.and_eq_true] at i ⊢
  simp only [i, kvSet_wf, and_self]

theorem putItem_keeps {s0 s : State} {a0 : LItem} (h : Keeps s0 s) : Keeps s0 (putItem a0 s) := by
  unfold putItem
  repeat' first
    | with_reducible assumption | dsimp only
    | with_reducible refine Keeps.mk' ?_ rfl rfl rfl rfl rfl rfl rfl rfl rfl rfl rfl rfl rfl rfl rfl rfl rfl rfl rfl rfl rfl rfl rfl rfl rfl rfl

theorem dropItem_keeps {s0 s : State} {a0 : LItem} (h : Keeps s0 s) : Keeps s0 (dropItem a0 s) := by
  unfold dropItem
  repeat' first
    | with_reducible assumption | dsimp only
    | with_reducible refine Keeps.mk' ?_ rfl rfl rfl rfl rfl rfl rfl rfl rfl rfl rfl rfl rfl rfl rfl rfl rfl rfl rfl rfl rfl rfl rfl rfl rfl rfl

theorem journalCeiling_keeps {s0 s : State} {a0 : Nat} {a1 : Nat} (h : Keeps s0 s) : Keeps s0 (journalCeiling a0 a1 s) := by
  unfold journalCeiling
  repeat' first | with_reducible assumption | with_reducible apply journal_keeps

theorem putStreams_keeps {s0 s : State} {a0 : List Byte} (h : Keeps s0 s) : Keeps s0 (putStreams a0 s) := by
  unfold putStreams
  repeat' first
    | with_reducible assumption | with_reducible apply journalCeiling_keeps | with_reducible apply journalEntry_keeps
    | with_reducible apply longPut_keeps | with_reducible apply Keeps.foldl | intro _ _ _ | with_reducible apply Keeps.ite

theorem dramWrite_keeps {s0 s : State} {a0 : Nat} {a1 : List Byte} (h : Keeps s0 s) : Keeps s0 (dramWrite a0 a1 s) := by
  unfold dramWrite
  repeat' first | with_reducible assumption | with_reducible apply storeWord_keeps | with_reducible apply Keeps.foldl | intro _ _ _

theorem slotWrite_keeps {s0 s : State} {a0 : Nat} {a1 : List Byte} (h : Keeps s0 s) : Keeps s0 (slotWrite a0 a1 s) := by
  unfold slotWrite
  repeat' first
    | with_reducible assumption | with_reducible apply wakeDram_keeps | with_reducible apply accError_keeps
    | with_reducible apply dramWrite_keeps | with_reducible apply Keeps.ite | dsimp only
    | with_reducible refine Keeps.mk' ?_ rfl rfl rfl rfl rfl rfl rfl rfl rfl rfl rfl rfl rfl rfl rfl rfl rfl rfl rfl rfl rfl rfl rfl rfl rfl rfl

theorem sendTo_keeps {s0 s : State} {a0 : Nat} {a1 : Nat} {a2 : Nat} {a3 : Nat} {a4 : Nat} {a5 : Nat} {a6 : Nat} {a7 : List Byte} (h : Keeps s0 s) :
    Keeps s0 (sendTo a0 a1 a2 a3 a4 a5 a6 a7 s) := by
  unfold sendTo
  repeat' first
    | with_reducible assumption | with_reducible apply queueSeg_keeps | with_reducible apply hostPush_keeps
    | with_reducible apply slotWrite_keeps | split

theorem sendStream_keeps {s0 s : State} {a0 : Nat} {a1 : Nat} {a2 : Nat} {a3 : Nat} {a4 : List Byte} (h : Keeps s0 s) :
    Keeps s0 (sendStream a0 a1 a2 a3 a4 s) := by
  unfold sendStream
  repeat' first | with_reducible assumption | with_reducible apply sendTo_keeps

theorem journalItem_keeps {s0 s : State} {a0 : Nat} {a1 : LItem} (h : Keeps s0 s) : Keeps s0 (journalItem a0 a1 s) := by
  unfold journalItem
  repeat' first | with_reducible assumption | with_reducible apply journal_keeps

theorem takeNumber_keeps {s0 s : State} {a0 : Nat} (h : Keeps s0 s) : Keeps s0 (takeNumber a0 s) := by
  unfold takeNumber
  repeat' first
    | with_reducible assumption | with_reducible apply setStream_keeps | with_reducible apply journalCeiling_keeps
    | with_reducible apply Keeps.ite

theorem tryWork_keeps {s0 s : State} {a0 : Nat} (h : Keeps s0 s) : Keeps s0 (tryWork a0 s) := by
  unfold tryWork
  repeat' first | with_reducible assumption | with_reducible apply restorePromise_keeps | with_reducible apply Keeps.ite

theorem takeItem_keeps {s0 s : State} {a0 : Nat} {a1 : Nat} {a2 : Nat} {a3 : Bool} {a4 : List Byte} {a5 : List Byte} (h : Keeps s0 s) :
    Keeps s0 (takeItem a0 a1 a2 a3 a4 a5 s) := by
  unfold takeItem
  repeat' first
    | with_reducible assumption | with_reducible apply takeNumber_keeps | with_reducible apply setStream_keeps
    | with_reducible apply journalItem_keeps | with_reducible apply Keeps.ite | split | dsimp only
    | with_reducible refine Keeps.mk' ?_ rfl rfl rfl rfl rfl rfl rfl rfl rfl rfl rfl rfl rfl rfl rfl rfl rfl rfl rfl rfl rfl rfl rfl rfl rfl rfl

theorem submit_keeps {s0 s : State} {a0 : Nat} {a1 : Nat} {a2 : Nat} {a3 : List Byte} {a4 : Bool} (h : Keeps s0 s) :
    Keeps s0 (submit a0 a1 a2 a3 a4 s) := by
  unfold submit
  repeat' first
    | with_reducible assumption | with_reducible apply takeItem_keeps | with_reducible apply bump_keeps
    | with_reducible apply sendTo_keeps | with_reducible apply Keeps.ite | split | dsimp only

theorem submitServe_keeps {s0 s : State} {a0 : Nat} {a1 : Nat} (h : Keeps s0 s) : Keeps s0 (submitServe a0 a1 s) := by
  unfold submitServe
  repeat' first
    | with_reducible assumption | with_reducible apply slotWrite_keeps | with_reducible apply accError_keeps
    | with_reducible apply eccWord_keeps | with_reducible apply eccWords_keeps | with_reducible apply submit_keeps
    | with_reducible apply Keeps.ite
    | with_reducible refine Keeps.mk' ?_ rfl rfl rfl rfl rfl rfl rfl rfl rfl rfl rfl rfl rfl rfl rfl rfl rfl rfl rfl rfl rfl rfl rfl rfl rfl rfl

theorem submitPair_keeps {s0 s : State} {a0 : Nat} {a1 : Nat} (h : Keeps s0 s) : Keeps s0 (submitPair a0 a1 s) := by
  unfold submitPair
  repeat' first
    | with_reducible assumption | with_reducible apply wakeDram_keeps | with_reducible apply submitServe_keeps
    | with_reducible apply Keeps.ite | dsimp only
    | with_reducible refine Keeps.mk' ?_ rfl rfl rfl rfl rfl rfl rfl rfl rfl rfl rfl rfl rfl rfl rfl rfl rfl rfl rfl rfl rfl rfl rfl rfl rfl rfl

theorem moveItem_keeps {s0 s : State} {a0 : LItem} (h : Keeps s0 s) : Keeps s0 (moveItem a0 s) := by
  unfold moveItem
  repeat' first | with_reducible assumption | with_reducible apply putItem_keeps

theorem acceptItem_keeps {s0 s : State} {a0 : LItem} (h : Keeps s0 s) : Keeps s0 (acceptItem a0 s) := by
  unfold acceptItem
  repeat' first
    | with_reducible assumption | with_reducible apply sendStream_keeps | with_reducible apply moveItem_keeps
    | with_reducible apply tryWork_keeps | with_reducible apply setStream_keeps | with_reducible apply Keeps.ite

theorem acknowledge_keeps {s0 s : State} {a0 : Nat} (h : Keeps s0 s) : Keeps s0 (acknowledge a0 s) := by
  unfold acknowledge
  repeat' first
    | with_reducible assumption | with_reducible apply wakeDram_keeps | with_reducible apply acceptItem_keeps
    | with_reducible apply journalItem_keeps | with_reducible apply Keeps.ite | split

theorem writeSlot_keeps {s0 s : State} {a0 : LItem} (h : Keeps s0 s) : Keeps s0 (writeSlot a0 s) := by
  unfold writeSlot
  repeat' first
    | with_reducible assumption | with_reducible apply slotWrite_keeps
    | with_reducible refine Keeps.mk' ?_ rfl rfl rfl rfl rfl rfl rfl rfl rfl rfl rfl rfl rfl rfl rfl rfl rfl rfl rfl rfl rfl rfl rfl rfl rfl rfl

theorem raiseLedger_keeps {s0 s : State} {a0 : Nat} (h : Keeps s0 s) : Keeps s0 (raiseLedger a0 s) := by
  unfold raiseLedger
  repeat' first | with_reducible assumption | with_reducible apply setPend_keeps

theorem dispatch_keeps {s0 s : State} {a0 : Nat} (h : Keeps s0 s) : Keeps s0 (dispatch a0 s) := by
  unfold dispatch
  repeat' first
    | with_reducible assumption | with_reducible apply journalItem_keeps | with_reducible apply raiseLedger_keeps
    | with_reducible apply writeSlot_keeps | with_reducible apply moveItem_keeps | with_reducible apply wakeDram_keeps
    | with_reducible apply accError_keeps | with_reducible apply Keeps.ite | split

theorem doneServe_keeps {s0 s : State} {a0 : Nat} {a1 : Nat} (h : Keeps s0 s) : Keeps s0 (doneServe a0 a1 s) := by
  unfold doneServe
  repeat' first
    | with_reducible assumption | with_reducible apply bump_keeps | with_reducible apply accError_keeps
    | with_reducible apply eccWord_keeps | with_reducible apply slotWrite_keeps | with_reducible apply moveItem_keeps
    | with_reducible apply journalItem_keeps | with_reducible apply Keeps.ite | with_reducible apply Keeps.ite_snd | split | dsimp only
    | with_reducible refine Keeps.mk' ?_ rfl rfl rfl rfl rfl rfl rfl rfl rfl rfl rfl rfl rfl rfl rfl rfl rfl rfl rfl rfl rfl rfl rfl rfl rfl rfl

theorem ledgerDone_keeps {s0 s : State} {a0 : Nat} {a1 : Nat} (h : Keeps s0 s) : Keeps s0 (ledgerDone a0 a1 s) := by
  unfold ledgerDone
  repeat' first
    | with_reducible assumption | with_reducible apply bump_keeps | with_reducible apply wakeDram_keeps
    | with_reducible apply doneServe_keeps | with_reducible apply Keeps.ite | split | dsimp only
    | with_reducible refine Keeps.mk' ?_ rfl rfl rfl rfl rfl rfl rfl rfl rfl rfl rfl rfl rfl rfl rfl rfl rfl rfl rfl rfl rfl rfl rfl rfl rfl rfl

theorem waitServe_keeps {s0 s : State} {a0 : LWait} (h : Keeps s0 s) : Keeps s0 (waitServe a0 s) := by
  unfold waitServe
  repeat' first
    | with_reducible assumption | with_reducible apply accError_keeps | with_reducible apply dramWrite_keeps
    | with_reducible apply submitServe_keeps | with_reducible apply doneServe_keeps | with_reducible apply Keeps.ite | split

theorem drainWaits_keeps {s0 : State} : ∀ {a0 : List LWait} {s : State}, Keeps s0 s → Keeps s0 (drainWaits a0 s)
  | [], _, h => h
  | _ :: _, _, h => by
    unfold drainWaits
    refine Keeps.ite ?_ (drainWaits_keeps (waitServe_keeps h))
    with_reducible refine Keeps.mk' h rfl rfl rfl rfl rfl rfl rfl rfl rfl rfl rfl rfl rfl rfl rfl rfl rfl rfl rfl rfl rfl rfl rfl rfl rfl rfl

theorem ledgerDrain_keeps {s0 s : State}  (h : Keeps s0 s) : Keeps s0 (ledgerDrain s) := by
  unfold ledgerDrain
  repeat' first
    | with_reducible assumption | with_reducible apply drainWaits_keeps | with_reducible apply Keeps.ite | dsimp only
    | with_reducible refine Keeps.mk' ?_ rfl rfl rfl rfl rfl rfl rfl rfl rfl rfl rfl rfl rfl rfl rfl rfl rfl rfl rfl rfl rfl rfl rfl rfl rfl rfl

theorem itemReported_keeps {s0 s : State} {a0 : LItem} (h : Keeps s0 s) : Keeps s0 (itemReported a0 s) := by
  unfold itemReported
  repeat' first
    | with_reducible assumption | with_reducible apply setStream_keeps | with_reducible apply journalItem_keeps
    | with_reducible apply moveItem_keeps | with_reducible apply dropItem_keeps | with_reducible apply Keeps.ite

theorem sendReport_keeps {s0 s : State} {a0 : LItem} (h : Keeps s0 s) : Keeps s0 (sendReport a0 s) := by
  unfold sendReport
  repeat' first
    | with_reducible assumption | with_reducible apply itemReported_keeps | with_reducible apply sendStream_keeps
    | with_reducible apply putItem_keeps | with_reducible apply Keeps.ite

theorem report_keeps {s0 s : State} {a0 : Nat} (h : Keeps s0 s) : Keeps s0 (report a0 s) := by
  unfold report
  repeat' first | with_reducible assumption | with_reducible apply sendReport_keeps | with_reducible apply Keeps.ite | split

theorem reportAck_keeps {s0 s : State} {a0 : Nat} {a1 : Nat} {a2 : Nat} {a3 : Nat} (h : Keeps s0 s) :
    Keeps s0 (reportAck a0 a1 a2 a3 s) := by
  unfold reportAck
  repeat' first | with_reducible assumption | with_reducible apply itemReported_keeps | with_reducible apply Keeps.ite | split

theorem reportRetry_keeps {s0 s : State} {a0 : Nat} (h : Keeps s0 s) : Keeps s0 (reportRetry a0 s) := by
  unfold reportRetry
  repeat' first | with_reducible assumption | with_reducible apply sendReport_keeps | with_reducible apply Keeps.ite | split

theorem releaseReported_keeps {s0 s : State}  (h : Keeps s0 s) : Keeps s0 (releaseReported s) := by
  unfold releaseReported
  repeat' first
    | with_reducible assumption | dsimp only
    | with_reducible refine Keeps.mk' ?_ rfl rfl rfl rfl rfl rfl rfl rfl rfl rfl rfl rfl rfl rfl rfl rfl rfl rfl rfl rfl rfl rfl rfl rfl rfl rfl

theorem loseItem_keeps {s0 s : State} {a0 : Nat} {a1 : Nat} {a2 : Nat} {a3 : Nat} (h : Keeps s0 s) :
    Keeps s0 (loseItem a0 a1 a2 a3 s) := by
  unfold loseItem
  repeat' first | with_reducible assumption | with_reducible apply lapse_keeps | with_reducible apply setStream_keeps

theorem itemLost_keeps {s0 s : State} {a0 : Nat} {a1 : Nat} (h : Keeps s0 s) : Keeps s0 (itemLost a0 a1 s) := by
  unfold itemLost
  repeat' first
    | with_reducible assumption | with_reducible apply moveItem_keeps | with_reducible apply loseItem_keeps
    | with_reducible apply dropItem_keeps | with_reducible apply Keeps.ite | split

theorem mirrorFollow_keeps {s0 s : State} {a0 : Nat} (h : Keeps s0 s) : Keeps s0 (mirrorFollow a0 s) := by
  unfold mirrorFollow
  repeat' first
    | with_reducible assumption | with_reducible apply itemLost_keeps | with_reducible apply moveItem_keeps
    | with_reducible apply Keeps.foldl | intro _ _ _ | with_reducible apply Keeps.ite

theorem releaseItems_keeps {s0 : State} {a0 : Nat} :
    ∀ {a1 : List (Nat × Nat × Nat)} {s : State}, Keeps s0 s → Keeps s0 (releaseItems a0 a1 s)
  | [], _, h => h
  | l :: _, s, h => by
    unfold releaseItems
    have k : Keeps s0 { s with drawn := s.drawn + 1, ledger := { s.ledger with items := s.ledger.items ++ [mirrorItem s
        { stream := a0, acc := l.1, tag := l.2.1, durable := false, type := 0, payload := [], st := .done
          copyA := none, copyB := none, rstatus := 0xFFFFFFFF#32, rvalue := BitVec.ofNat 32 (Config.free s.drawn)
          handed := false, resumed := false, slot := l.2.2, sent := none, restored := false }] } } := by
      with_reducible refine Keeps.mk' h rfl rfl rfl rfl rfl rfl rfl rfl rfl rfl rfl rfl rfl rfl rfl rfl rfl rfl rfl rfl rfl rfl rfl rfl rfl rfl
    exact releaseItems_keeps (Keeps.ite (journal_keeps k) k)

theorem releaseRange_keeps {s0 s : State} {a0 : Nat} (h : Keeps s0 s) : Keeps s0 (releaseRange a0 s) := by
  unfold releaseRange
  exact tryWork_keeps (setStream_keeps (releaseItems_keeps h))

theorem markTaken_keeps {s0 s : State} {a0 : Nat} {a1 : Nat} (h : Keeps s0 s) : Keeps s0 (markTaken a0 a1 s) := by
  unfold markTaken
  repeat' first | with_reducible assumption | with_reducible apply modEng_keeps

theorem flushLedger_keeps {s0 s : State} {a0 : Nat → Bool} {a1 : Nat} (h : Keeps s0 s) : Keeps s0 (flushLedger a0 a1 s) := by
  unfold flushLedger
  repeat' first
    | with_reducible assumption | with_reducible apply markTaken_keeps | with_reducible apply ledgerDone_keeps
    | with_reducible apply submitPair_keeps | with_reducible apply Keeps.foldl | intro _ _ _ | with_reducible apply Keeps.ite

theorem flushPair_keeps {s0 s : State} {a0 : Nat → Bool} {a1 : Nat} (h : Keeps s0 s) : Keeps s0 (flushPair a0 a1 s) := by
  unfold flushPair
  repeat' first | with_reducible assumption | with_reducible apply flushLedger_keeps

theorem handStream_keeps {s0 s : State} {a0 : Nat} {a1 : Nat} (h : Keeps s0 s) : Keeps s0 (handStream a0 a1 s) := by
  unfold handStream
  repeat' first
    | with_reducible assumption | with_reducible apply flushPair_keeps | with_reducible apply slotWrite_keeps
    | with_reducible apply moveItem_keeps | with_reducible apply raiseLedger_keeps | with_reducible apply putStreams_keeps
    | with_reducible apply Keeps.foldl | intro _ _ _

theorem keepHanded_keeps {s0 s : State} {a0 : Nat} {a1 : Nat} (h : Keeps s0 s) : Keeps s0 (keepHanded a0 a1 s) := by
  unfold keepHanded
  repeat' first | with_reducible assumption | with_reducible apply modPair_keeps

theorem handoversAtMark_keeps {s0 s : State}  (h : Keeps s0 s) : Keeps s0 (handoversAtMark s) := by
  unfold handoversAtMark
  repeat' first
    | with_reducible assumption | with_reducible apply keepHanded_keeps | with_reducible apply handStream_keeps
    | with_reducible apply Keeps.foldl | intro _ _ _ | dsimp only
    | with_reducible refine Keeps.mk' ?_ rfl rfl rfl rfl rfl rfl rfl rfl rfl rfl rfl rfl rfl rfl rfl rfl rfl rfl rfl rfl rfl rfl rfl rfl rfl rfl

theorem streamsFollow_keeps {s0 s : State} {a0 : Nat} {a1 : Nat} {a2 : List Nat} (h : Keeps s0 s) :
    Keeps s0 (streamsFollow a0 a1 a2 s) := by
  unfold streamsFollow
  repeat' first
    | with_reducible assumption | with_reducible apply flushPair_keeps | with_reducible apply putStreams_keeps
    | with_reducible apply Keeps.ite | dsimp only
    | with_reducible refine Keeps.mk' ?_ rfl rfl rfl rfl rfl rfl rfl rfl rfl rfl rfl rfl rfl rfl rfl rfl rfl rfl rfl rfl rfl rfl rfl rfl rfl rfl

theorem ledgerCmd_keeps {s0 s : State} {a0 : Nat} (h : Keeps s0 s) : Keeps s0 (ledgerCmd a0 s).2 := by
  unfold ledgerCmd
  repeat' first
    | with_reducible assumption | with_reducible apply releaseRange_keeps | with_reducible apply setStream_keeps
    | with_reducible apply Keeps.ite_snd | split | dsimp only
    | with_reducible refine Keeps.mk' ?_ rfl rfl rfl rfl rfl rfl rfl rfl rfl rfl rfl rfl rfl rfl rfl rfl rfl rfl rfl rfl rfl rfl rfl rfl rfl rfl

theorem unqueue_keeps {s0 s : State} {a0 : JRec → Bool} (h : Keeps s0 s) : Keeps s0 (unqueue a0 s) := by
  unfold unqueue
  repeat' first
    | with_reducible assumption | dsimp only
    | with_reducible refine Keeps.mk' ?_ rfl rfl rfl rfl rfl rfl rfl rfl rfl rfl rfl rfl rfl rfl rfl rfl rfl rfl rfl rfl rfl rfl rfl rfl rfl rfl

theorem dropOne_keeps {s0 s : State} {a0 : LItem} (h : Keeps s0 s) : Keeps s0 (dropOne s a0) := by
  unfold dropOne
  repeat' first
    | with_reducible assumption | with_reducible apply setStream_keeps | with_reducible apply journal_keeps
    | with_reducible apply Keeps.ite

theorem dropHeld_keeps {s0 s : State}  (h : Keeps s0 s) : Keeps s0 (dropHeld s) := by
  unfold dropHeld
  repeat' first
    | with_reducible assumption | with_reducible apply dropOne_keeps | with_reducible apply unqueue_keeps
    | with_reducible apply Keeps.foldl | dsimp only
    | with_reducible refine Keeps.mk' ?_ rfl rfl rfl rfl rfl rfl rfl rfl rfl rfl rfl rfl rfl rfl rfl rfl rfl rfl rfl rfl rfl rfl rfl rfl rfl rfl

theorem restoreStream_keeps {s0 s : State} {a0 : List JRec} {a1 : Nat} (h : Keeps s0 s) : Keeps s0 (restoreStream a0 s a1) := by
  unfold restoreStream
  repeat' first | with_reducible assumption | with_reducible apply journalCeiling_keeps | with_reducible apply setStream_keeps | split

theorem loseRecord_keeps {s0 s : State} {a0 : JRec} (h : Keeps s0 s) : Keeps s0 (loseRecord s a0) := by
  unfold loseRecord
  repeat' first | with_reducible assumption | with_reducible apply loseItem_keeps

theorem restoreLedger_keeps {s0 s : State} {a0 : List JRec} {a1 : List JRec} (h : Keeps s0 s) : Keeps s0 (restoreLedger a0 a1 s) := by
  unfold restoreLedger
  repeat' first
    | with_reducible assumption | with_reducible apply restoreStream_keeps | with_reducible apply loseRecord_keeps
    | with_reducible apply Keeps.foldl | intro _ _ _ | dsimp only
    | with_reducible refine Keeps.mk' ?_ rfl rfl rfl rfl rfl rfl rfl rfl rfl rfl rfl rfl rfl rfl rfl rfl rfl rfl rfl rfl rfl rfl rfl rfl rfl rfl

theorem resumeSlots_keeps {s0 s : State}  (h : Keeps s0 s) : Keeps s0 (resumeSlots s) := by
  unfold resumeSlots
  repeat' first | with_reducible assumption | with_reducible apply writeSlot_keeps | with_reducible apply Keeps.foldl

theorem archiveReplay_keeps {s0 s : State} {a0 : List Nat} {a1 : Bool} (h : Keeps s0 s) : Keeps s0 (archiveReplay a0 a1 s) := by
  unfold archiveReplay
  repeat' first
    | with_reducible assumption | with_reducible apply restoreLedger_keeps | with_reducible apply restoreFolios_keeps
    | with_reducible apply restoreEntries_keeps | with_reducible apply reportBad_keeps | with_reducible apply archiveFollow_keeps
    | with_reducible apply restorePromise_keeps | with_reducible apply valPut_keeps | split | dsimp only
    | with_reducible refine Keeps.mk' ?_ rfl rfl rfl rfl rfl rfl rfl rfl rfl rfl rfl rfl rfl rfl rfl rfl rfl rfl rfl rfl rfl rfl rfl rfl rfl rfl

end Sys2Proof.Machine
end

