-- ==== Sys2Proof/Laws/Ring.lean ====
section
/-! SUPPORT. Laws/Ring.lean: the rings keep the forms of the state and undo nothing that lasts, operation by operation. -/

set_option linter.unusedVariables false

namespace Sys2Proof.Machine

theorem loseAlign_keeps {s0 s : State} {a0 : Nat} (h : Keeps s0 s) : Keeps s0 (loseAlign a0 s) := by
  unfold loseAlign
  repeat' first | with_reducible assumption | with_reducible apply lapse_keeps | with_reducible apply Keeps.ite

theorem acycCatalogue_keeps {s0 s : State} {a0 : CatServe} {a1 a2 : Nat} {a3 : List Byte} (h : Keeps s0 s)
    (ha0 : ∀ i j k l m n o x, Keeps s0 x → Keeps s0 (a0 i j k l m n o x).st) : Keeps s0 (acycCatalogue a0 a1 a2 a3 s) := by
  unfold acycCatalogue
  dsimp only
  exact queueSeg_keeps (ha0 _ _ _ _ _ _ _ _ h)

theorem rxPush_keeps {s0 s : State} {a0 : Nat} {a1 : Nat} {a2 : List Byte} (h : Keeps s0 s) : Keeps s0 (rxPush a0 a1 a2 s) := by
  unfold rxPush
  repeat' first | with_reducible assumption | with_reducible apply modRing_keeps

theorem acycRoute_keeps {s0 s : State} {a0 : CatServe} {a1 : Nat} {a2 : Nat} {a3 : List Byte} (h :
    Keeps s0 s) (ha0 : ∀ i j k l m n o x, Keeps s0 x → Keeps s0 (a0 i j k l m n o x).st): Keeps s0 (acycRoute a0 a1 a2 a3 s) := by
  unfold acycRoute
  repeat' first
    | with_reducible assumption | with_reducible apply acycCatalogue_keeps | with_reducible apply submit_keeps
    | with_reducible apply reportAck_keeps | with_reducible apply rxPush_keeps | with_reducible apply bump_keeps
    | with_reducible apply Keeps.ite | split | dsimp only

theorem acycTake_keeps {s0 s : State} {a0 : CatServe} {a1 : Nat} {a2 : Nat} {a3 : Nat} {a4 : List Byte} (h :
    Keeps s0 s) (ha0 : ∀ i j k l m n o x, Keeps s0 x → Keeps s0 (a0 i j k l m n o x).st): Keeps s0 (acycTake a0 a1 a2 a3 a4 s).2 := by
  unfold acycTake
  repeat' first
    | with_reducible assumption | with_reducible apply acycRoute_keeps | with_reducible apply modRing_keeps
    | with_reducible apply Keeps.ite_snd

theorem delivered_keeps {s0 s : State} {a0 : Nat} {a1 : Nat} (h : Keeps s0 s) : Keeps s0 (delivered a0 a1 s) := by
  unfold delivered
  repeat' first | with_reducible assumption | with_reducible apply modRing_keeps

theorem acycAcked_keeps {s0 s : State} {a0 : Nat} {a1 : Nat} {a2 : List Byte} (h : Keeps s0 s) : Keeps s0 (acycAcked a0 a1 a2 s) := by
  unfold acycAcked
  repeat' first | with_reducible assumption | with_reducible apply delivered_keeps | with_reducible apply Keeps.ite | split

theorem abandon_keeps {s0 s : State} {a0 : Nat} {a1 : Nat} {a2 : AcySeg} (h : Keeps s0 s) : Keeps s0 (abandon a0 a1 a2 s) := by
  unfold abandon
  repeat' first
    | with_reducible assumption | with_reducible apply logEvent_keeps | with_reducible apply bump_keeps
    | with_reducible apply delivered_keeps

theorem abandonDue_keeps {s0 s : State} {a0 : Nat} {a1 : Nat} (h : Keeps s0 s) : Keeps s0 (abandonDue a0 a1 s) := by
  unfold abandonDue
  repeat' first | with_reducible assumption | with_reducible apply abandon_keeps | with_reducible apply Keeps.ite | split

theorem sendSeg_keeps {s0 s : State} {a0 : Nat} {a1 : Nat} (h : Keeps s0 s) : Keeps s0 (sendSeg a0 a1 s).2.2 := by
  unfold sendSeg
  repeat' first
    | with_reducible assumption | with_reducible apply abandonDue_keeps | with_reducible apply modRing_keeps | split | dsimp only

theorem acycReturned_keeps {s0 s : State} {a0 : CatServe} {a1 : Nat} {a2 : Nat} {a3 : Nat} {a4 : Nat} {a5 : List Byte} (h :
    Keeps s0 s) (ha0 : ∀ i j k l m n o x, Keeps s0 x → Keeps s0 (a0 i j k l m n o x).st): Keeps s0 (acycReturned a0 a1 a2 a3 a4 a5 s) := by
  unfold acycReturned
  repeat' first
    | with_reducible assumption | with_reducible apply delivered_keeps | with_reducible apply acycAcked_keeps
    | with_reducible apply acycTake_keeps | with_reducible apply Keeps.ite | split

theorem acycRetry_keeps {s0 s : State} {a0 : Nat} {a1 : Nat} (h : Keeps s0 s) : Keeps s0 (acycRetry a0 a1 s) := by
  unfold acycRetry
  repeat' first
    | with_reducible assumption | with_reducible apply abandon_keeps | with_reducible apply modRing_keeps | with_reducible apply Keeps.ite
    | split | dsimp only

theorem launchTel_keeps {s0 s : State} {a0 : Nat} {a1 : Nat} {a2 : List Byte × State} {a3 : Nat} (ha2 :
    Keeps s0 a2.2): Keeps s0 (launchTel a0 a1 a2 a3).2 := by
  unfold launchTel
  repeat' first | with_reducible assumption | with_reducible apply sendSeg_keeps | split

theorem enterLoop_keeps {s0 s : State} {a0 : Nat} {a1 : Nat} (h : Keeps s0 s) : Keeps s0 (enterLoop a0 a1 s) := by
  unfold enterLoop
  repeat' first
    | with_reducible assumption | with_reducible apply valPut_keeps | with_reducible apply modRing_keeps
    | with_reducible apply loseAlign_keeps | with_reducible apply logEvent_keeps | with_reducible apply Keeps.ite

theorem ownLinkLoop_keeps {s0 s : State} {a0 : Nat} (h : Keeps s0 s) : Keeps s0 (ownLinkLoop a0 s) := by
  unfold ownLinkLoop
  repeat' first | with_reducible assumption | with_reducible apply enterLoop_keeps | with_reducible apply Keeps.ite

theorem txCount_keeps {s0 s : State} {a0 : Nat} (h : Keeps s0 s) : Keeps s0 (txCount a0 s) := by
  unfold txCount
  repeat' first | with_reducible assumption | with_reducible apply bump_keeps

theorem launchFrame_keeps {s0 s : State} {a0 : Nat} {a1 : Nat} (h : Keeps s0 s) : Keeps s0 (launchFrame a0 a1 s) := by
  unfold launchFrame
  repeat' first
    | with_reducible assumption | with_reducible apply launchTel_keeps | with_reducible apply modRing_keeps
    | with_reducible apply txCount_keeps | with_reducible apply valPut_keeps | with_reducible apply Keeps.foldl_snd

theorem cycleLaunch_keeps {s0 s : State} {a0 : Nat} (h : Keeps s0 s) : Keeps s0 (cycleLaunch a0 s) := by
  unfold cycleLaunch
  repeat' first
    | with_reducible assumption | with_reducible apply launchFrame_keeps | with_reducible apply ownLinkLoop_keeps
    | with_reducible apply freezeDue_keeps | with_reducible apply Keeps.ite

theorem decided_keeps {s0 s : State} {a0 : Nat} {a1 : Bool} {a2 : Nat} (h : Keeps s0 s) : Keeps s0 (decided a0 a1 a2 s) := by
  unfold decided
  repeat' first
    | with_reducible assumption | with_reducible apply valPut_keeps | with_reducible apply modRing_keeps
    | with_reducible apply setPendAll_keeps | with_reducible apply logEvent_keeps | with_reducible apply bump_keeps
    | with_reducible apply Keeps.ite

theorem imagePut_keeps {s0 s : State} {a0 : Nat} {a1 : Nat} {a2 : List Byte} (h : Keeps s0 s) : Keeps s0 (imagePut a0 a1 a2 s) := by
  unfold imagePut
  repeat' first | with_reducible assumption | with_reducible apply modRing_keeps

theorem returnTel_keeps {s0 s : State} {a0 : List Byte} {a1 : Nat} {a2 : Nat × Tel} (h : Keeps s0 s) :
    Keeps s0 (returnTel a0 a1 s a2) := by
  unfold returnTel
  repeat' first | with_reducible assumption | with_reducible apply imagePut_keeps | with_reducible apply Keeps.ite

theorem rxCount_keeps {s0 s : State} {a0 : Nat} {a1 : Nat} {a2 : Nat} (h : Keeps s0 s) : Keeps s0 (rxCount a0 a1 a2 s) := by
  unfold rxCount
  repeat' first
    | with_reducible assumption | with_reducible apply bump_keeps | with_reducible apply frameCapture_keeps
    | with_reducible apply valPut_keeps | with_reducible apply Keeps.ite

theorem acycAll_keeps {s0 s : State} {a0 : CatServe} {a1 : Nat} {a2 : List Byte} (h :
    Keeps s0 s) (ha0 : ∀ i j k l m n o x, Keeps s0 x → Keeps s0 (a0 i j k l m n o x).st): Keeps s0 (acycAll a0 a1 a2 s) := by
  unfold acycAll
  repeat' first | with_reducible assumption | with_reducible apply acycReturned_keeps | with_reducible apply Keeps.foldl | intro _ _ _

theorem healedCount_keeps {s0 s : State} {a0 : Nat} {a1 : Bool} (h : Keeps s0 s) : Keeps s0 (healedCount a0 a1 s) := by
  unfold healedCount
  repeat' first | with_reducible assumption | with_reducible apply modRing_keeps

theorem launchDone_keeps {s0 s : State} {a0 : Nat} {a1 : Nat} (h : Keeps s0 s) : Keeps s0 (launchDone a0 a1 s) := by
  unfold launchDone
  repeat' first | with_reducible assumption | with_reducible apply modRing_keeps

theorem acycReturn_keeps {s0 s : State} {a0 : CatServe} {a1 : Nat} {a2 : List Byte} (h :
    Keeps s0 s) (ha0 : ∀ i j k l m n o x, Keeps s0 x → Keeps s0 (a0 i j k l m n o x).st): Keeps s0 (acycReturn a0 a1 a2 s) := by
  unfold acycReturn
  repeat' first | with_reducible assumption | with_reducible apply acycAll_keeps | with_reducible apply Keeps.ite

theorem masterDecide_keeps {s0 s : State} {a0 : CatServe} {a1 : Nat} {a2 : Nat} {a3 : List Byte} (h :
    Keeps s0 s) (ha0 : ∀ i j k l m n o x, Keeps s0 x → Keeps s0 (a0 i j k l m n o x).st): Keeps s0 (masterDecide a0 a1 a2 a3 s) := by
  unfold masterDecide
  repeat' first
    | with_reducible assumption | with_reducible apply bump_keeps | with_reducible apply rxCount_keeps
    | with_reducible apply acycReturn_keeps | with_reducible apply valPut_keeps | with_reducible apply launchDone_keeps
    | with_reducible apply healedCount_keeps | with_reducible apply returnTel_keeps | with_reducible apply decided_keeps
    | with_reducible apply acycAll_keeps | with_reducible apply Keeps.foldl | intro _ _ _ | with_reducible apply Keeps.ite | split

theorem missingLimit_keeps {s0 s : State} {a0 : Nat} (h : Keeps s0 s) : Keeps s0 (missingLimit a0 s) := by
  unfold missingLimit
  repeat' first
    | with_reducible assumption | with_reducible apply decided_keeps | with_reducible apply bump_keeps
    | with_reducible apply launchDone_keeps | with_reducible apply modRing_keeps | with_reducible apply Keeps.ite | split | dsimp only

/-- A window of a node leaves the state it is served in as it is. -/
theorem winServe_st {x : RingSt} {t : Tel} {base v : Nat} {p : Pass} : (winServe x t base v p).2.2.st = p.st := by
  unfold winServe
  dsimp only
  split <;> rfl

theorem winsServe_st {s : State} {r : Nat} {t : Tel} {p : Pass} : (winsServe s r t p).st = p.st := by
  have k : ∀ (x : RingSt) (b : Nat) (l : List Nat) (a : Bool × Bool × Pass), a.2.2.st = p.st →
      (l.foldl (fun (a : Bool × Bool × Pass) v =>
        let c := winServe x t b v a.2.2
        (a.1 || c.1, a.2.1 || c.2.1, c.2.2)) a).2.2.st = p.st := by
    intro x b l
    induction l with
    | nil => intro a ha; exact ha
    | cons v l ih => intro a ha; exact ih _ (winServe_st.trans ha)
  unfold winsServe
  dsimp only
  split
  · rfl
  · exact k _ _ _ _ rfl

theorem winsServe_keeps {s0 s : State} {a0 : Nat} {a1 : Tel} {a2 : Pass} (ha2 : Keeps s0 a2.st) : Keeps s0 (winsServe s a0 a1 a2).st := by
  rw [winsServe_st]
  exact ha2

theorem nodeMeasure_keeps {s0 s : State} {a0 : Nat} {a1 : Nat} {a2 : List Byte} (h : Keeps s0 s) : Keeps s0 (nodeMeasure a0 a1 a2 s) := by
  unfold nodeMeasure
  repeat' first
    | with_reducible assumption | with_reducible apply Keeps.ite | split | dsimp only
    | with_reducible refine Keeps.mk' ?_ rfl rfl rfl rfl rfl rfl rfl rfl rfl rfl rfl rfl rfl rfl rfl rfl rfl rfl rfl rfl rfl rfl rfl rfl rfl rfl

theorem nodeLoop_keeps {s0 s : State} {a0 : Nat} {a1 : Bool} (h : Keeps s0 s) : Keeps s0 (nodeLoop a0 a1 s) := by
  unfold nodeLoop
  repeat' first
    | with_reducible assumption | with_reducible apply loseAlign_keeps | with_reducible apply modRing_keeps
    | with_reducible apply Keeps.ite

theorem nodeDecide_keeps {s0 s : State} {a0 : Nat} {a1 : Nat} {a2 : List Byte} {a3 : Bool} {a4 : Bool} {a5 : Bool} {a6 : List (Nat × Byte)} (h : Keeps s0 s) :
    Keeps s0 (nodeDecide a0 a1 a2 a3 a4 a5 a6 s) := by
  unfold nodeDecide
  repeat' first
    | with_reducible assumption | with_reducible apply nodeMeasure_keeps | with_reducible apply nodeLoop_keeps
    | with_reducible apply imagePut_keeps | with_reducible apply modRing_keeps | with_reducible apply ringFollow_keeps
    | with_reducible apply phaseReduce_keeps | with_reducible apply decided_keeps | with_reducible apply Keeps.foldl | intro _ _ _
    | with_reducible apply Keeps.ite

theorem acycServe_keeps {s0 : State} {a0 : CatServe} {a1 : Nat} {a2 : Tel} {a3 : Pass} (h : Keeps s0 a3.st)
    (ha0 : ∀ i j k l m n o x, Keeps s0 x → Keeps s0 (a0 i j k l m n o x).st) : Keeps s0 (acycServe a0 a1 a2 a3).st := by
  unfold acycServe
  dsimp only
  split
  · exact h
  · have k := acycTake_keeps (a1 := a1) (a2 := 0) (a3 := a2.xid) (a4 := telData a3.f a2)
      (acycAcked_keeps (a0 := a1) (a1 := 0) (a2 := telData a3.f a2) h) ha0
    split
    · exact k
    · exact sendSeg_keeps k

theorem telServeNode_keeps {s0 : State} {a0 : CatServe} {a1 : Nat} {a2 : Bool} {a3 : Pass} {a4 : Tel} (h : Keeps s0 a3.st)
    (ha0 : ∀ i j k l m n o x, Keeps s0 x → Keeps s0 (a0 i j k l m n o x).st) : Keeps s0 (telServeNode a0 a1 a2 a3 a4).st := by
  unfold telServeNode
  split
  · split <;> exact h
  · dsimp only
    split <;> exact h
  · split
    · exact acycServe_keeps h ha0
    · exact h
  all_goals first | exact winsServe_keeps h | exact h

/-- The telegrams of a pass, one after another. -/
theorem telsServeNode_keeps {s0 : State} {a0 : CatServe} {a1 : Nat} {a2 : Bool} (l : List Tel) {p : Pass} (h : Keeps s0 p.st)
    (ha0 : ∀ i j k l m n o x, Keeps s0 x → Keeps s0 (a0 i j k l m n o x).st) :
    Keeps s0 (l.foldl (telServeNode a0 a1 a2) p).st := by
  induction l generalizing p with
  | nil => exact h
  | cons t l ih => exact ih (telServeNode_keeps h ha0)

theorem nodePass_keeps {s0 s : State} {a0 : CatServe} {a1 a2 a3 : Nat} {a4 : List Byte} (h : Keeps s0 s)
    (ha0 : ∀ i j k l m n o x, Keeps s0 x → Keeps s0 (a0 i j k l m n o x).st) : Keeps s0 (nodePass a0 a1 a2 a3 a4 s) := by
  unfold nodePass
  dsimp only
  have k := rxCount_keeps (a0 := a1) (a1 := (nodePorts s a1).1) (a2 := a2) (freezeDue_keeps (a0 := a1) h)
  have k2 := Keeps.ite (c := fcsGood a4 = true) k (bump_keeps (a0 := cPort (nodePorts s a1).1 8) (a1 := 1) (a2 := 32) k)
  refine Keeps.ite h (Keeps.ite (bump_keeps h) ?_)
  generalize (if fcsGood a4 = true then rxCount a1 (nodePorts s a1).1 a2 (freezeDue a1 s)
    else bump (cPort (nodePorts s a1).1 8) 1 32 (rxCount a1 (nodePorts s a1).1 a2 (freezeDue a1 s))) = s2 at k2 ⊢
  have k3 := telsServeNode_keeps (a1 := a1) (a2 := fcsGood a4) (telsOf a4) (p := ⟨a4, [], s2⟩) k2 ha0
  generalize List.foldl (telServeNode a0 a1 (fcsGood a4)) ⟨a4, [], s2⟩ (telsOf a4) = p at k3 ⊢
  refine Keeps.ite (Keeps.ite (txCount_keeps (modRing_keeps k2)) (nodeDecide_keeps (txCount_keeps (modRing_keeps k2)))) ?_
  have k4 := Keeps.foldl (f := fun a (t : Nat × Tel) => if frameFlag a4 5 = true then a else valPut (cTel a1 t.1 2) (telWkc p.f t.2) a)
    ((List.range 64).zip (telsOf p.f)) k3 fun _ _ ha => Keeps.ite ha (valPut_keeps ha)
  exact Keeps.ite (txCount_keeps (modRing_keeps k4)) (nodeDecide_keeps (txCount_keeps (modRing_keeps k4)))

theorem nodeMissing_keeps {s0 s : State} {a0 : Nat} (h : Keeps s0 s) : Keeps s0 (nodeMissing a0 s) := by
  unfold nodeMissing
  repeat' first
    | with_reducible assumption | with_reducible apply decided_keeps | with_reducible apply bump_keeps
    | with_reducible apply modRing_keeps | with_reducible apply Keeps.ite | split | dsimp only

theorem reversePass_keeps {s0 s : State} {a0 : Nat} {a1 : Nat} {a2 : List Byte} (h : Keeps s0 s) : Keeps s0 (reversePass a0 a1 a2 s) := by
  unfold reversePass
  repeat' first
    | with_reducible assumption | with_reducible apply bump_keeps | with_reducible apply txCount_keeps
    | with_reducible apply modRing_keeps | with_reducible apply Keeps.ite

theorem acycTel_keeps {s0 s : State} {a0 : Nat} {a1 : List Byte × State} {a2 : Nat} (ha1 :
    Keeps s0 a1.2): Keeps s0 (acycTel a0 a1 a2).2 := by
  unfold acycTel
  repeat' first | with_reducible assumption | with_reducible apply sendSeg_keeps | with_reducible apply modRing_keeps

theorem acycSend_keeps {s0 s : State} {a0 : Nat} (h : Keeps s0 s) : Keeps s0 (acycSend a0 s) := by
  unfold acycSend
  repeat' first
    | with_reducible assumption | with_reducible apply txCount_keeps | with_reducible apply modRing_keeps
    | with_reducible apply acycTel_keeps | with_reducible apply Keeps.foldl_snd | with_reducible apply Keeps.ite

theorem startScan_keeps {s0 s : State} {a0 : Nat} (h : Keeps s0 s) : Keeps s0 (startScan a0 s) := by
  unfold startScan
  repeat' first | with_reducible assumption | with_reducible apply modRing_keeps

theorem scanCmd_keeps {s0 s : State} {a0 : Nat} (h : Keeps s0 s) : Keeps s0 (scanCmd a0 s).2 := by
  unfold scanCmd
  repeat' first | with_reducible assumption | with_reducible apply startScan_keeps | with_reducible apply Keeps.ite_snd

theorem scanEvent_keeps {s0 s : State} {a0 : Nat} {a1 : Nat} {a2 : Bool} (h : Keeps s0 s) : Keeps s0 (scanEvent a0 a1 a2 s) := by
  unfold scanEvent
  repeat' first | with_reducible assumption | with_reducible apply logEvent_keeps | with_reducible apply Keeps.ite

theorem probeReturn_keeps {s0 s : State} {a0 : Nat} {a1 : Nat} {a2 : List Byte} (h : Keeps s0 s) : Keeps s0 (probeReturn a0 a1 a2 s) := by
  unfold probeReturn
  repeat' first
    | with_reducible assumption | with_reducible apply rxCount_keeps | with_reducible apply bump_keeps | with_reducible apply valPut_keeps
    | with_reducible apply scanEvent_keeps | with_reducible apply logEvent_keeps | with_reducible apply modRing_keeps
    | with_reducible apply Keeps.foldl | intro _ _ _ | with_reducible apply Keeps.ite | split

theorem linkDown_keeps {s0 s : State} {a0 : Nat} (h : Keeps s0 s) : Keeps s0 (linkDown a0 s) := by
  unfold linkDown
  repeat' first
    | with_reducible assumption | with_reducible apply valPut_keeps | with_reducible apply bump_keeps
    | with_reducible apply nodeLoop_keeps | with_reducible apply modRing_keeps | with_reducible apply modPort_keeps
    | with_reducible apply logEvent_keeps | with_reducible apply Keeps.ite

theorem linkUpAt_keeps {s0 s : State} {a0 : Nat} {a1 : Nat} (h : Keeps s0 s) : Keeps s0 (linkUpAt a0 a1 s) := by
  unfold linkUpAt
  repeat' first
    | with_reducible assumption | with_reducible apply bump_keeps | with_reducible apply modPort_keeps | with_reducible apply valPut_keeps
    | with_reducible apply logEvent_keeps | with_reducible apply Keeps.ite

theorem linkHealed_keeps {s0 s : State} {a0 : Nat} (h : Keeps s0 s) : Keeps s0 (linkHealed a0 s) := by
  unfold linkHealed
  repeat' first | with_reducible assumption | with_reducible apply modRing_keeps | with_reducible apply Keeps.ite

theorem ringClose_keeps {s0 s : State} {a0 : Nat} (h : Keeps s0 s) : Keeps s0 (ringClose a0 s) := by
  unfold ringClose
  repeat' first
    | with_reducible assumption | with_reducible apply loseAlign_keeps | with_reducible apply startScan_keeps
    | with_reducible apply logEvent_keeps | with_reducible apply valPut_keeps | with_reducible apply modRing_keeps
    | with_reducible apply modPort_keeps | with_reducible apply nodeLoop_keeps | with_reducible apply Keeps.ite

theorem masterLoop_keeps {s0 s : State} {a0 : Nat} {a1 : List Byte} (h : Keeps s0 s) : Keeps s0 (masterLoop a0 a1 s) := by
  unfold masterLoop
  repeat' first
    | with_reducible assumption | with_reducible apply ownLinkLoop_keeps | with_reducible apply enterLoop_keeps
    | with_reducible apply Keeps.ite

theorem putDelay_keeps {s0 s : State} {a0 : Nat} {a1 : Nat} (h : Keeps s0 s) : Keeps s0 (putDelay a0 a1 s) := by
  unfold putDelay
  repeat' first | with_reducible assumption | with_reducible apply valPut_keeps

theorem pathMeasured_keeps {s0 s : State} {a0 : Nat} {a1 : List Nat} (h : Keeps s0 s) : Keeps s0 (pathMeasured a0 a1 s) := by
  unfold pathMeasured
  repeat' first
    | with_reducible assumption | with_reducible apply valPut_keeps | with_reducible apply putDelay_keeps
    | with_reducible apply ringFollow_keeps | with_reducible apply modRing_keeps | with_reducible apply Keeps.foldl | intro _ _ _
    | with_reducible apply Keeps.ite

theorem ringStart_keeps {s0 s : State} {a0 : Nat} {a1 : Nat} (h : Keeps s0 s) : Keeps s0 (ringStart a0 a1 s) := by
  unfold ringStart
  repeat' first
    | with_reducible assumption | with_reducible apply valPut_keeps | with_reducible apply setRing_keeps
    | with_reducible apply phaseReduce_keeps | dsimp only
    | with_reducible refine Keeps.mk' ?_ rfl rfl rfl rfl rfl rfl rfl rfl rfl rfl rfl rfl rfl rfl rfl rfl rfl rfl rfl rfl rfl rfl rfl rfl rfl rfl

theorem ringStop_keeps {s0 s : State} {a0 : Nat} (h : Keeps s0 s) : Keeps s0 (ringStop a0 s) := by
  unfold ringStop
  repeat' first
    | with_reducible assumption | with_reducible apply loseAlign_keeps | with_reducible apply modRing_keeps
    | with_reducible apply Keeps.ite | dsimp only
    | with_reducible refine Keeps.mk' ?_ rfl rfl rfl rfl rfl rfl rfl rfl rfl rfl rfl rfl rfl rfl rfl rfl rfl rfl rfl rfl rfl rfl rfl rfl rfl rfl

theorem roleApply_keeps {s0 s : State} {a0 : Nat} {a1 : Nat} (h : Keeps s0 s) : Keeps s0 (roleApply a0 a1 s) := by
  unfold roleApply
  repeat' first
    | with_reducible assumption | with_reducible apply ringStop_keeps | with_reducible apply ringStart_keeps
    | with_reducible apply stopRing_keeps | with_reducible apply Keeps.ite

theorem roleAtStart_keeps {s0 s : State} {a0 : Nat} (h : Keeps s0 s) : Keeps s0 (roleAtStart s a0) := by
  unfold roleAtStart
  repeat' first
    | with_reducible assumption | with_reducible apply logEvent_keeps | with_reducible apply valJournal_keeps
    | with_reducible apply roleApply_keeps | with_reducible apply Keeps.ite

theorem stopRelease_keeps {s0 s : State}  (h : Keeps s0 s) : Keeps s0 (stopRelease s).2 := by
  unfold stopRelease
  repeat' first
    | with_reducible assumption | with_reducible apply modRing_keeps | with_reducible apply logEvent_keeps
    | with_reducible apply Keeps.ite | with_reducible apply Keeps.ite_snd | dsimp only
    | with_reducible refine Keeps.mk' ?_ rfl rfl rfl rfl rfl rfl rfl rfl rfl rfl rfl rfl rfl rfl rfl rfl rfl rfl rfl rfl rfl rfl rfl rfl rfl rfl

theorem ptpSend_keeps {s0 s : State} {a0 : Nat} (h : Keeps s0 s) : Keeps s0 (ptpSend a0 s) := by
  unfold ptpSend
  repeat' first
    | with_reducible assumption | with_reducible apply bump_keeps | with_reducible apply modPort_keeps | with_reducible apply Keeps.ite

theorem ptpOwe_keeps {s0 s : State} {a0 : Nat} {a1 : List (Nat × Nat)} (h : Keeps s0 s) : Keeps s0 (ptpOwe a0 a1 s) := by
  unfold ptpOwe
  repeat' first | with_reducible assumption | with_reducible apply modPort_keeps

theorem syncSend_keeps {s0 s : State} {a0 : Nat} (h : Keeps s0 s) : Keeps s0 (syncSend a0 s) := by
  unfold syncSend
  repeat' first
    | with_reducible assumption | with_reducible apply ptpSend_keeps | with_reducible apply ptpOwe_keeps
    | with_reducible apply modPort_keeps | with_reducible apply Keeps.ite

theorem pdelaySend_keeps {s0 s : State} {a0 : Nat} (h : Keeps s0 s) : Keeps s0 (pdelaySend a0 s) := by
  unfold pdelaySend
  repeat' first
    | with_reducible assumption | with_reducible apply ptpSend_keeps | with_reducible apply ptpOwe_keeps
    | with_reducible apply modPort_keeps | with_reducible apply Keeps.ite

theorem ptpReceive_keeps {s0 s : State} {a0 : Nat} {a1 : Nat} {a2 : Nat} {a3 : Nat} {a4 : Nat} (h : Keeps s0 s) :
    Keeps s0 (ptpReceive a0 a1 a2 a3 a4 s) := by
  unfold ptpReceive
  repeat' first
    | with_reducible assumption | with_reducible apply bump_keeps | with_reducible apply modPort_keeps
    | with_reducible apply ptpSend_keeps | with_reducible apply ptpOwe_keeps | with_reducible apply putDelay_keeps
    | with_reducible apply valPut_keeps | with_reducible apply Keeps.ite | split | dsimp only

end Sys2Proof.Machine
end

