-- ==== Sys2Proof/Laws/Views.lean ====
section
/-! SUPPORT. Laws/Views.lean: the values of the catalogue keep the forms of the state and undo nothing that lasts, operation by operation. -/

set_option linter.unusedVariables false

namespace Sys2Proof.Machine

theorem sense_keeps {s0 s : State} {a0 : Nat} {a1 : Nat} (h : Keeps s0 s) : Keeps s0 (sense a0 a1 s).2 := by
  unfold sense
  repeat' first
    | with_reducible assumption | dsimp only
    | with_reducible refine Keeps.mk' ?_ rfl rfl rfl rfl rfl rfl rfl rfl rfl rfl rfl rfl rfl rfl rfl rfl rfl rfl rfl rfl rfl rfl rfl rfl rfl rfl

theorem senseInput_keeps {s0 s : State}  (h : Keeps s0 s) : Keeps s0 (senseInput s).2 := by
  unfold senseInput
  repeat' first | with_reducible assumption | with_reducible apply sense_keeps | with_reducible apply valPut_keeps

theorem shortRead_keeps {s0 s : State} {a0 : Nat} (h : Keeps s0 s) : Keeps s0 (shortRead a0 s).2 := by
  unfold shortRead
  repeat' first
    | with_reducible assumption | with_reducible apply senseInput_keeps | with_reducible apply sense_keeps
    | with_reducible apply Keeps.ite_snd | split | dsimp only
    | with_reducible refine Keeps.mk' ?_ rfl rfl rfl rfl rfl rfl rfl rfl rfl rfl rfl rfl rfl rfl rfl rfl rfl rfl rfl rfl rfl rfl rfl rfl rfl rfl

end Sys2Proof.Machine
end

