-- ==== Sys2Proof/Laws/Folio.lean ====
section
/-! SUPPORT. Laws/Folio.lean: folio entries keep the forms of the state and undo nothing that lasts, operation by operation. -/

set_option linter.unusedVariables false

namespace Sys2Proof.Machine

theorem addEnt_keeps {s0 s : State} {a0 : FolioEnt} (h : Keeps s0 s) : Keeps s0 (addEnt s a0) := by
  unfold addEnt
  repeat' first
    | with_reducible assumption | with_reducible apply bump_keeps | with_reducible apply valPut_keeps | with_reducible apply longPut_keeps
    | with_reducible apply Keeps.ite | dsimp only
    | with_reducible refine Keeps.mk' ?_ rfl rfl rfl rfl rfl rfl rfl rfl rfl rfl rfl rfl rfl rfl rfl rfl rfl rfl rfl rfl rfl rfl rfl rfl rfl rfl

theorem dropEnts_keeps {s0 s : State} {a0 : Nat} (h : Keeps s0 s) : Keeps s0 (dropEnts a0 s) := by
  unfold dropEnts
  refine Keeps.foldl _ ?_ fun a x ha => bump_keeps ?_
  · with_reducible refine Keeps.mk' ?_ rfl rfl rfl rfl rfl rfl rfl rfl rfl rfl rfl rfl rfl rfl rfl rfl rfl rfl rfl rfl rfl rfl rfl rfl rfl rfl
    exact h
  · refine ha.tabs rfl rfl rfl rfl rfl rfl rfl rfl rfl fun i => ?_
    simp only [tablesWf, Bool.and_eq_true] at i ⊢
    have d : ∀ {α : Type} [DecidableEq α] {d : α} {m : Kv α}, kvWf d m = true → kvWf d (kvDel m x.call) = true := kvDel_wf
    simp only [i, d, and_self]

end Sys2Proof.Machine
end

