-- ==== Sys2Proof/Laws/Loader.lean ====
section
/-! SUPPORT. Laws/Loader.lean: the loader keep the forms of the state and undo nothing that lasts, operation by operation. -/

set_option linter.unusedVariables false

namespace Sys2Proof.Machine

theorem endJob_keeps {s0 s : State} {a0 : Nat} {a1 : Nat} {a2 : Nat} (h : Keeps s0 s) : Keeps s0 (endJob a0 a1 a2 s) := by
  unfold endJob
  repeat' first
    | with_reducible assumption | with_reducible apply setJob_keeps | with_reducible apply Keeps.ite | dsimp only
    | with_reducible refine Keeps.mk' ?_ rfl rfl rfl rfl rfl rfl rfl rfl rfl rfl rfl rfl rfl rfl rfl rfl rfl rfl rfl rfl rfl rfl rfl rfl rfl rfl

theorem failJob_keeps {s0 s : State} {a0 : Nat} {a1 : Nat} {a2 : Nat} {a3 : Nat} (h : Keeps s0 s) : Keeps s0 (failJob a0 a1 a2 a3 s) := by
  unfold failJob
  repeat' first | with_reducible assumption | with_reducible apply endJob_keeps

theorem jobComplete_keeps {s0 s : State} {a0 : Nat} {a1 : Nat} {a2 : Nat} (h : Keeps s0 s) : Keeps s0 (jobComplete a0 a1 a2 s) := by
  unfold jobComplete
  repeat' first | with_reducible assumption | with_reducible apply endJob_keeps | with_reducible apply setJob_keeps

theorem paceFall_keeps {s0 s : State} {a0 : Nat} (h : Keeps s0 s) : Keeps s0 (paceFall a0 s) := by
  unfold paceFall
  repeat' first | with_reducible assumption | with_reducible apply valPut_keeps

theorem confirmAsk_keeps {s0 s : State} {a0 : Nat} {a1 : Nat} (h : Keeps s0 s) : Keeps s0 (confirmAsk a0 a1 s).2 := by
  unfold confirmAsk
  repeat' first
    | with_reducible assumption | with_reducible apply modTile_keeps | with_reducible apply valPut_keeps
    | with_reducible apply Keeps.ite_snd | dsimp only
    | with_reducible refine Keeps.mk' ?_ rfl rfl rfl rfl rfl rfl rfl rfl rfl rfl rfl rfl rfl rfl rfl rfl rfl rfl rfl rfl rfl rfl rfl rfl rfl rfl

theorem noteAbort_keeps {s0 s : State} {a0 : Nat} {a1 : Nat} {a2 : Nat} (h : Keeps s0 s) : Keeps s0 (noteAbort a0 a1 a2 s) := by
  unfold noteAbort
  repeat' first | with_reducible assumption | with_reducible apply valPut_keeps | with_reducible apply bump_keeps

theorem startWaiter_keeps {s0 s : State} {a0 : WaitStart} (h : Keeps s0 s) : Keeps s0 (startWaiter s a0) := by
  unfold startWaiter
  repeat' first
    | with_reducible assumption | with_reducible apply engCmdWrite_keeps | with_reducible apply pairCmdWrite_keeps
    | with_reducible apply noteAbort_keeps | with_reducible apply Keeps.ite | with_reducible apply Keeps.ite_snd

theorem startWaiting_keeps {s0 s : State} {a0 : Nat} (h : Keeps s0 s) : Keeps s0 (startWaiting a0 s) := by
  unfold startWaiting
  repeat' first
    | with_reducible assumption | with_reducible apply startWaiter_keeps | with_reducible apply modTile_keeps
    | with_reducible apply Keeps.foldl

theorem paceTake_keeps {s0 s : State} {a0 : Nat} (h : Keeps s0 s) : Keeps s0 (paceTake a0 s) := by
  unfold paceTake
  repeat' first
    | with_reducible assumption | with_reducible apply startWaiting_keeps | with_reducible apply modTile_keeps
    | with_reducible apply Keeps.ite

/-- A loop of writes keeps the canonical form of memory. -/
theorem fillBytes_wf {f : Nat → Nat} {g : Nat → Byte} : ∀ {l : List Nat} {m : Kv Byte}, kvWf 0#8 m = true →
    kvWf 0#8 (l.foldl (fun m i => kvSet 0#8 m (f i) (g i)) m) = true
  | [], _, h => h
  | _ :: l, _, h => fillBytes_wf (l := l) (kvSet_wf h)

theorem fillBytes_keeps {s0 s : State} {a0 : Nat} {a1 : List Byte} (h : Keeps s0 s) : Keeps s0 (fillBytes a0 a1 s) :=
  h.bytes fillBytes_wf rfl

theorem unloadOwner_keeps {s0 s : State} {a0 : Nat} (h : Keeps s0 s) : Keeps s0 (unloadOwner a0 s) := by
  unfold unloadOwner
  repeat' first
    | with_reducible assumption | with_reducible apply valPut_keeps | with_reducible apply modEng_keeps
    | with_reducible apply dropEnts_keeps | with_reducible apply tryMask_keeps | with_reducible apply paceFall_keeps
    | with_reducible apply Keeps.foldl | intro _ _ _ | split | dsimp only
    | with_reducible refine Keeps.mk' ?_ rfl rfl rfl rfl rfl rfl rfl rfl rfl rfl rfl rfl rfl rfl rfl rfl rfl rfl rfl rfl rfl rfl rfl rfl rfl rfl

theorem placeFolio_keeps {s0 s : State} {a0 : Nat} {a1 : Nat} {a2 : Nat} {a3 : List Byte} {a4 : List SectPlace} (h : Keeps s0 s) :
    Keeps s0 (placeFolio a0 a1 a2 a3 a4 s) := by
  unfold placeFolio
  repeat' first
    | with_reducible assumption | with_reducible apply unloadOwner_keeps | with_reducible apply valPut_keeps
    | with_reducible apply valJournal_keeps | with_reducible apply modEng_keeps | with_reducible apply fillBytes_keeps
    | with_reducible apply paceFall_keeps | with_reducible apply addEnt_keeps | with_reducible apply Keeps.foldl | intro _ _ _ | split
    | dsimp only
    | with_reducible refine Keeps.mk' ?_ rfl rfl rfl rfl rfl rfl rfl rfl rfl rfl rfl rfl rfl rfl rfl rfl rfl rfl rfl rfl rfl rfl rfl rfl rfl rfl

theorem prepare_keeps {s0 s : State} {a0 : Nat} {a1 : List FSect} (h : Keeps s0 s) : Keeps s0 (prepare a0 a1 s).2 := by
  unfold prepare
  repeat' first
    | with_reducible assumption | with_reducible apply domRequest_keeps | with_reducible apply Keeps.foldl | intro _ _ _
    | with_reducible apply Keeps.ite

theorem failLoaded_keeps {s0 s : State} {a0 : Nat} {a1 : Nat} {a2 : List Byte} {a3 : Nat × Nat × Nat} (h : Keeps s0 s) :
    Keeps s0 (failLoaded a0 a1 a2 a3 s) := by
  unfold failLoaded
  repeat' first
    | with_reducible assumption | with_reducible apply failJob_keeps | with_reducible apply paceFall_keeps
    | with_reducible apply setJob_keeps | dsimp only
    | with_reducible refine Keeps.mk' ?_ rfl rfl rfl rfl rfl rfl rfl rfl rfl rfl rfl rfl rfl rfl rfl rfl rfl rfl rfl rfl rfl rfl rfl rfl rfl rfl

theorem loadTry_keeps {s0 s : State} {a0 : Nat} (h : Keeps s0 s) : Keeps s0 (loadTry a0 s).2 := by
  unfold loadTry
  repeat' first
    | with_reducible assumption | with_reducible apply failJob_keeps | with_reducible apply prepare_keeps
    | with_reducible apply failLoaded_keeps | with_reducible apply confirmAsk_keeps | with_reducible apply placeFolio_keeps
    | with_reducible apply jobComplete_keeps | with_reducible apply setJob_keeps | with_reducible apply Keeps.ite
    | with_reducible apply Keeps.ite_snd | split

theorem unloadJob_keeps {s0 s : State} {a0 : Nat} (h : Keeps s0 s) : Keeps s0 (unloadJob a0 s) := by
  unfold unloadJob
  repeat' first
    | with_reducible assumption | with_reducible apply failJob_keeps | with_reducible apply jobComplete_keeps
    | with_reducible apply unloadOwner_keeps | with_reducible apply Keeps.foldl | with_reducible apply Keeps.ite

theorem storeJob_keeps {s0 s : State} {a0 : Nat} (h : Keeps s0 s) : Keeps s0 (storeJob a0 s) := by
  unfold storeJob
  repeat' first
    | with_reducible assumption | with_reducible apply failJob_keeps | with_reducible apply journalGroup_keeps
    | with_reducible apply jobComplete_keeps | with_reducible apply Keeps.ite | dsimp only
    | with_reducible refine Keeps.mk' ?_ rfl rfl rfl rfl rfl rfl rfl rfl rfl rfl rfl rfl rfl rfl rfl rfl rfl rfl rfl rfl rfl rfl rfl rfl rfl rfl

theorem deleteJob_keeps {s0 s : State} {a0 : Nat} (h : Keeps s0 s) : Keeps s0 (deleteJob a0 s) := by
  unfold deleteJob
  repeat' first
    | with_reducible assumption | with_reducible apply failJob_keeps | with_reducible apply journal_keeps
    | with_reducible apply jobComplete_keeps | with_reducible apply Keeps.ite | dsimp only
    | with_reducible refine Keeps.mk' ?_ rfl rfl rfl rfl rfl rfl rfl rfl rfl rfl rfl rfl rfl rfl rfl rfl rfl rfl rfl rfl rfl rfl rfl rfl rfl rfl

theorem askRelease_keeps {s0 s : State} (h : Keeps s0 s) : Keeps s0 (askRelease s) := by
  unfold askRelease
  repeat' first
    | with_reducible assumption | with_reducible apply valPut_keeps | with_reducible apply Keeps.foldl | intro _ _ _
    | with_reducible refine Keeps.mk' ?_ rfl rfl rfl rfl rfl rfl rfl rfl rfl rfl rfl rfl rfl rfl rfl rfl rfl rfl rfl rfl rfl rfl rfl rfl rfl rfl

theorem cutoverTry_keeps {s0 s : State} {a0 : Nat} (h : Keeps s0 s) : Keeps s0 (cutoverTry a0 s).2 := by
  unfold cutoverTry
  repeat' first
    | with_reducible assumption | with_reducible apply failJob_keeps | with_reducible apply domRequest_keeps
    | with_reducible apply confirmAsk_keeps | with_reducible apply endJob_keeps | with_reducible apply setJob_keeps
    | with_reducible apply askRelease_keeps | with_reducible apply Keeps.foldl_snd | intro _ _ _ | with_reducible apply Keeps.ite | with_reducible apply Keeps.ite_snd | split

theorem cutoverAbandon_keeps {s0 s : State} {a0 : Nat} {a1 : Nat} {a2 : Nat} (h : Keeps s0 s) : Keeps s0 (cutoverAbandon a0 a1 a2 s) := by
  unfold cutoverAbandon
  repeat' first | with_reducible assumption | with_reducible apply logEvent_keeps | with_reducible apply failJob_keeps

theorem armingCheck_keeps {s0 s : State} {a0 : Nat} {a1 : Nat} (h : Keeps s0 s) : Keeps s0 (armingCheck a0 a1 s) := by
  unfold armingCheck
  repeat' first | with_reducible assumption | with_reducible apply cutoverAbandon_keeps | with_reducible apply setJob_keeps | split

theorem armingDeadline_keeps {s0 s : State} {a0 : Nat} (h : Keeps s0 s) : Keeps s0 (armingDeadline a0 s) := by
  unfold armingDeadline
  repeat' first | with_reducible assumption | with_reducible apply armingCheck_keeps | with_reducible apply Keeps.ite

theorem workFollows_keeps {s0 s : State} {a0 : Nat} {a1 : Nat} {a2 : List Nat} (h : Keeps s0 s) : Keeps s0 (workFollows a0 a1 a2 s) := by
  unfold workFollows
  repeat' first
    | with_reducible assumption | with_reducible apply valJournal_keeps | with_reducible apply streamsFollow_keeps
    | with_reducible apply paceFall_keeps | split | dsimp only
    | with_reducible refine Keeps.mk' ?_ rfl rfl rfl rfl rfl rfl rfl rfl rfl rfl rfl rfl rfl rfl rfl rfl rfl rfl rfl rfl rfl rfl rfl rfl rfl rfl

theorem captureFollow_keeps {s0 s : State} {a0 : Nat} (h : Keeps s0 s) : Keeps s0 (captureFollow a0 s) := by
  unfold captureFollow
  repeat' first
    | with_reducible assumption | with_reducible apply takeCapture_keeps | with_reducible apply workFollows_keeps | split | dsimp only

theorem programCopied_keeps {s0 s : State} {a0 : Nat} (h : Keeps s0 s) : Keeps s0 (programCopied a0 s) := by
  unfold programCopied
  repeat' first
    | with_reducible assumption | with_reducible apply valPut_keeps | with_reducible apply valJournal_keeps
    | with_reducible apply modEng_keeps | with_reducible apply setPair_keeps | with_reducible apply Keeps.ite | split | dsimp only

theorem outgoingStop_keeps {s0 s : State} {a0 : Nat} (h : Keeps s0 s) : Keeps s0 (outgoingStop a0 s) := by
  unfold outgoingStop
  repeat' first
    | with_reducible assumption | with_reducible apply captureFollow_keeps | with_reducible apply tryMask_keeps
    | with_reducible apply setPair_keeps | with_reducible apply resetNow_keeps | with_reducible apply stopInto_keeps
    | with_reducible apply Keeps.ite

theorem unloadHalted_keeps {s0 s : State}  (h : Keeps s0 s) : Keeps s0 (unloadHalted s) := by
  unfold unloadHalted
  repeat' first
    | with_reducible assumption | with_reducible apply unloadOwner_keeps | with_reducible apply Keeps.foldl | dsimp only
    | with_reducible refine Keeps.mk' ?_ rfl rfl rfl rfl rfl rfl rfl rfl rfl rfl rfl rfl rfl rfl rfl rfl rfl rfl rfl rfl rfl rfl rfl rfl rfl rfl

theorem cutoverNow_keeps {s0 s : State} {a0 : Nat} (h : Keeps s0 s) : Keeps s0 (cutoverNow a0 s) := by
  unfold cutoverNow
  repeat' first
    | with_reducible assumption | with_reducible apply outgoingStop_keeps | with_reducible apply startPairAt_keeps
    | with_reducible apply handStream_keeps | with_reducible apply valJournal_keeps | with_reducible apply logEvent_keeps
    | with_reducible apply jobComplete_keeps | with_reducible apply unloadHalted_keeps | with_reducible apply Keeps.foldl | intro _ _ _
    | split | dsimp only
    | with_reducible refine Keeps.mk' ?_ rfl rfl rfl rfl rfl rfl rfl rfl rfl rfl rfl rfl rfl rfl rfl rfl rfl rfl rfl rfl rfl rfl rfl rfl rfl rfl

theorem startOwner_keeps {s0 s : State} {a0 : Nat} (h : Keeps s0 s) : Keeps s0 (startOwner s a0).2 := by
  unfold startOwner
  repeat' first
    | with_reducible assumption | with_reducible apply pairCmdWrite_keeps | with_reducible apply engCmdWrite_keeps
    | with_reducible apply Keeps.ite_snd

theorem jobAtMark_keeps {s0 s : State} {a0 : Nat} (h : Keeps s0 s) : Keeps s0 (jobAtMark s a0) := by
  unfold jobAtMark
  repeat' first
    | with_reducible assumption | with_reducible apply startOwner_keeps | with_reducible apply endJob_keeps
    | with_reducible apply failJob_keeps | with_reducible apply armingCheck_keeps | with_reducible apply cutoverNow_keeps
    | with_reducible apply Keeps.ite

theorem autoQueue_keeps {s0 s : State}  (h : Keeps s0 s) : Keeps s0 (autoQueue s) := by
  unfold autoQueue
  repeat' first
    | with_reducible assumption | with_reducible apply setJob_keeps | with_reducible apply Keeps.foldl | intro _ _ _
    | with_reducible apply Keeps.ite | dsimp only
    | with_reducible refine Keeps.mk' ?_ rfl rfl rfl rfl rfl rfl rfl rfl rfl rfl rfl rfl rfl rfl rfl rfl rfl rfl rfl rfl rfl rfl rfl rfl rfl rfl

theorem autoEnd_keeps {s0 s : State} {a0 : Nat} (h : Keeps s0 s) : Keeps s0 (autoEnd a0 s) := by
  unfold autoEnd
  repeat' first
    | with_reducible assumption | with_reducible apply setJob_keeps | with_reducible apply logEvent_keeps | with_reducible apply Keeps.ite
    | dsimp only
    | with_reducible refine Keeps.mk' ?_ rfl rfl rfl rfl rfl rfl rfl rfl rfl rfl rfl rfl rfl rfl rfl rfl rfl rfl rfl rfl rfl rfl rfl rfl rfl rfl

theorem autoAtMark_keeps {s0 s : State}  (h : Keeps s0 s) : Keeps s0 (autoAtMark s) := by
  unfold autoAtMark
  repeat' first
    | with_reducible assumption | with_reducible apply startOwner_keeps | with_reducible apply Keeps.foldl | intro _ _ _
    | with_reducible apply Keeps.ite | dsimp only
    | with_reducible refine Keeps.mk' ?_ rfl rfl rfl rfl rfl rfl rfl rfl rfl rfl rfl rfl rfl rfl rfl rfl rfl rfl rfl rfl rfl rfl rfl rfl rfl rfl

theorem putFwSlot_keeps {s0 s : State} {a0 : Nat} {a1 : List Byte} (h : Keeps s0 s) : Keeps s0 (putFwSlot a0 a1 s) := by
  unfold putFwSlot
  repeat' first
    | with_reducible assumption | split | dsimp only
    | with_reducible refine Keeps.mk' ?_ rfl rfl rfl rfl rfl rfl rfl rfl rfl rfl rfl rfl rfl rfl rfl rfl rfl rfl rfl rfl rfl rfl rfl rfl rfl rfl

theorem fwBegin_keeps {s0 s : State} {a0 : Nat} (h : Keeps s0 s) : Keeps s0 (fwBegin a0 s) := by
  unfold fwBegin
  repeat' first
    | with_reducible assumption | with_reducible apply jobComplete_keeps | with_reducible apply putFwSlot_keeps
    | with_reducible apply countErases_keeps | split | dsimp only
    | with_reducible refine Keeps.mk' ?_ rfl rfl rfl rfl rfl rfl rfl rfl rfl rfl rfl rfl rfl rfl rfl rfl rfl rfl rfl rfl rfl rfl rfl rfl rfl rfl

theorem fwCommit_keeps {s0 s : State} {a0 : Nat} (h : Keeps s0 s) : Keeps s0 (fwCommit a0 s) := by
  unfold fwCommit
  repeat' first
    | with_reducible assumption | with_reducible apply failJob_keeps | with_reducible apply putFwSlot_keeps
    | with_reducible apply logEvent_keeps | with_reducible apply jobComplete_keeps | with_reducible apply Keeps.ite | split | dsimp only
    | with_reducible refine Keeps.mk' ?_ rfl rfl rfl rfl rfl rfl rfl rfl rfl rfl rfl rfl rfl rfl rfl rfl rfl rfl rfl rfl rfl rfl rfl rfl rfl rfl

theorem loaderTry_keeps {s0 s : State} {a0 : Nat} (h : Keeps s0 s) : Keeps s0 (loaderTry a0 s).2 := by
  unfold loaderTry
  repeat' first
    | with_reducible assumption | with_reducible apply loadTry_keeps | with_reducible apply autoEnd_keeps
    | with_reducible apply unloadJob_keeps | with_reducible apply storeJob_keeps | with_reducible apply deleteJob_keeps
    | with_reducible apply cutoverTry_keeps | with_reducible apply fwBegin_keeps | with_reducible apply fwCommit_keeps
    | with_reducible apply Keeps.ite_snd | split

theorem loaderRun_keeps {s0 : State} : ∀ {a0 : Nat} {s : State}, Keeps s0 s → Keeps s0 (loaderRun a0 s)
  | 0, _, h => h
  | _ + 1, _, h => by
    unfold loaderRun
    split
    · exact Keeps.ite (loaderRun_keeps (Keeps.mk' (loaderTry_keeps h) rfl rfl rfl rfl rfl rfl rfl rfl rfl rfl rfl rfl rfl rfl rfl rfl rfl rfl rfl rfl rfl rfl rfl rfl rfl rfl)) (loaderTry_keeps h)
    · split
      · exact h
      · exact loaderRun_keeps (setJob_keeps (Keeps.mk' h rfl rfl rfl rfl rfl rfl rfl rfl rfl rfl rfl rfl rfl rfl rfl rfl rfl rfl rfl rfl rfl rfl rfl rfl rfl rfl))

theorem loaderPoll_keeps {s0 s : State}  (h : Keeps s0 s) : Keeps s0 (loaderPoll s) := by
  unfold loaderPoll
  repeat' first | with_reducible assumption | with_reducible apply loaderRun_keeps | with_reducible apply unloadHalted_keeps

theorem loaderQueue_keeps {s0 s : State} {a0 : Nat} (h : Keeps s0 s) : Keeps s0 (loaderQueue a0 s) := by
  unfold loaderQueue
  repeat' first
    | with_reducible assumption | with_reducible apply loaderPoll_keeps | dsimp only
    | with_reducible refine Keeps.mk' ?_ rfl rfl rfl rfl rfl rfl rfl rfl rfl rfl rfl rfl rfl rfl rfl rfl rfl rfl rfl rfl rfl rfl rfl rfl rfl rfl

theorem confirmTimeout_keeps {s0 s : State} {a0 : Nat} (h : Keeps s0 s) : Keeps s0 (confirmTimeout a0 s) := by
  unfold confirmTimeout
  repeat' first
    | with_reducible assumption | with_reducible apply valPut_keeps | with_reducible apply failJob_keeps
    | with_reducible apply autoEnd_keeps | with_reducible apply loaderPoll_keeps | with_reducible apply noteAbort_keeps
    | with_reducible apply askRelease_keeps | with_reducible apply modTile_keeps | with_reducible apply Keeps.foldl | intro _ _ _ | with_reducible apply Keeps.ite | split
    | dsimp only
    | with_reducible refine Keeps.mk' ?_ rfl rfl rfl rfl rfl rfl rfl rfl rfl rfl rfl rfl rfl rfl rfl rfl rfl rfl rfl rfl rfl rfl rfl rfl rfl rfl

end Sys2Proof.Machine
end

