-- ==== Sys2Proof/Laws/Boot.lean ====
section
/-! SUPPORT. Laws/Boot.lean: start-up, resets, life cycle and tamper keep the forms of the state and undo nothing that lasts, operation by operation. -/

set_option linter.unusedVariables false

namespace Sys2Proof.Machine

/-- An update of the start-up state that undoes nothing that lasts. -/
theorem Keeps.boot {s t : State} (h : Keeps s t) {b : BootSt} (h1 : Retired t → b.fuseLc = 4 ∧ b.lcPending = none)
    (h2 : t.boot.rollback ≤ b.rollback) (h3 : ∀ n ∈ t.boot.fusedEng, n ∈ b.fusedEng) (h4 : t.boot.nonces ≤ b.nonces) :
    Keeps s { t with boot := b } :=
  h.trans ⟨fun i => ⟨i.mem, i.tables, i.queue, i.log, i.link⟩, ⟨rfl, h1, h2, h3, h4⟩⟩

theorem modBoot_keeps {s0 s : State} {a0 : BootSt → BootSt} (h : Keeps s0 s)
    (ha0 : ∀ b, (a0 b).fuseLc = b.fuseLc ∧ (a0 b).lcPending = b.lcPending ∧ (a0 b).rollback = b.rollback ∧
      (a0 b).fusedEng = b.fusedEng ∧ (a0 b).nonces = b.nonces) : Keeps s0 (modBoot a0 s) := by
  obtain ⟨k1, k2, k3, k4, k5⟩ := ha0 s.boot
  exact h.boot (fun r => ⟨k1.trans r.1, k2.trans r.2⟩) (Nat.le_of_eq k3.symm) (fun n m => k4 ▸ m) (Nat.le_of_eq k5.symm)

theorem stepEnd_keeps {s0 s : State} {a0 : Nat} {a1 : Nat} (h : Keeps s0 s) : Keeps s0 (stepEnd a0 a1 s) := by
  unfold stepEnd
  repeat' first | with_reducible assumption | with_reducible apply modBoot_keeps | exact ⟨rfl, rfl, rfl, rfl, rfl⟩ | intro _

theorem vinValid_keeps {s0 s : State} {a0 : Nat} (h : Keeps s0 s) : Keeps s0 (vinValid a0 s) := by
  unfold vinValid
  repeat' first
    | with_reducible assumption | with_reducible apply valPut_keeps | with_reducible apply modBoot_keeps | exact ⟨rfl, rfl, rfl, rfl, rfl⟩
    | intro _ | with_reducible apply Keeps.ite

theorem railsInBand_keeps {s0 s : State}  (h : Keeps s0 s) : Keeps s0 (railsInBand s) := by
  unfold railsInBand
  repeat' first | with_reducible assumption | with_reducible apply stepEnd_keeps | with_reducible apply Keeps.ite

theorem fuseOut_keeps {s0 s : State} {a0 : Nat} (h : Keeps s0 s) : Keeps s0 (fuseOut a0 s) := by
  unfold fuseOut
  repeat' first | with_reducible assumption | with_reducible apply modPair_keeps | with_reducible apply modEng_keeps

theorem fuseLoad_keeps {s0 s : State}  (h : Keeps s0 s) : Keeps s0 (fuseLoad s) := by
  unfold fuseLoad
  repeat' first
    | with_reducible assumption | with_reducible apply fuseOut_keeps | with_reducible apply logEvent_keeps
    | with_reducible apply valPut_keeps | with_reducible apply stepEnd_keeps | with_reducible apply Keeps.foldl | intro _ _ _
    | with_reducible apply Keeps.ite | dsimp only
    | with_reducible refine Keeps.mk' ?_ rfl rfl rfl rfl rfl rfl rfl rfl rfl rfl rfl rfl rfl rfl rfl rfl rfl rfl rfl rfl rfl rfl rfl rfl rfl rfl

theorem injectionDone_keeps {s0 s : State} {a0 : List (Nat × Nat)} (h : Keeps s0 s) : Keeps s0 (injectionDone a0 s) := by
  unfold injectionDone
  repeat' first
    | with_reducible assumption | with_reducible apply stepEnd_keeps | with_reducible apply injectPair_keeps
    | with_reducible apply Keeps.foldl | intro _ _ _ | with_reducible apply Keeps.ite

theorem shelfInitDone_keeps {s0 s : State} (h : Keeps s0 s) : Keeps s0 (shelfInitDone s) := by
  unfold shelfInitDone
  exact Keeps.ite h (stepEnd_keeps (h.bytes kvFilter_wf rfl))

theorem firmwareRuns_keeps {s0 s : State} {a0 : Nat} {a1 : Nat} (h : Keeps s0 s) : Keeps s0 (firmwareRuns a0 a1 s) := by
  unfold firmwareRuns
  repeat' first
    | with_reducible assumption | with_reducible apply valPut_keeps | with_reducible apply stepEnd_keeps
    | with_reducible apply modBoot_keeps | exact ⟨rfl, rfl, rfl, rfl, rfl⟩ | intro _

theorem slotReport_keeps {s0 s : State} {a0 : Nat} {a1 : Nat} (h : Keeps s0 s) : Keeps s0 (slotReport a0 a1 s) := by
  unfold slotReport
  repeat' first | with_reducible assumption | with_reducible apply logEvent_keeps | with_reducible apply Keeps.ite

theorem firmwareVerified_keeps {s0 s : State}  (h : Keeps s0 s) : Keeps s0 (firmwareVerified s) := by
  unfold firmwareVerified
  repeat' first
    | with_reducible assumption | with_reducible apply slotReport_keeps | with_reducible apply valPut_keeps
    | with_reducible apply firmwareRuns_keeps | with_reducible apply modBoot_keeps | exact ⟨rfl, rfl, rfl, rfl, rfl⟩ | intro _
    | with_reducible apply Keeps.ite

theorem hostBootImage_keeps {s0 s : State}  (h : Keeps s0 s) : Keeps s0 (hostBootImage s) := by
  unfold hostBootImage
  repeat' first
    | with_reducible assumption | with_reducible apply modBoot_keeps | with_reducible apply firmwareRuns_keeps
    | exact ⟨rfl, rfl, rfl, rfl, rfl⟩ | intro _ | with_reducible apply Keeps.ite

theorem dramInitDone_keeps {s0 s : State}  (h : Keeps s0 s) : Keeps s0 (dramInitDone s) := by
  unfold dramInitDone
  repeat' first
    | with_reducible assumption | with_reducible apply valPut_keeps | with_reducible apply loseDram_keeps | with_reducible apply Keeps.ite
    | dsimp only
    | with_reducible refine Keeps.mk' ?_ rfl rfl rfl rfl rfl rfl rfl rfl rfl rfl rfl rfl rfl rfl rfl rfl rfl rfl rfl rfl rfl rfl rfl rfl rfl rfl

theorem replayRun_keeps {s0 s : State} {a0 : List Nat} (h : Keeps s0 s) : Keeps s0 (replayRun a0 s) := by
  unfold replayRun
  repeat' first
    | with_reducible assumption | with_reducible apply stepEnd_keeps | with_reducible apply archiveReplay_keeps
    | with_reducible apply Keeps.ite

theorem markedOut_keeps {s0 s : State}  (h : Keeps s0 s) : Keeps s0 (markedOut s) := by
  unfold markedOut
  repeat' first
    | with_reducible assumption | with_reducible apply modPair_keeps | with_reducible apply Keeps.foldl | intro _ _ _
    | with_reducible apply Keeps.ite

theorem slicesTake_keeps {s0 s : State}  (h : Keeps s0 s) : Keeps s0 (slicesTake s) := by
  unfold slicesTake
  repeat' first | with_reducible assumption | with_reducible apply valPut_keeps | with_reducible apply Keeps.foldl | intro _ _ _

theorem stopAtStart_keeps {s0 s : State}  (h : Keeps s0 s) : Keeps s0 (stopAtStart s) := by
  unfold stopAtStart
  repeat' first
    | with_reducible assumption | with_reducible apply safeStop_keeps | with_reducible apply stopPin_keeps | with_reducible apply Keeps.foldl
    | intro _ _ _ | with_reducible apply Keeps.ite

theorem catalogueReady_keeps {s0 s : State}  (h : Keeps s0 s) : Keeps s0 (catalogueReady s) := by
  unfold catalogueReady
  repeat' first
    | with_reducible assumption | with_reducible apply valPut_keeps | with_reducible apply modBoot_keeps
    | with_reducible apply resumeSlots_keeps | with_reducible apply markedOut_keeps | with_reducible apply slicesTake_keeps
    | with_reducible apply tryPace_keeps | with_reducible apply tryMask_keeps | with_reducible apply tryWork_keeps
    | with_reducible apply logEvent_keeps | with_reducible apply loaderPoll_keeps | with_reducible apply autoQueue_keeps
    | with_reducible apply stopAtStart_keeps | with_reducible apply roleAtStart_keeps | exact ⟨rfl, rfl, rfl, rfl, rfl⟩ | intro _
    | with_reducible apply Keeps.ite | dsimp only
    | with_reducible refine Keeps.mk' ?_ rfl rfl rfl rfl rfl rfl rfl rfl rfl rfl rfl rfl rfl rfl rfl rfl rfl rfl rfl rfl rfl rfl rfl rfl rfl rfl

theorem debugClose_keeps {s0 s : State} {a0 : Nat} (h : Keeps s0 s) : Keeps s0 (debugClose a0 s) := by
  unfold debugClose
  repeat' first
    | with_reducible assumption | with_reducible apply logEvent_keeps | with_reducible apply valPut_keeps | with_reducible apply Keeps.ite

theorem resetEngines_keeps {s0 s : State}  (h : Keeps s0 s) : Keeps s0 (resetEngines s) := by
  unfold resetEngines
  repeat' first
    | with_reducible assumption | with_reducible apply resetNow_keeps | with_reducible apply modPair_keeps
    | with_reducible apply Keeps.foldl | intro _ _ _ | with_reducible apply Keeps.ite

theorem resetTiles_keeps {s0 s : State}  (h : Keeps s0 s) : Keeps s0 (resetTiles s) := by
  unfold resetTiles
  repeat' first | with_reducible assumption | with_reducible apply modTile_keeps | with_reducible apply Keeps.foldl | intro _ _ _

theorem resetRings_keeps {s0 s : State}  (h : Keeps s0 s) : Keeps s0 (resetRings s) := by
  unfold resetRings
  repeat' first
    | with_reducible assumption | with_reducible apply loseAlign_keeps | with_reducible apply setRing_keeps
    | with_reducible apply setPort_keeps | with_reducible apply Keeps.foldl | intro _ _ _

theorem dropTransfers_keeps {s0 s : State}  (h : Keeps s0 s) : Keeps s0 (dropTransfers s) := by
  unfold dropTransfers
  repeat' first | with_reducible assumption | with_reducible apply dropChan_keeps | with_reducible apply Keeps.foldl

theorem durableLapse_keeps {s0 s : State}  (h : Keeps s0 s) : Keeps s0 (durableLapse s) := by
  unfold durableLapse
  repeat' first | with_reducible assumption | with_reducible apply lapse_keeps | with_reducible apply Keeps.ite

theorem deviceReset_keeps {s0 s : State} {a0 : Nat} (h : Keeps s0 s) : Keeps s0 (deviceReset a0 s) := by
  have k := dropHeld_keeps (resetRings_keeps (resetTiles_keeps (resetEngines_keeps (dropTransfers_keeps (debugClose_keeps (a0 := 2)
    (durableLapse_keeps h))))))
  unfold deviceReset
  dsimp only
  generalize dropHeld _ = t at k ⊢
  refine valPut_keeps (k.trans ⟨fun i => ⟨i.mem, ?_, Nat.zero_le _, i.log, i.link⟩, ⟨rfl, id, Nat.le_refl _, fun _ m => m, Nat.le_succ _⟩⟩)
  have i := i.tables
  simp only [tablesWf, Bool.and_eq_true] at i ⊢
  have f1 : kvWf 0 _ = true := kvFilter_wf (p := fun x => keepsValue x.1) i.1.1.1.1.1.1.1.1.1.1.1.2
  have f2 : kvWf [] _ = true := kvFilter_wf (p := fun x => keepsValue x.1) i.1.1.1.1.1.1.1.1.1.1.2
  have f3 : kvWf PinSt.idle _ = true := kvMap_wf (f := fun x => { PinSt.idle with lastDriven := x.lastDriven }) i.1.1.1.1.1.1.1.1.2
  have f4 : kvWf CapQ.empty _ = true := kvMap_wf (f := fun c => { CapQ.empty with newest := c.newest }) i.1.1.1.1.1.1.1.2
  have e : ∀ {α : Type} [DecidableEq α] {d : α}, kvWf d ([] : Kv α) = true := rfl
  exact ⟨⟨⟨⟨⟨⟨⟨⟨⟨⟨⟨⟨i.1.1.1.1.1.1.1.1.1.1.1.1, f1⟩, f2⟩, e⟩, f3⟩, f4⟩, e⟩, i.1.1.1.1.1.2⟩, i.1.1.1.1.2⟩, i.1.1.1.2⟩, i.1.1.2⟩, i.1.2⟩, i.2⟩

theorem resetN_keeps {s0 s : State}  (h : Keeps s0 s) : Keeps s0 (resetN s) := by
  unfold resetN
  repeat' first
    | with_reducible assumption | with_reducible apply modBoot_keeps | with_reducible apply deviceReset_keeps
    | exact ⟨rfl, rfl, rfl, rfl, rfl⟩ | intro _ | with_reducible apply Keeps.ite

theorem resetRelease_keeps {s0 s : State} {a0 : Nat} (h : Keeps s0 s) : Keeps s0 (resetRelease a0 s) := by
  unfold resetRelease
  repeat' first
    | with_reducible assumption | with_reducible apply valPut_keeps | with_reducible apply modBoot_keeps | exact ⟨rfl, rfl, rfl, rfl, rfl⟩
    | intro _ | with_reducible apply Keeps.ite

theorem warmReset_keeps {s0 s : State}  (h : Keeps s0 s) : Keeps s0 (warmReset s) := by
  unfold warmReset
  repeat' first | with_reducible assumption | with_reducible apply deviceReset_keeps

theorem watchdogReset_keeps {s0 s : State}  (h : Keeps s0 s) : Keeps s0 (watchdogReset s) := by
  unfold watchdogReset
  repeat' first
    | with_reducible assumption | with_reducible apply deviceReset_keeps | with_reducible apply logEvent_keeps
    | with_reducible apply Keeps.ite

theorem powerOnReset_keeps {s0 s : State} (h : Keeps s0 s) : Keeps s0 (powerOnReset s) :=
  h.trans ⟨fun _ => ⟨rfl, rfl, Nat.zero_le _, fun _ m => (List.not_mem_nil m).elim, List.nodup_nil⟩,
    ⟨rfl, fun r => ⟨r.1, rfl⟩, Nat.le_refl _, fun _ m => m, Nat.le_succ _⟩⟩

theorem freshNonce_keeps {s0 s : State} (h : Keeps s0 s) : Keeps s0 (freshNonce s) :=
  h.boot id (Nat.le_refl _) (fun _ m => m) (Nat.le_succ _)

/-- A RETIRED device accepts no transition (Table 19-6B). -/
theorem lcCode_retired {s : State} {b : List Byte} (r : Retired s) (h : fieldAt b 0 1 ≠ 5) : lcCode s b ≠ 0 := by
  have hl : lifecycle s = 4 := by simp [lifecycle, r.1]
  have ht : lcTarget 4 (fieldAt b 0 1) = none := by
    unfold lcTarget
    split <;> simp
  unfold lcCode
  dsimp only
  repeat' split
  all_goals simp_all

theorem lcWrite_keeps {s0 s : State} {a0 : List Byte} (h : Keeps s0 s) : Keeps s0 (lcWrite a0 s).2 := by
  have k := freshNonce_keeps h
  unfold lcWrite
  dsimp only
  split
  · exact logEvent_keeps k
  · rename_i hc
    split
    · rename_i h5
      refine k.boot id ?_ (fun _ m => m) (Nat.le_refl _)
      have : ¬ fieldAt a0 4 4 ≤ s.boot.rollback := by
        intro hv
        apply hc
        simp only [Decidable.not_not] at hc
        exfalso
        revert hc
        unfold lcCode
        dsimp only
        repeat' split
        all_goals simp_all
      exact Nat.le_of_lt (Nat.lt_of_not_le this)
    · rename_i h5
      have k2 := k.boot (b := { (freshNonce s).boot with lcPending := some (lifecycle s, (lcTarget (lifecycle s) (fieldAt a0 0 1)).getD 0) })
        (fun r => absurd (by simpa using hc) (lcCode_retired (s := s) ⟨r.1, r.2⟩ h5)) (Nat.le_refl _) (fun _ m => m) (Nat.le_refl _)
      exact Keeps.ite (journalEntry_keeps k2) k2

theorem countErases_boot {s : State} {a0 : List Nat} : (countErases a0 s).boot = s.boot := by unfold countErases; rfl

/-- A transition takes effect and waits no longer. From RETIRED none waits. -/
theorem lcApply_keeps {s0 s : State} {a0 : Nat} (h : Keeps s0 s) (hp : s.boot.lcPending ≠ none) :
    Keeps s0 (modBoot (fun b => { b with lcPending := none }) (lcApply a0 s)) := by
  unfold lcApply
  split
  · exact h.boot (fun r => absurd r.2 hp) (Nat.le_refl _) (fun _ m => m) (Nat.le_refl _)
  · have g := countErases_keeps (a0 := slotBlocks s 0 ++ slotBlocks s 1) h
    have gb : (countErases (slotBlocks s 0 ++ slotBlocks s 1) s).boot = s.boot := countErases_boot
    have k : Keeps s0 { countErases (slotBlocks s 0 ++ slotBlocks s 1) s with
        arch := archiveErase (countErases (slotBlocks s 0 ++ slotBlocks s 1) s).arch
        svc := { (countErases (slotBlocks s 0 ++ slotBlocks s 1) s).svc with stored := [] } } := by
      with_reducible refine Keeps.mk' g rfl rfl rfl rfl rfl rfl rfl rfl rfl rfl rfl rfl rfl rfl rfl rfl rfl rfl rfl rfl rfl rfl rfl rfl rfl rfl
    dsimp only
    generalize countErases (slotBlocks s 0 ++ slotBlocks s 1) s = t at k gb ⊢
    exact k.boot (fun r => absurd (gb ▸ r.2) hp) (Nat.le_refl _) (fun _ m => m) (Nat.le_refl _)
  · exact (valPut_keeps h).boot (fun r => ⟨r.1, rfl⟩) (Nat.le_refl _) (fun _ m => m) (Nat.le_refl _)

theorem lifecycleCommit_keeps {s0 s : State} (h : Keeps s0 s) : Keeps s0 (lifecycleCommit s) := by
  unfold lifecycleCommit
  split
  · exact h
  · rename_i hp
    exact Keeps.ite h (logEvent_keeps (debugClose_keeps (startWipe_keeps (lcApply_keeps h (by rw [hp]; exact Option.some_ne_none _)))))

theorem lcCancel_keeps {s0 s : State} (h : Keeps s0 s) : Keeps s0 (lcCancel s) := by
  unfold lcCancel
  split
  · exact h
  · have k := h.boot (b := { s.boot with lcPending := none }) (fun r => ⟨r.1, rfl⟩) (Nat.le_refl _) (fun _ m => m) (Nat.le_refl _)
    exact logEvent_keeps (Keeps.ite (journalEntry_keeps k) k)

theorem tamperWipe_keeps {s0 s : State} {a0 : Nat} (h : Keeps s0 s) : Keeps s0 (tamperWipe a0 s) := by
  unfold tamperWipe
  repeat' first
    | with_reducible assumption | with_reducible apply startWipe_keeps | split | dsimp only
    | with_reducible refine Keeps.mk' ?_ rfl rfl rfl rfl rfl rfl rfl rfl rfl rfl rfl rfl rfl rfl rfl rfl rfl rfl rfl rfl rfl rfl rfl rfl rfl rfl

theorem tamperEvent_keeps {s0 s : State} {a0 : Nat} (h : Keeps s0 s) : Keeps s0 (tamperEvent a0 s) := by
  unfold tamperEvent
  repeat' first
    | with_reducible assumption | with_reducible apply debugClose_keeps | with_reducible apply tamperWipe_keeps
    | with_reducible apply lcCancel_keeps | with_reducible apply valPut_keeps | with_reducible apply logEvent_keeps
    | with_reducible apply valJournal_keeps | with_reducible apply safeStop_keeps | with_reducible apply idleAllPairs_keeps
    | with_reducible apply stopAllEngines_keeps | with_reducible apply modBoot_keeps | exact ⟨rfl, rfl, rfl, rfl, rfl⟩ | intro _
    | with_reducible apply Keeps.ite

theorem tamperClear_keeps {s0 s : State} {a0 : Nat} (h : Keeps s0 s) : Keeps s0 (tamperClear a0 s) := by
  unfold tamperClear
  repeat' first
    | with_reducible assumption | with_reducible apply logEvent_keeps | with_reducible apply valPut_keeps
    | with_reducible apply Keeps.foldl | intro _ _ _ | with_reducible apply Keeps.ite
    | with_reducible refine Keeps.mk' ?_ rfl rfl rfl rfl rfl rfl rfl rfl rfl rfl rfl rfl rfl rfl rfl rfl rfl rfl rfl rfl rfl rfl rfl rfl rfl rfl

end Sys2Proof.Machine
end

