-- ==== Sys2Proof/Laws/Service.lean ====
section
/-! SUPPORT. Laws/Service.lean: service jobs keep the forms of the state and undo nothing that lasts, operation by operation. -/

set_option linter.unusedVariables false

namespace Sys2Proof.Machine

theorem markRepair_keeps {s0 s : State} {a0 : Nat} (h : Keeps s0 s) : Keeps s0 (markRepair a0 s) := by
  unfold markRepair
  repeat' first | with_reducible assumption | with_reducible apply journalEntry_keeps | with_reducible apply longPut_keeps

theorem repairJob_keeps {s0 s : State} {a0 : Nat} (h : Keeps s0 s) : Keeps s0 (repairJob a0 s) := by
  unfold repairJob
  repeat' first
    | with_reducible assumption | with_reducible apply failJob_keeps | with_reducible apply jobComplete_keeps
    | with_reducible apply markRepair_keeps | with_reducible apply Keeps.ite

theorem fusePair_keeps {s0 s : State} {a0 : Nat} (h : Keeps s0 s) : Keeps s0 (fusePair a0 s) := by
  have k := fuseOut_keeps (a0 := checkerOf a0) (fuseOut_keeps (a0 := mainOf a0) h)
  have k2 := k.boot (b := { (fuseOut (checkerOf a0) (fuseOut (mainOf a0) s)).boot with
      fusedEng := (fuseOut (checkerOf a0) (fuseOut (mainOf a0) s)).boot.fusedEng ++ [mainOf a0, checkerOf a0] })
    id (Nat.le_refl _) (fun _ m => List.mem_append_left _ m) (Nat.le_refl _)
  unfold fusePair
  exact logEvent_keeps (Keeps.ite k2 (valJournal_keeps k2))

theorem serviceReset_keeps {s0 s : State} {a0 : Nat} (h : Keeps s0 s) : Keeps s0 (serviceReset a0 s) := by
  unfold serviceReset
  repeat' first
    | with_reducible assumption | with_reducible apply failJob_keeps | with_reducible apply fusePair_keeps
    | with_reducible apply journalEntry_keeps | with_reducible apply longPut_keeps | with_reducible apply valPut_keeps
    | with_reducible apply modBoot_keeps | with_reducible apply warmReset_keeps | with_reducible apply Keeps.foldl | intro _ _ _
    | exact ⟨rfl, rfl, rfl, rfl, rfl⟩ | intro _ | with_reducible apply Keeps.ite | split | dsimp only
    | with_reducible refine Keeps.mk' ?_ rfl rfl rfl rfl rfl rfl rfl rfl rfl rfl rfl rfl rfl rfl rfl rfl rfl rfl rfl rfl rfl rfl rfl rfl rfl rfl

theorem selfReturn_keeps {s0 s : State} {a0 : Nat} {a1 : Nat} (h : Keeps s0 s) : Keeps s0 (selfReturn a0 a1 s) := by
  unfold selfReturn
  repeat' first
    | with_reducible assumption | with_reducible apply setPair_keeps | with_reducible apply valJournal_keeps
    | with_reducible apply Keeps.ite | split | dsimp only

theorem selfRun_keeps {s0 s : State} {a0 : Nat} {a1 : Nat} (h : Keeps s0 s) : Keeps s0 (selfRun a0 a1 s) := by
  unfold selfRun
  repeat' first
    | with_reducible assumption | with_reducible apply logEvent_keeps | with_reducible apply jobComplete_keeps
    | with_reducible apply selfReturn_keeps | with_reducible apply failJob_keeps | with_reducible apply markRepair_keeps
    | with_reducible apply modPair_keeps | split | dsimp only

theorem selfTry_keeps {s0 s : State} {a0 : Nat} (h : Keeps s0 s) : Keeps s0 (selfTry a0 s) := by
  unfold selfTry
  repeat' first
    | with_reducible assumption | with_reducible apply selfRun_keeps | with_reducible apply setJob_keeps
    | with_reducible apply startMigration_keeps | with_reducible apply failJob_keeps | with_reducible apply Keeps.ite

theorem tileTemp_keeps {s0 s : State} {a0 : Nat} (h : Keeps s0 s) : Keeps s0 (tileTemp a0 s).2 := by
  unfold tileTemp
  repeat' first | with_reducible assumption | with_reducible apply sense_keeps

theorem calibrate_keeps {s0 s : State} {a0 : Nat} {a1 : Int} (h : Keeps s0 s) : Keeps s0 (calibrate a0 a1 s) := by
  unfold calibrate
  repeat' first | with_reducible assumption | with_reducible apply modTile_keeps

theorem calibTry_keeps {s0 s : State} {a0 : Nat} (h : Keeps s0 s) : Keeps s0 (calibTry a0 s) := by
  unfold calibTry
  repeat' first
    | with_reducible assumption | with_reducible apply tileTemp_keeps | with_reducible apply jobComplete_keeps
    | with_reducible apply calibrate_keeps | with_reducible apply Keeps.ite

theorem autoCalibrate_keeps {s0 s : State} {a0 : Nat} {a1 : Int} (h : Keeps s0 s) : Keeps s0 (autoCalibrate a0 a1 s) := by
  unfold autoCalibrate
  repeat' first | with_reducible assumption | with_reducible apply calibrate_keeps | with_reducible apply Keeps.ite

theorem sideTry_keeps {s0 s : State} {a0 : Nat} (h : Keeps s0 s) : Keeps s0 (sideTry s a0) := by
  unfold sideTry
  repeat' first
    | with_reducible assumption | with_reducible apply selfTry_keeps | with_reducible apply calibTry_keeps
    | with_reducible apply Keeps.ite | split

theorem servicePoll_keeps {s0 s : State}  (h : Keeps s0 s) : Keeps s0 (servicePoll s) := by
  unfold servicePoll
  repeat' first
    | with_reducible assumption | with_reducible apply loaderPoll_keeps | with_reducible apply sideTry_keeps
    | with_reducible apply Keeps.foldl

theorem cancelJob_keeps {s0 s : State} {a0 : Nat} {a1 : Nat} (h : Keeps s0 s) : Keeps s0 (cancelJob a0 a1 s) := by
  unfold cancelJob
  repeat' first
    | with_reducible assumption | with_reducible apply failJob_keeps | with_reducible apply jobComplete_keeps
    | with_reducible apply setJob_keeps | with_reducible apply Keeps.ite

theorem jobAccept_keeps {s0 s : State} {a0 : SvcCmd} {a1 : Option Nat} (h : Keeps s0 s) : Keeps s0 (jobAccept a0 a1 s) := by
  unfold jobAccept
  repeat' first
    | with_reducible assumption | with_reducible apply setJob_keeps | with_reducible apply cancelJob_keeps
    | with_reducible apply selfTry_keeps | with_reducible apply calibTry_keeps | with_reducible apply repairJob_keeps
    | with_reducible apply serviceReset_keeps | with_reducible apply loaderQueue_keeps | split

theorem svcWrite_keeps {s0 s : State} {a0 : List Byte} {a1 : Option Nat} (h : Keeps s0 s) : Keeps s0 (svcWrite a0 a1 s).2 := by
  unfold svcWrite
  repeat' first | with_reducible assumption | with_reducible apply jobAccept_keeps | with_reducible apply Keeps.ite_snd

theorem stagePut_keeps {s0 s : State} {a0 : Nat} {a1 : Nat} {a2 : List Byte} (h : Keeps s0 s) : Keeps s0 (stagePut a0 a1 a2 s) := by
  unfold stagePut
  repeat' first
    | with_reducible assumption | dsimp only
    | with_reducible refine Keeps.mk' ?_ rfl rfl rfl rfl rfl rfl rfl rfl rfl rfl rfl rfl rfl rfl rfl rfl rfl rfl rfl rfl rfl rfl rfl rfl rfl rfl

theorem fwPut_keeps {s0 s : State} {a0 : List Byte} (h : Keeps s0 s) : Keeps s0 (fwPut a0 s) := by
  unfold fwPut
  repeat' first
    | with_reducible assumption | with_reducible apply putFwSlot_keeps | split | dsimp only
    | with_reducible refine Keeps.mk' ?_ rfl rfl rfl rfl rfl rfl rfl rfl rfl rfl rfl rfl rfl rfl rfl rfl rfl rfl rfl rfl rfl rfl rfl rfl rfl rfl

theorem stageTake_keeps {s0 s : State} {a0 : Nat} {a1 : Nat} {a2 : List Byte} (h : Keeps s0 s) : Keeps s0 (stageTake a0 a1 a2 s) := by
  unfold stageTake
  repeat' first
    | with_reducible assumption | with_reducible apply fwPut_keeps | with_reducible apply stagePut_keeps | with_reducible apply Keeps.ite

theorem chunkWrite_keeps {s0 s : State} {a0 : List Byte} (h : Keeps s0 s) : Keeps s0 (chunkWrite a0 s).2 := by
  unfold chunkWrite
  repeat' first
    | with_reducible assumption | with_reducible apply valPut_keeps | with_reducible apply stageTake_keeps
    | with_reducible apply Keeps.ite_snd

theorem markTile_keeps {s0 s : State} {a0 : Nat} (h : Keeps s0 s) : Keeps s0 (markTile s a0) := by
  unfold markTile
  repeat' first
    | with_reducible assumption | with_reducible apply valPut_keeps | with_reducible apply setPend_keeps
    | with_reducible apply Keeps.foldl | intro _ _ _ | with_reducible apply Keeps.ite

theorem periodMark_keeps {s0 s : State}  (h : Keeps s0 s) : Keeps s0 (periodMark s) := by
  unfold periodMark
  repeat' first
    | with_reducible assumption | with_reducible apply markTile_keeps | with_reducible apply phaseReduce_keeps
    | with_reducible apply substAtMark_keeps | with_reducible apply pairAtMark_keeps | with_reducible apply refreshAtMark_keeps
    | with_reducible apply jobAtMark_keeps | with_reducible apply handoversAtMark_keeps | with_reducible apply servicePoll_keeps
    | with_reducible apply autoAtMark_keeps | with_reducible apply Keeps.foldl | intro _ _ _ | with_reducible apply Keeps.ite | dsimp only
    | with_reducible refine Keeps.mk' ?_ rfl rfl rfl rfl rfl rfl rfl rfl rfl rfl rfl rfl rfl rfl rfl rfl rfl rfl rfl rfl rfl rfl rfl rfl rfl rfl

end Sys2Proof.Machine
end

