-- ==== Sys2Proof/Laws/CatWrite.lean ====
section
/-! SUPPORT. Laws/CatWrite.lean: the catalogue service keep the forms of the state and undo nothing that lasts, operation by operation. -/

set_option linter.unusedVariables false

namespace Sys2Proof.Machine

theorem putShort_keeps {s0 s : State} {a0 : Nat} {a1 : Nat} (h : Keeps s0 s) : Keeps s0 (putShort a0 a1 s) := by
  unfold putShort
  repeat' first
    | with_reducible assumption | with_reducible apply journalEntry_keeps | with_reducible apply valPut_keeps
    | with_reducible apply Keeps.ite | split

theorem putLong_keeps {s0 s : State} {a0 : Nat} {a1 : List Byte} (h : Keeps s0 s) : Keeps s0 (putLong a0 a1 s) := by
  unfold putLong
  repeat' first
    | with_reducible assumption | with_reducible apply journalEntry_keeps | with_reducible apply longPut_keeps
    | with_reducible apply Keeps.ite | split

theorem tagWait_keeps {s0 s : State} {a0 : Nat} {a1 : Nat} {a2 : Nat} (h : Keeps s0 s) : Keeps s0 (tagWait a0 a1 a2 s) := by
  unfold tagWait
  repeat' first | with_reducible assumption | with_reducible apply modTile_keeps | with_reducible apply Keeps.ite

theorem tileCommand_keeps {s0 s : State} {a0 : Nat} {a1 : Nat} {a2 : State → Nat × State} (h :
    Keeps s0 s) (ha2 : ∀ x, Keeps s0 x → Keeps s0 (a2 x).2): Keeps s0 (tileCommand a0 a1 a2 s).2 := by
  unfold tileCommand
  repeat' first
    | with_reducible assumption | with_reducible apply ha2 | with_reducible apply tagWait_keeps | with_reducible apply wakeEvent_keeps

theorem writeTime_keeps {s0 s : State} {a0 : Nat} {a1 : Nat} (h : Keeps s0 s) : Keeps s0 (writeTime a0 a1 s).2 := by
  unfold writeTime
  repeat' first
    | with_reducible assumption | with_reducible apply phaseReduce_keeps | with_reducible apply putShort_keeps
    | with_reducible apply periodRun_keeps | with_reducible apply timeSource_keeps | with_reducible apply timeSet_keeps
    | with_reducible apply Keeps.ite_snd

theorem writeRing_keeps {s0 s : State} {a0 : Nat} {a1 : Nat} (h : Keeps s0 s) : Keeps s0 (writeRing a0 a1 s).2 := by
  unfold writeRing
  repeat' first
    | with_reducible assumption | with_reducible apply wakeEvent_keeps | with_reducible apply phaseReduce_keeps
    | with_reducible apply roleApply_keeps | with_reducible apply putShort_keeps | with_reducible apply scanCmd_keeps
    | with_reducible apply stopRelease_keeps | with_reducible apply Keeps.ite_snd

theorem writeXf_keeps {s0 s : State} {a0 : Nat} {a1 : Nat} {a2 : Nat} (h : Keeps s0 s) : Keeps s0 (writeXf a0 a1 a2 s).2 := by
  unfold writeXf
  repeat' first
    | with_reducible assumption | with_reducible apply setChan_keeps | with_reducible apply xfCtlWrite_keeps
    | with_reducible apply wakeEvent_keeps | with_reducible apply putShort_keeps | with_reducible apply Keeps.ite | split

theorem writeTile_keeps {s0 s : State} {a0 : Nat} {a1 : Nat} {a2 : Nat} (h : Keeps s0 s) : Keeps s0 (writeTile a0 a1 a2 s).2 := by
  unfold writeTile
  repeat' first
    | with_reducible assumption | with_reducible apply domRequest_keeps | with_reducible apply valPut_keeps
    | with_reducible apply putShort_keeps | with_reducible apply modEng_keeps | with_reducible apply wipeStacks_keeps
    | with_reducible apply Keeps.foldl | intro _ _ _ | with_reducible apply Keeps.ite | with_reducible apply Keeps.ite_snd | split

theorem writeTioMode_keeps {s0 s : State} {a0 : Nat} {a1 : Nat} (h : Keeps s0 s) : Keeps s0 (writeTioMode a0 a1 s) := by
  unfold writeTioMode
  repeat' first
    | with_reducible assumption | with_reducible apply pinHolds_keeps | with_reducible apply putShort_keeps
    | with_reducible apply bump_keeps | with_reducible apply setPin_keeps

theorem writeTio_keeps {s0 s : State} {a0 : Nat} {a1 : Nat} {a2 : Nat} (h : Keeps s0 s) : Keeps s0 (writeTio a0 a1 a2 s) := by
  unfold writeTio
  repeat' first
    | with_reducible assumption | with_reducible apply writeTioMode_keeps | with_reducible apply pinHolds_keeps
    | with_reducible apply putShort_keeps | split

theorem writePair_keeps {s0 s : State} {a0 : Nat} {a1 : Nat} {a2 : Nat} {a3 : Nat} {a4 : Option Nat} (h : Keeps s0 s) :
    Keeps s0 (writePair a0 a1 a2 a3 a4 s).2 := by
  unfold writePair
  repeat' first
    | with_reducible assumption | with_reducible apply tileCommand_keeps | with_reducible apply pairCmdWrite_keeps
    | with_reducible apply servicePoll_keeps | with_reducible apply putShort_keeps | intro _ _ | with_reducible apply Keeps.ite_snd
    | split

theorem writeOne_keeps {s0 s : State} {a0 : Nat} {a1 : Nat} {a2 : Nat} (h : Keeps s0 s) : Keeps s0 (writeOne a0 a1 a2 s).2 := by
  unfold writeOne
  repeat' first
    | with_reducible assumption | with_reducible apply warmReset_keeps | with_reducible apply tamperClear_keeps
    | with_reducible apply domRequest_keeps | with_reducible apply weed_keeps | with_reducible apply wakeEvent_keeps
    | with_reducible apply submitPair_keeps | with_reducible apply ledgerDone_keeps | with_reducible apply ledgerCmd_keeps
    | with_reducible apply putShort_keeps | with_reducible apply Keeps.ite_snd

theorem applyShort_keeps {s0 s : State} {a0 : Nat} {a1 : Nat} {a2 : Nat} {a3 : Nat} {a4 : Option Nat} (h : Keeps s0 s) :
    Keeps s0 (applyShort a0 a1 a2 a3 a4 s).2 := by
  unfold applyShort
  repeat' first
    | with_reducible assumption | with_reducible apply writeTime_keeps | with_reducible apply writeRing_keeps
    | with_reducible apply writeXf_keeps | with_reducible apply xfuDisable_keeps | with_reducible apply xfuReenable_keeps
    | with_reducible apply writeTile_keeps | with_reducible apply tileCommand_keeps | with_reducible apply engCmdWrite_keeps
    | with_reducible apply writePair_keeps | with_reducible apply writeTio_keeps | with_reducible apply writeOne_keeps | intro _ _
    | with_reducible apply Keeps.ite | with_reducible apply Keeps.ite_snd

theorem applyLong_keeps {s0 s : State} {a0 : Nat} {a1 : List Byte} {a2 : Option Nat} (h : Keeps s0 s) :
    Keeps s0 (applyLong a0 a1 a2 s).2 := by
  unfold applyLong
  repeat' first
    | with_reducible assumption | with_reducible apply lcWrite_keeps | with_reducible apply svcWrite_keeps
    | with_reducible apply chunkWrite_keeps | with_reducible apply putLong_keeps | with_reducible apply putStreams_keeps
    | with_reducible apply Keeps.ite_snd

theorem writeValue_keeps {s0 s : State} {a0 : Nat} {a1 : Nat} {a2 : Nat} {a3 : List Byte} {a4 : Option Nat} (h : Keeps s0 s) :
    Keeps s0 (writeValue a0 a1 a2 a3 a4 s).2 := by
  unfold writeValue
  repeat' first
    | with_reducible assumption | with_reducible apply applyShort_keeps | with_reducible apply applyLong_keeps
    | with_reducible apply Keeps.ite_snd | split

theorem lcRefused_keeps {s0 s : State} {a0 : Nat} {a1 : List Byte} {a2 : Nat × State} (h : Keeps s0 s) (ha2 :
    Keeps s0 a2.2): Keeps s0 (lcRefused a0 a1 s a2).2 := by
  unfold lcRefused
  repeat' first
    | with_reducible assumption | with_reducible apply logEvent_keeps | with_reducible apply freshNonce_keeps
    | with_reducible apply Keeps.ite_snd

theorem segDrop_keeps {s0 s : State} {a0 : Nat} (h : Keeps s0 s) : Keeps s0 (segDrop a0 s) := by
  unfold segDrop
  repeat' first
    | with_reducible assumption | dsimp only
    | with_reducible refine Keeps.mk' ?_ rfl rfl rfl rfl rfl rfl rfl rfl rfl rfl rfl rfl rfl rfl rfl rfl rfl rfl rfl rfl rfl rfl rfl rfl rfl rfl

theorem segWrite_keeps {s0 s : State} {a0 : Nat} {a1 : Nat} {a2 : Nat} {a3 : List Byte} {a4 : Bool} (h : Keeps s0 s) :
    Keeps s0 (segWrite a0 a1 a2 a3 a4 s).2 := by
  unfold segWrite
  repeat' first
    | with_reducible assumption | with_reducible apply writeValue_keeps | with_reducible apply segDrop_keeps
    | with_reducible apply Keeps.ite | with_reducible apply Keeps.ite_snd | split | dsimp only
    | with_reducible refine Keeps.mk' ?_ rfl rfl rfl rfl rfl rfl rfl rfl rfl rfl rfl rfl rfl rfl rfl rfl rfl rfl rfl rfl rfl rfl rfl rfl rfl rfl

theorem segTimeout_keeps {s0 s : State} {a0 : Nat} (h : Keeps s0 s) : Keeps s0 (segTimeout a0 s) := by
  unfold segTimeout
  repeat' first
    | with_reducible assumption | with_reducible apply noteAbort_keeps | with_reducible apply segDrop_keeps
    | with_reducible apply Keeps.ite | split

theorem valueBytes_keeps {s0 s : State} {a0 : Nat} (h : Keeps s0 s) : Keeps s0 (valueBytes a0 s).2 := by
  unfold valueBytes
  repeat' first | with_reducible assumption | with_reducible apply shortRead_keeps | with_reducible apply Keeps.ite_snd | split

theorem answer_keeps {s0 s : State} {a0 : Nat} {a1 : Nat} {a2 : Nat} {a3 : List Byte} {a4 : Bool} (h : Keeps s0 s) :
    Keeps s0 (answer a0 a1 a2 a3 a4 s).st := by
  unfold answer
  repeat' first
    | with_reducible assumption | with_reducible apply noteAbort_keeps | split | dsimp only
    | with_reducible refine Keeps.mk' ?_ rfl rfl rfl rfl rfl rfl rfl rfl rfl rfl rfl rfl rfl rfl rfl rfl rfl rfl rfl rfl rfl rfl rfl rfl rfl rfl

theorem windowAbort_keeps {s0 s : State} {a0 : Nat} {a1 : Nat} {a2 : Nat} (h : Keeps s0 s) : Keeps s0 (windowAbort a0 a1 a2 s) := by
  unfold windowAbort
  repeat' first
    | with_reducible assumption | with_reducible apply bump_keeps | with_reducible apply valPut_keeps
    | with_reducible apply noteAbort_keeps

theorem catCommand_keeps {s0 s : State} {a0 : Nat} {a1 : Nat} {a2 : Nat} {a3 : List Byte} {a4 : Option Nat} (h : Keeps s0 s) :
    Keeps s0 (catCommand a0 a1 a2 a3 a4 s) := by
  unfold catCommand
  repeat' first
    | with_reducible assumption | with_reducible apply lcRefused_keeps | with_reducible apply writeValue_keeps
    | with_reducible apply windowAbort_keeps | with_reducible apply answer_keeps | with_reducible apply Keeps.ite
    | with_reducible apply Keeps.ite_snd | split | dsimp only
    | with_reducible refine Keeps.mk' ?_ rfl rfl rfl rfl rfl rfl rfl rfl rfl rfl rfl rfl rfl rfl rfl rfl rfl rfl rfl rfl rfl rfl rfl rfl rfl rfl

/-- The catalogue service, on every route. -/
theorem serve_keeps {s0 : State} {i j k l : Nat} {m : List Byte} {n : Bool} {o : Nat} {s : State} (h : Keeps s0 s) :
    Keeps s0 (serve i j k l m n o s).st := by
  unfold serve
  dsimp only
  split
  · split
    · exact answer_keeps h
    · exact answer_keeps (valueBytes_keeps h)
  · refine answer_keeps (lcRefused_keeps h (Keeps.ite_snd (segWrite_keeps h) (Keeps.ite_snd h (writeValue_keeps h))))
  · split
    · exact answer_keeps h
    · split
      · exact answer_keeps h
      · exact answer_keeps h

theorem windowLoad_keeps {s0 : State} {i j k l : Nat} {s : State} (h : Keeps s0 s) : Keeps s0 (windowLoad i j k l s).2.2 := by
  unfold windowLoad
  dsimp only
  split
  · exact windowAbort_keeps h
  · split
    · exact windowAbort_keeps h
    · exact Keeps.ite_snd (shortRead_keeps h) h

theorem windowStore_keeps {s0 : State} {i j k l m : Nat} {s : State} (h : Keeps s0 s) : Keeps s0 (windowStore i j k l m s).2 := by
  have w : ∀ d : Option Desc, Keeps s0 (match d with
      | none => (1, s)
      | some d => if shortType d.type = false ∨ k ≠ 0 ∨ l ≠ d.size then (6, s) else writeValue 0 i j (leBytes l m) none s).2 := by
    intro d
    split
    · exact h
    · exact Keeps.ite_snd h (writeValue_keeps h)
  have r := Keeps.ite_snd (c := accessCode s 0 j ≠ 0) (t := (accessCode s 0 j, s)) h (w (descOf s j))
  unfold windowStore
  dsimp only
  exact Keeps.ite_snd r (windowAbort_keeps (lcRefused_keeps h r))

end Sys2Proof.Machine
end

