-- ==== Sys2Proof/Laws/Entries.lean ====
section
/-! SUPPORT. Laws/Entries.lean: exception and interrupt entries and the meter keep the forms of the state and undo nothing that lasts, operation by operation. -/

set_option linter.unusedVariables false

namespace Sys2Proof.Machine

theorem entryToken_keeps {s0 s : State} {a0 : Nat} {a1 : TokKind} {a2 : Inp} {a3 : List Due} {a4 : List Item} (h : Keeps s0 s) :
    Keeps s0 (entryToken a0 a1 a2 a3 a4 s) := by
  unfold entryToken
  repeat' first | with_reducible assumption | with_reducible apply pushTokens_keeps | with_reducible apply modPair_keeps

theorem interruptEntry_keeps {s0 s : State} {a0 : Nat} {a1 : Option Nat} (h : Keeps s0 s) : Keeps s0 (interruptEntry a0 a1 s) := by
  unfold interruptEntry
  repeat' first
    | with_reducible assumption | with_reducible apply setEng_keeps | with_reducible apply countLate_keeps
    | with_reducible apply pairAfter_keeps | with_reducible apply applyEngCmd_keeps | with_reducible apply splitSteps_keeps
    | with_reducible apply pushTokens_keeps | with_reducible apply modPair_keeps | with_reducible apply setPend_keeps
    | with_reducible apply entryToken_keeps | with_reducible apply logItems_keeps | with_reducible apply serve_keeps
    | with_reducible apply windowLoad_keeps | with_reducible apply windowStore_keeps | intro _ _ | intro _
    | with_reducible apply Keeps.ite | with_reducible apply Keeps.ite_snd | with_reducible apply Keeps.ite_fst | split | dsimp only
    | with_reducible refine Keeps.mk' ?_ rfl rfl rfl rfl rfl rfl rfl rfl rfl rfl rfl rfl rfl rfl rfl rfl rfl rfl rfl rfl rfl rfl rfl rfl rfl rfl

theorem exceptionEntry_keeps {s0 s : State} {a0 : Nat} (h : Keeps s0 s) : Keeps s0 (exceptionEntry a0 s) := by
  unfold exceptionEntry
  repeat' first
    | with_reducible assumption | with_reducible apply thirdFault_keeps | with_reducible apply setEng_keeps
    | with_reducible apply splitSteps_keeps | with_reducible apply logItems_keeps | with_reducible apply modPair_keeps
    | with_reducible apply entryToken_keeps | with_reducible apply serve_keeps | with_reducible apply windowLoad_keeps
    | with_reducible apply windowStore_keeps | intro _ _ | intro _ | with_reducible apply Keeps.ite | with_reducible apply Keeps.ite_snd
    | with_reducible apply Keeps.ite_fst | split | dsimp only
    | with_reducible refine Keeps.mk' ?_ rfl rfl rfl rfl rfl rfl rfl rfl rfl rfl rfl rfl rfl rfl rfl rfl rfl rfl rfl rfl rfl rfl rfl rfl rfl rfl

theorem atomicOverrun_keeps {s0 s : State} {a0 : Nat} (h : Keeps s0 s) : Keeps s0 (atomicOverrun a0 s) := by
  unfold atomicOverrun
  repeat' first | with_reducible assumption | with_reducible apply modEng_keeps | with_reducible apply Keeps.ite

theorem replayDebug_keeps {s0 s : State} {a0 : Nat → Word → Engine → Engine} {a1 : Nat} (h : Keeps s0 s) :
    Keeps s0 (replayDebug a0 a1 s) := by
  unfold replayDebug
  repeat' first
    | with_reducible assumption | with_reducible apply drainChain_keeps | with_reducible apply modPair_keeps
    | with_reducible apply modEng_keeps | with_reducible apply Keeps.ite

theorem upsetParcels_keeps {s0 s : State} {a0 : Nat} {a1 : Nat} (h : Keeps s0 s) : Keeps s0 (upsetParcels a0 a1 s) := by
  unfold upsetParcels
  repeat' first | with_reducible assumption | with_reducible apply modEng_keeps | with_reducible apply Keeps.ite

theorem bundleIssue_keeps {s0 s : State} {a0 : Nat} {a1 : Nat} (h : Keeps s0 s) : Keeps s0 (bundleIssue a0 a1 s) := by
  unfold bundleIssue
  repeat' first | with_reducible assumption | with_reducible apply issueOne_keeps | with_reducible apply Keeps.ite

theorem engineStall_keeps {s0 s : State} {a0 : Nat} (h : Keeps s0 s) : Keeps s0 (engineStall a0 s) := by
  unfold engineStall
  repeat' first | with_reducible assumption | with_reducible apply issueOne_keeps | with_reducible apply Keeps.ite

theorem meterStall_keeps {s0 s : State} {a0 : Nat} (h : Keeps s0 s) : Keeps s0 (meterStall s a0) := by
  unfold meterStall
  repeat' first
    | with_reducible assumption | with_reducible apply modEng_keeps | with_reducible apply splitSteps_keeps
    | with_reducible apply pushTokens_keeps | with_reducible apply modPair_keeps | with_reducible apply serve_keeps
    | with_reducible apply windowLoad_keeps | with_reducible apply windowStore_keeps | intro _ _ | intro _
    | with_reducible apply Keeps.ite | with_reducible apply Keeps.ite_snd | with_reducible apply Keeps.ite_fst | split | dsimp only
    | with_reducible refine Keeps.mk' ?_ rfl rfl rfl rfl rfl rfl rfl rfl rfl rfl rfl rfl rfl rfl rfl rfl rfl rfl rfl rfl rfl rfl rfl rfl rfl rfl

theorem meterMark_keeps {s0 s : State} {a0 : Nat} (h : Keeps s0 s) : Keeps s0 (meterMark s a0) := by
  unfold meterMark
  repeat' first | with_reducible assumption | with_reducible apply modEng_keeps | with_reducible apply Keeps.ite

theorem markDue_keeps {s0 s : State} {a0 : Nat} (h : Keeps s0 s) : Keeps s0 (markDue s a0) := by
  unfold markDue
  repeat' first | with_reducible assumption | with_reducible apply setEng_keeps | with_reducible apply Keeps.ite | split | dsimp only

theorem meterStep_keeps {s0 s : State} {a0 : Nat} {a1 : Bool} (h : Keeps s0 s) : Keeps s0 (meterStep a0 a1 s) := by
  unfold meterStep
  repeat' first
    | with_reducible assumption | with_reducible apply meterStall_keeps | with_reducible apply modEng_keeps
    | with_reducible apply modTile_keeps | with_reducible apply markDue_keeps | with_reducible apply bump_keeps
    | with_reducible apply meterMark_keeps | with_reducible apply Keeps.foldl | intro _ _ _ | with_reducible apply Keeps.ite

theorem sourceEvent_keeps {s0 s : State} {a0 : Nat} {a1 : Nat} (h : Keeps s0 s) : Keeps s0 (sourceEvent a0 a1 s) := by
  unfold sourceEvent
  repeat' first
    | with_reducible assumption | with_reducible apply setPend_keeps | with_reducible apply setPendAll_keeps
    | with_reducible apply Keeps.ite

end Sys2Proof.Machine
end

