-- ==== Sys2Proof/Laws/Recovery.lean ====
section
/-! SUPPORT. Laws/Recovery.lean: recovery of a pair keep the forms of the state and undo nothing that lasts, operation by operation. -/

set_option linter.unusedVariables false

namespace Sys2Proof.Machine

theorem captureInterval_keeps {s0 s : State} {a0 : Nat} (h : Keeps s0 s) : Keeps s0 (captureInterval a0 s) := by
  unfold captureInterval
  repeat' first | with_reducible assumption | with_reducible apply setPair_keeps | with_reducible apply Keeps.ite

theorem catchUpFailed_keeps {s0 s : State} {a0 : Nat} (h : Keeps s0 s) : Keeps s0 (catchUpFailed a0 s) := by
  unfold catchUpFailed
  repeat' first
    | with_reducible assumption | with_reducible apply logEvent_keeps | with_reducible apply loseMask_keeps
    | with_reducible apply modPair_keeps | split

theorem logFull_keeps {s0 s : State} {a0 : Nat} (h : Keeps s0 s) : Keeps s0 (logFull a0 s) := by
  unfold logFull
  repeat' first
    | with_reducible assumption | with_reducible apply catchUpFailed_keeps | with_reducible apply setPair_keeps
    | with_reducible apply Keeps.ite

theorem checkpoint_keeps {s0 s : State} {a0 : Nat} (h : Keeps s0 s) : Keeps s0 (checkpoint a0 s) := by
  unfold checkpoint
  repeat' first
    | with_reducible assumption | with_reducible apply takeMergeCapture_keeps | with_reducible apply captureFollow_keeps
    | with_reducible apply Keeps.ite

theorem itemDiffers_keeps {s0 s : State} {a0 : Nat} (h : Keeps s0 s) : Keeps s0 (itemDiffers a0 s) := by
  unfold itemDiffers
  repeat' first | with_reducible assumption | with_reducible apply mismatch_keeps | with_reducible apply Keeps.ite

theorem resetDone_keeps {s0 s : State} {a0 : Nat} (h : Keeps s0 s) : Keeps s0 (resetDone a0 s) := by
  unfold resetDone
  repeat' first | with_reducible assumption | with_reducible apply modPair_keeps | with_reducible apply Keeps.ite

theorem restoreDone_keeps {s0 s : State} {a0 : Nat} {a1 : Bool} (h : Keeps s0 s) : Keeps s0 (restoreDone a0 a1 s) := by
  unfold restoreDone
  repeat' first | with_reducible assumption | with_reducible apply restorePair_keeps | with_reducible apply Keeps.ite

theorem replayEnd_keeps {s0 s : State} {a0 : Nat → Word → Engine → Engine} {a1 : Nat} {a2 : Bool} (h : Keeps s0 s) :
    Keeps s0 (replayEnd a0 a1 a2 s) := by
  unfold replayEnd
  repeat' first
    | with_reducible assumption | with_reducible apply replayDebug_keeps | with_reducible apply unrecoverable_keeps
    | with_reducible apply replayDone_keeps | with_reducible apply Keeps.ite | split | dsimp only

theorem recoveryOverrun_keeps {s0 s : State} {a0 : Nat} (h : Keeps s0 s) : Keeps s0 (recoveryOverrun a0 s) := by
  unfold recoveryOverrun
  repeat' first
    | with_reducible assumption | with_reducible apply logEvent_keeps | with_reducible apply pairEvent_keeps
    | with_reducible apply setPair_keeps | with_reducible apply Keeps.ite | split | dsimp only

theorem checkerFault_keeps {s0 s : State} {a0 : Nat} {a1 : Nat} (h : Keeps s0 s) : Keeps s0 (checkerFault a0 a1 s) := by
  unfold checkerFault
  repeat' first
    | with_reducible assumption | with_reducible apply pairEvent_keeps | with_reducible apply logEvent_keeps
    | with_reducible apply modPair_keeps | with_reducible apply startMigration_keeps | with_reducible apply Keeps.ite | split

theorem spareCatchUp_keeps {s0 s : State} {a0 : Nat} (h : Keeps s0 s) : Keeps s0 (spareCatchUp a0 s) := by
  unfold spareCatchUp
  repeat' first
    | with_reducible assumption | with_reducible apply drainChain_keeps | with_reducible apply haltPair_keeps
    | with_reducible apply copyBytes_keeps | with_reducible apply moveQueue_keeps | with_reducible apply modEng_keeps
    | with_reducible apply setPair_keeps | with_reducible apply modPair_keeps | with_reducible apply tryMask_keeps
    | with_reducible apply workFollows_keeps | with_reducible apply logEvent_keeps | with_reducible apply Keeps.ite | split | dsimp only

end Sys2Proof.Machine
end

