-- ==== Sys2Proof/Laws/Debug.lean ====
section
/-! SUPPORT. Laws/Debug.lean: the TAP and the debug port keep the forms of the state and undo nothing that lasts, operation by operation. -/

set_option linter.unusedVariables false

namespace Sys2Proof.Machine

theorem dbgOut_keeps {s0 s : State} {a0 : Nat} {a1 : Nat} (h : Keeps s0 s) : Keeps s0 (dbgOut a0 a1 s) := by
  unfold dbgOut
  repeat' first
    | with_reducible assumption | dsimp only
    | with_reducible refine Keeps.mk' ?_ rfl rfl rfl rfl rfl rfl rfl rfl rfl rfl rfl rfl rfl rfl rfl rfl rfl rfl rfl rfl rfl rfl rfl rfl rfl rfl

theorem dbgPhys_keeps {s0 s : State} {a0 : Bool} {a1 : Nat} {a2 : Nat} (h : Keeps s0 s) : Keeps s0 (dbgPhys a0 a1 a2 s) := by
  unfold dbgPhys
  repeat' first
    | with_reducible assumption | with_reducible apply dbgOut_keeps | with_reducible apply accError_keeps
    | with_reducible apply writePhys_keeps | with_reducible apply readPhys_keeps | with_reducible apply Keeps.ite | split | dsimp only
    | with_reducible refine Keeps.mk' ?_ rfl rfl rfl rfl rfl rfl rfl rfl rfl rfl rfl rfl rfl rfl rfl rfl rfl rfl rfl rfl rfl rfl rfl rfl rfl rfl

theorem dbgSvc_keeps {s0 s : State} {a0 : SvcOut} (ha0 : Keeps s0 a0.st): Keeps s0 (dbgSvc a0) := by
  unfold dbgSvc
  repeat' first | with_reducible assumption | with_reducible apply dbgOut_keeps

theorem dbgCat_keeps {s0 s : State} {a0 : Bool} {a1 : Nat} {a2 : Nat} (h : Keeps s0 s) : Keeps s0 (dbgCat a0 a1 a2 s) := by
  unfold dbgCat
  repeat' first
    | with_reducible assumption | with_reducible apply dbgOut_keeps | with_reducible apply dbgSvc_keeps | with_reducible apply serve_keeps
    | with_reducible apply Keeps.ite | split | dsimp only
    | with_reducible refine Keeps.mk' ?_ rfl rfl rfl rfl rfl rfl rfl rfl rfl rfl rfl rfl rfl rfl rfl rfl rfl rfl rfl rfl rfl rfl rfl rfl rfl rfl

theorem dbgEngine_keeps {s0 s : State} {a0 : Bool} {a1 : Nat} {a2 : Nat} (h : Keeps s0 s) : Keeps s0 (dbgEngine a0 a1 a2 s) := by
  unfold dbgEngine
  repeat' first
    | with_reducible assumption | with_reducible apply wakeEvent_keeps | with_reducible apply dbgOut_keeps
    | with_reducible apply modEng_keeps | with_reducible apply logItems_keeps | with_reducible apply Keeps.ite

theorem dbgCapture_keeps {s0 s : State}  (h : Keeps s0 s) : Keeps s0 (dbgCapture s) := by
  unfold dbgCapture
  repeat' first
    | with_reducible assumption | dsimp only
    | with_reducible refine Keeps.mk' ?_ rfl rfl rfl rfl rfl rfl rfl rfl rfl rfl rfl rfl rfl rfl rfl rfl rfl rfl rfl rfl rfl rfl rfl rfl rfl rfl

theorem dbgAccess_keeps {s0 s : State} {a0 : Bool} {a1 : Nat} {a2 : Nat} {a3 : Nat} (h : Keeps s0 s) :
    Keeps s0 (dbgAccess a0 a1 a2 a3 s) := by
  unfold dbgAccess
  repeat' first
    | with_reducible assumption | with_reducible apply dbgCapture_keeps | with_reducible apply dbgOut_keeps
    | with_reducible apply dbgPhys_keeps | with_reducible apply dbgCat_keeps | with_reducible apply dbgEngine_keeps
    | with_reducible apply Keeps.ite | split | dsimp only
    | with_reducible refine Keeps.mk' ?_ rfl rfl rfl rfl rfl rfl rfl rfl rfl rfl rfl rfl rfl rfl rfl rfl rfl rfl rfl rfl rfl rfl rfl rfl rfl rfl

theorem dbgPoll_keeps {s0 s : State} {a0 : Bool} (h : Keeps s0 s) : Keeps s0 (dbgPoll a0 s) := by
  unfold dbgPoll
  repeat' first
    | with_reducible assumption | with_reducible apply dbgCapture_keeps | with_reducible apply dbgOut_keeps
    | with_reducible apply dbgPhys_keeps | with_reducible apply Keeps.ite | split | dsimp only
    | with_reducible refine Keeps.mk' ?_ rfl rfl rfl rfl rfl rfl rfl rfl rfl rfl rfl rfl rfl rfl rfl rfl rfl rfl rfl rfl rfl rfl rfl rfl rfl rfl

theorem dbgOpen_keeps {s0 s : State} {a0 : List Byte} (h : Keeps s0 s) : Keeps s0 (dbgOpen a0 s) := by
  unfold dbgOpen
  repeat' first
    | with_reducible assumption | with_reducible apply freshNonce_keeps | with_reducible apply valPut_keeps
    | with_reducible apply logEvent_keeps | with_reducible apply Keeps.ite | dsimp only
    | with_reducible refine Keeps.mk' ?_ rfl rfl rfl rfl rfl rfl rfl rfl rfl rfl rfl rfl rfl rfl rfl rfl rfl rfl rfl rfl rfl rfl rfl rfl rfl rfl

theorem dbgTimeout_keeps {s0 s : State}  (h : Keeps s0 s) : Keeps s0 (dbgTimeout s) := by
  unfold dbgTimeout
  repeat' first | with_reducible assumption | with_reducible apply debugClose_keeps | with_reducible apply Keeps.ite

theorem tapHold_keeps {s0 s : State}  (h : Keeps s0 s) : Keeps s0 (tapHold s) := by
  unfold tapHold
  repeat' first
    | with_reducible assumption | with_reducible apply deviceReset_keeps | with_reducible apply Keeps.ite | dsimp only
    | with_reducible refine Keeps.mk' ?_ rfl rfl rfl rfl rfl rfl rfl rfl rfl rfl rfl rfl rfl rfl rfl rfl rfl rfl rfl rfl rfl rfl rfl rfl rfl rfl

theorem tapFree_keeps {s0 s : State}  (h : Keeps s0 s) : Keeps s0 (tapFree s) := by
  unfold tapFree
  repeat' first
    | with_reducible assumption | with_reducible apply modBoot_keeps | exact ⟨rfl, rfl, rfl, rfl, rfl⟩ | intro _
    | with_reducible apply Keeps.ite | dsimp only
    | with_reducible refine Keeps.mk' ?_ rfl rfl rfl rfl rfl rfl rfl rfl rfl rfl rfl rfl rfl rfl rfl rfl rfl rfl rfl rfl rfl rfl rfl rfl rfl rfl

theorem tapSelect_keeps {s0 s : State} {a0 : Nat} {a1 : Nat} (h : Keeps s0 s) : Keeps s0 (tapSelect a0 a1 s) := by
  unfold tapSelect
  repeat' first
    | with_reducible assumption | with_reducible apply tapHold_keeps | with_reducible apply tapFree_keeps | split | dsimp only
    | with_reducible refine Keeps.mk' ?_ rfl rfl rfl rfl rfl rfl rfl rfl rfl rfl rfl rfl rfl rfl rfl rfl rfl rfl rfl rfl rfl rfl rfl rfl rfl rfl

theorem tapScan_keeps {s0 s : State} {a0 : Nat} {a1 : List Bool} {a2 : List Bool} (h : Keeps s0 s) : Keeps s0 (tapScan a0 a1 a2 s) := by
  unfold tapScan
  repeat' first
    | with_reducible assumption | with_reducible apply tapSelect_keeps | dsimp only
    | with_reducible refine Keeps.mk' ?_ rfl rfl rfl rfl rfl rfl rfl rfl rfl rfl rfl rfl rfl rfl rfl rfl rfl rfl rfl rfl rfl rfl rfl rfl rfl rfl

theorem trstLow_keeps {s0 s : State}  (h : Keeps s0 s) : Keeps s0 (trstLow s) := by
  unfold trstLow
  repeat' first | with_reducible assumption | with_reducible apply tapSelect_keeps | with_reducible apply debugClose_keeps

end Sys2Proof.Machine
end

