-- ==== Sys2Proof/Laws/Host.lean ====
section
/-! SUPPORT. Laws/Host.lean: the host port and the pins keep the forms of the state and undo nothing that lasts, operation by operation. -/

set_option linter.unusedVariables false

namespace Sys2Proof.Machine

theorem doorbell_keeps {s0 s : State} {a0 : Nat} {a1 : Word} (h : Keeps s0 s) : Keeps s0 (doorbell a0 a1 s).2 := by
  unfold doorbell
  repeat' first
    | with_reducible assumption | with_reducible apply setPend_keeps | with_reducible apply rqEnter_keeps
    | with_reducible apply wakeTile_keeps | with_reducible apply Keeps.ite_snd | dsimp only
    | with_reducible refine Keeps.mk' ?_ rfl rfl rfl rfl rfl rfl rfl rfl rfl rfl rfl rfl rfl rfl rfl rfl rfl rfl rfl rfl rfl rfl rfl rfl rfl rfl

theorem folioData_keeps {s0 s : State} {a0 : HFrame} (h : Keeps s0 s) : Keeps s0 (folioData a0 s).2 := by
  unfold folioData
  repeat' first
    | with_reducible assumption | with_reducible apply modBoot_keeps | with_reducible apply stageTake_keeps
    | exact ⟨rfl, rfl, rfl, rfl, rfl⟩ | intro _ | with_reducible apply Keeps.ite_snd

theorem hostRespond_keeps {s0 s : State} {a0 : HFrame} (h : Keeps s0 s) : Keeps s0 (hostRespond a0 s) := by
  unfold hostRespond
  repeat' first
    | with_reducible assumption | with_reducible apply hostPush_keeps | with_reducible apply Keeps.ite | dsimp only
    | with_reducible refine Keeps.mk' ?_ rfl rfl rfl rfl rfl rfl rfl rfl rfl rfl rfl rfl rfl rfl rfl rfl rfl rfl rfl rfl rfl rfl rfl rfl rfl rfl

theorem serveOne_keeps {s0 s : State} {a0 : HFrame} (h : Keeps s0 s) : Keeps s0 (serveOne a0 s) := by
  unfold serveOne
  repeat' first
    | with_reducible assumption | with_reducible apply hostPush_keeps | with_reducible apply hostRespond_keeps
    | with_reducible apply submit_keeps | with_reducible apply reportAck_keeps | with_reducible apply folioData_keeps
    | with_reducible apply doorbell_keeps | with_reducible apply serve_keeps | with_reducible apply Keeps.ite | split

theorem hostServeN_keeps {s0 : State} : ∀ {a0 : Nat} {s : State}, Keeps s0 s → Keeps s0 (hostServeN a0 s)
  | 0, _, h => h
  | _ + 1, _, h => by
    unfold hostServeN
    split
    · exact h
    · exact Keeps.ite h (hostServeN_keeps (serveOne_keeps (Keeps.mk' h rfl rfl rfl rfl rfl rfl rfl rfl rfl rfl rfl rfl rfl rfl rfl rfl rfl rfl rfl rfl rfl rfl rfl rfl rfl rfl)))

theorem hostServe_keeps {s0 s : State}  (h : Keeps s0 s) : Keeps s0 (hostServe s) := by
  unfold hostServe
  repeat' first | with_reducible assumption | with_reducible apply hostServeN_keeps

theorem hostRequest_keeps {s0 s : State} {a0 : List Byte} (h : Keeps s0 s) : Keeps s0 (hostRequest a0 s) := by
  unfold hostRequest
  repeat' first
    | with_reducible assumption | with_reducible apply hostServe_keeps | with_reducible apply bump_keeps | with_reducible apply Keeps.ite
    | dsimp only
    | with_reducible refine Keeps.mk' ?_ rfl rfl rfl rfl rfl rfl rfl rfl rfl rfl rfl rfl rfl rfl rfl rfl rfl rfl rfl rfl rfl rfl rfl rfl rfl rfl

theorem privateRead_keeps {s0 s : State} (h : Keeps s0 s) : Keeps s0 (privateRead s) := by
  unfold privateRead
  refine Keeps.ite h ?_
  split
  · exact Keeps.mk' h rfl rfl rfl rfl rfl rfl rfl rfl rfl rfl rfl rfl rfl rfl rfl rfl rfl rfl rfl rfl rfl rfl rfl rfl rfl rfl
  · rename_i f fs hq
    refine hostServe_keeps (h.trans ⟨fun i => ⟨i.mem, i.tables, ?_, i.log, i.link⟩, ⟨rfl, id, Nat.le_refl _, fun _ m => m, Nat.le_refl _⟩⟩)
    have := i.queue
    rw [hq] at this
    exact Nat.le_of_succ_le this

theorem ibiTry_keeps {s0 s : State} {a0 : Bool} (h : Keeps s0 s) : Keeps s0 (ibiTry a0 s) := by
  unfold ibiTry
  repeat' first
    | with_reducible assumption | with_reducible apply bump_keeps | with_reducible apply Keeps.ite | dsimp only
    | with_reducible refine Keeps.mk' ?_ rfl rfl rfl rfl rfl rfl rfl rfl rfl rfl rfl rfl rfl rfl rfl rfl rfl rfl rfl rfl rfl rfl rfl rfl rfl rfl

theorem ccc_keeps {s0 s : State} {a0 : Bool} {a1 : Bool} {a2 : State → State} (h :
    Keeps s0 s) (ha2 : ∀ x, Keeps s0 x → Keeps s0 (a2 x)): Keeps s0 (ccc a0 a1 a2 s) := by
  unfold ccc
  repeat' first
    | with_reducible assumption | with_reducible apply ha2 | with_reducible apply valPut_keeps | with_reducible apply Keeps.ite

theorem hostOut_keeps {s0 s : State} {a0 : List Byte} (h : Keeps s0 s) : Keeps s0 (hostOut a0 s) := by
  unfold hostOut
  repeat' first
    | with_reducible assumption | dsimp only
    | with_reducible refine Keeps.mk' ?_ rfl rfl rfl rfl rfl rfl rfl rfl rfl rfl rfl rfl rfl rfl rfl rfl rfl rfl rfl rfl rfl rfl rfl rfl rfl rfl

theorem cccEnec_keeps {s0 s : State} {a0 : Bool} {a1 : Byte} (h : Keeps s0 s) : Keeps s0 (cccEnec a0 a1 s) := by
  unfold cccEnec
  repeat' first
    | with_reducible assumption | with_reducible apply ccc_keeps | with_reducible apply valPut_keeps | intro _ _
    | with_reducible apply Keeps.ite

theorem cccDisec_keeps {s0 s : State} {a0 : Bool} {a1 : Byte} (h : Keeps s0 s) : Keeps s0 (cccDisec a0 a1 s) := by
  unfold cccDisec
  repeat' first
    | with_reducible assumption | with_reducible apply ccc_keeps | with_reducible apply valPut_keeps | intro _ _
    | with_reducible apply Keeps.ite | dsimp only
    | with_reducible refine Keeps.mk' ?_ rfl rfl rfl rfl rfl rfl rfl rfl rfl rfl rfl rfl rfl rfl rfl rfl rfl rfl rfl rfl rfl rfl rfl rfl rfl rfl

theorem cccAddr_keeps {s0 s : State} {a0 : Bool} {a1 : Nat} (h : Keeps s0 s) : Keeps s0 (cccAddr a0 a1 s) := by
  unfold cccAddr
  repeat' first
    | with_reducible assumption | with_reducible apply ccc_keeps | with_reducible apply valPut_keeps | intro _ _
    | with_reducible apply Keeps.ite

theorem cccMwl_keeps {s0 s : State} {a0 : Bool} {a1 : Nat} (h : Keeps s0 s) : Keeps s0 (cccMwl a0 a1 s) := by
  unfold cccMwl
  repeat' first
    | with_reducible assumption | with_reducible apply ccc_keeps | intro _ _ | with_reducible apply Keeps.ite | dsimp only
    | with_reducible refine Keeps.mk' ?_ rfl rfl rfl rfl rfl rfl rfl rfl rfl rfl rfl rfl rfl rfl rfl rfl rfl rfl rfl rfl rfl rfl rfl rfl rfl rfl

theorem cccMrl_keeps {s0 s : State} {a0 : Bool} {a1 : Nat} (h : Keeps s0 s) : Keeps s0 (cccMrl a0 a1 s) := by
  unfold cccMrl
  repeat' first
    | with_reducible assumption | with_reducible apply ccc_keeps | with_reducible apply valPut_keeps | intro _ _
    | with_reducible apply Keeps.ite

theorem cccGet_keeps {s0 s : State} {a0 : State → List Byte} (h : Keeps s0 s) : Keeps s0 (cccGet a0 s) := by
  unfold cccGet
  repeat' first | with_reducible assumption | with_reducible apply ccc_keeps | with_reducible apply hostOut_keeps | intro _ _

theorem cccStatus_keeps {s0 s : State}  (h : Keeps s0 s) : Keeps s0 (cccStatus s) := by
  unfold cccStatus
  repeat' first
    | with_reducible assumption | with_reducible apply ccc_keeps | with_reducible apply hostOut_keeps | intro _ _ | dsimp only
    | with_reducible refine Keeps.mk' ?_ rfl rfl rfl rfl rfl rfl rfl rfl rfl rfl rfl rfl rfl rfl rfl rfl rfl rfl rfl rfl rfl rfl rfl rfl rfl rfl

theorem cccHdr_keeps {s0 s : State}  (h : Keeps s0 s) : Keeps s0 (cccHdr s) := by
  unfold cccHdr
  repeat' first | with_reducible assumption | with_reducible apply ccc_keeps | with_reducible apply valPut_keeps | intro _ _

theorem hostReset_keeps {s0 s : State} {a0 : Nat} (h : Keeps s0 s) : Keeps s0 (hostReset a0 s) := by
  unfold hostReset
  exact logEvent_keeps (valPut_keeps (h.trans ⟨fun i => ⟨i.mem, i.tables, Nat.zero_le _, i.log, i.link⟩,
    ⟨rfl, id, Nat.le_refl _, fun _ m => m, Nat.le_refl _⟩⟩))

theorem cccRstact_keeps {s0 s : State} {a0 : Bool} {a1 : Nat} (h : Keeps s0 s) : Keeps s0 (cccRstact a0 a1 s) := by
  unfold cccRstact
  repeat' first
    | with_reducible assumption | with_reducible apply ccc_keeps | with_reducible apply warmReset_keeps
    | with_reducible apply hostReset_keeps | intro _ _ | with_reducible apply Keeps.ite

theorem notifyLevels_keeps {s0 s : State}  (h : Keeps s0 s) : Keeps s0 (notifyLevels s) := by
  unfold notifyLevels
  repeat' first | with_reducible assumption | with_reducible apply shortRead_keeps | with_reducible apply hostNotify_keeps

theorem stopLow_keeps {s0 s : State}  (h : Keeps s0 s) : Keeps s0 (stopLow s) := by
  unfold stopLow
  repeat' first
    | with_reducible assumption | with_reducible apply bump_keeps | with_reducible apply safeStop_keeps
    | with_reducible apply notifyLevels_keeps | with_reducible apply Keeps.ite | dsimp only
    | with_reducible refine Keeps.mk' ?_ rfl rfl rfl rfl rfl rfl rfl rfl rfl rfl rfl rfl rfl rfl rfl rfl rfl rfl rfl rfl rfl rfl rfl rfl rfl rfl

theorem stopRise_keeps {s0 s : State}  (h : Keeps s0 s) : Keeps s0 (stopRise s) := by
  unfold stopRise
  repeat' first
    | with_reducible assumption | with_reducible apply notifyLevels_keeps | with_reducible apply Keeps.ite | dsimp only
    | with_reducible refine Keeps.mk' ?_ rfl rfl rfl rfl rfl rfl rfl rfl rfl rfl rfl rfl rfl rfl rfl rfl rfl rfl rfl rfl rfl rfl rfl rfl rfl rfl

theorem syncOutPulse_keeps {s0 s : State}  (h : Keeps s0 s) : Keeps s0 (syncOutPulse s) := by
  unfold syncOutPulse
  repeat' first
    | with_reducible assumption | with_reducible apply Keeps.ite | dsimp only
    | with_reducible refine Keeps.mk' ?_ rfl rfl rfl rfl rfl rfl rfl rfl rfl rfl rfl rfl rfl rfl rfl rfl rfl rfl rfl rfl rfl rfl rfl rfl rfl rfl

end Sys2Proof.Machine
end

