-- ==== Sys2Proof/Laws/Commands.lean ====
section
/-! SUPPORT. Laws/Commands.lean: commands by route keep the forms of the state and undo nothing that lasts, operation by operation. -/

set_option linter.unusedVariables false

namespace Sys2Proof.Machine

theorem entryLong_keeps {s0 s : State} {a0 : Sys2Proof.Route} {a1 : Nat} {a2 : List Byte} {a3 : Option Nat} (h : Keeps s0 s) :
    Keeps s0 (entryLong a0 a1 a2 a3 s) := catCommand_keeps h

theorem entryCmd_keeps {s0 s : State} {a0 : Sys2Proof.Route} {a1 : Nat} {a2 : Nat} {a3 : Option Nat} (h : Keeps s0 s) :
    Keeps s0 (entryCmd a0 a1 a2 a3 s) := by
  unfold entryCmd
  repeat' first | with_reducible assumption | with_reducible apply entryLong_keeps

theorem windowReply_keeps {s0 s : State} {a0 : Nat} {a1 : Nat} {a2 : List Byte} (h : Keeps s0 s) : Keeps s0 (windowReply a0 a1 a2 s) := by
  unfold windowReply
  repeat' first
    | with_reducible assumption | dsimp only
    | with_reducible refine Keeps.mk' ?_ rfl rfl rfl rfl rfl rfl rfl rfl rfl rfl rfl rfl rfl rfl rfl rfl rfl rfl rfl rfl rfl rfl rfl rfl rfl rfl

theorem entryRead_keeps {s0 s : State} {a0 : Sys2Proof.Route} {a1 : Nat} {a2 : Nat} {a3 : Nat} (h : Keeps s0 s) :
    Keeps s0 (entryRead a0 a1 a2 a3 s) := by
  unfold entryRead
  repeat' first
    | with_reducible assumption | with_reducible apply windowReply_keeps | with_reducible apply serve_keeps
    | with_reducible apply windowLoad_keeps | with_reducible apply Keeps.ite | split

theorem entryWrite_keeps {s0 s : State} {a0 : Sys2Proof.Route} {a1 : Nat} {a2 : Nat} {a3 : List Byte} {a4 : Bool} (h : Keeps s0 s) :
    Keeps s0 (entryWrite a0 a1 a2 a3 a4 s) := by
  unfold entryWrite
  repeat' first
    | with_reducible assumption | with_reducible apply windowReply_keeps | with_reducible apply serve_keeps
    | with_reducible apply windowStore_keeps | with_reducible apply Keeps.ite | split

theorem entryInfo_keeps {s0 s : State} {a0 : Sys2Proof.Route} {a1 a2 a3 : Nat} (h : Keeps s0 s) : Keeps s0 (entryInfo a0 a1 a2 a3 s) := by
  cases a0 with
  | window _ => exact h
  | debug => exact h
  | ringA => exact serve_keeps h
  | ringB => exact serve_keeps h
  | host => exact serve_keeps h

theorem lcCommand_keeps {s0 s : State} {a0 : Sys2Proof.Route} {a1 : Nat} {a2 : Sys2Proof.LcFields} (h : Keeps s0 s) :
    Keeps s0 (lcCommand a0 a1 a2 s) := by
  unfold lcCommand
  repeat' first | with_reducible assumption | with_reducible apply entryLong_keeps

theorem svcCommand_keeps {s0 s : State} {a0 : Sys2Proof.Route} {a1 : Nat} {a2 : Sys2Proof.SvcFields} {a3 : Option Nat} (h : Keeps s0 s) :
    Keeps s0 (svcCommand a0 a1 a2 a3 s) := entryLong_keeps h

theorem domainCmd_keeps {s0 s : State} {a0 : Sys2Proof.Route} {a1 : Sys2Proof.Dom} {a2 : Nat} (h : Keeps s0 s) :
    Keeps s0 (domainCmd a0 a1 a2 s) := by
  unfold domainCmd
  repeat' first | with_reducible assumption | with_reducible apply entryCmd_keeps | split

theorem ledgerSubmit_keeps {s0 s : State} {a0 : Sys2Proof.Submission} (h : Keeps s0 s) : Keeps s0 (ledgerSubmit a0 s) := by
  unfold ledgerSubmit
  split
  · exact submit_keeps h
  · exact submit_keeps h
  · exact submitPair_keeps h

theorem ownQueuePop_keeps {s0 s : State} {a0 : Nat} {a1 : Bool} (h : Keeps s0 s) : Keeps s0 (ownQueuePop a0 a1 s) := by
  unfold ownQueuePop
  repeat' first
    | with_reducible assumption | with_reducible apply modEng_keeps | with_reducible apply logItems_keeps | with_reducible apply Keeps.ite

theorem wakeFollow_keeps {s0 s : State} {a0 : Sys2Proof.Dom} (h : Keeps s0 s) : Keeps s0 (wakeFollow a0 s) := by
  unfold wakeFollow
  repeat' first
    | with_reducible assumption | with_reducible apply wakeComplete_keeps | with_reducible apply servicePoll_keeps
    | with_reducible apply startWaiting_keeps | with_reducible apply Keeps.ite | split

theorem paceStep_keeps {s0 s : State} {a0 : Nat} {a1 : List Nat} (h : Keeps s0 s) : Keeps s0 (paceStep a0 a1 s) := by
  unfold paceStep
  repeat' first
    | with_reducible assumption | with_reducible apply loaderPoll_keeps | with_reducible apply paceTake_keeps
    | with_reducible apply paceEvaluate_keeps | with_reducible apply Keeps.foldl | intro _ _ _

theorem linkRead_keeps {s0 s : State} {a0 : Nat} {a1 : Nat} (h : Keeps s0 s) : Keeps s0 (linkRead a0 a1 s) := by
  unfold linkRead
  repeat' first | with_reducible assumption | with_reducible apply linkSend_keeps

theorem junctionWarning_keeps {s0 s : State} {a0 : Nat} (h : Keeps s0 s) : Keeps s0 (junctionWarning a0 s) := by
  unfold junctionWarning
  repeat' first | with_reducible assumption | with_reducible apply tileTemp_keeps | with_reducible apply logEvent_keeps

theorem tick_keeps {s0 s : State}  (h : Keeps s0 s) : Keeps s0 (tick s) := by
  unfold tick
  repeat' first
    | with_reducible assumption | dsimp only
    | with_reducible refine Keeps.mk' ?_ rfl rfl rfl rfl rfl rfl rfl rfl rfl rfl rfl rfl rfl rfl rfl rfl rfl rfl rfl rfl rfl rfl rfl rfl rfl rfl

end Sys2Proof.Machine
end

