-- ==== Sys2Proof/Laws/State.lean ====
section
/-! SUPPORT. Laws/State.lean: what each update of a part of the state leaves as it was, field by field, and what is read back. -/

namespace Sys2Proof.Machine

/-! ### setEng -/

@[simp] theorem setEng_pending (n : Nat) (e : Engine) (s : State) : (setEng n e s).pending = s.pending := rfl
@[simp] theorem setEng_now (n : Nat) (e : Engine) (s : State) : (setEng n e s).now = s.now := rfl
@[simp] theorem setEng_up (n : Nat) (e : Engine) (s : State) : (setEng n e s).up = s.up := rfl
@[simp] theorem setEng_cat (n : Nat) (e : Engine) (s : State) : (setEng n e s).cat = s.cat := rfl
@[simp] theorem setEng_log (n : Nat) (e : Engine) (s : State) : (setEng n e s).log = s.log := rfl
@[simp] theorem setEng_pair (n : Nat) (e : Engine) (s : State) : (setEng n e s).pair = s.pair := rfl
@[simp] theorem setEng_tile (n : Nat) (e : Engine) (s : State) : (setEng n e s).tile = s.tile := rfl
@[simp] theorem setEng_time (n : Nat) (e : Engine) (s : State) : (setEng n e s).time = s.time := rfl
@[simp] theorem setEng_mem (n : Nat) (e : Engine) (s : State) : (setEng n e s).mem = s.mem := rfl
@[simp] theorem setEng_net (n : Nat) (e : Engine) (s : State) : (setEng n e s).net = s.net := rfl
@[simp] theorem setEng_xfer (n : Nat) (e : Engine) (s : State) : (setEng n e s).xfer = s.xfer := rfl
@[simp] theorem setEng_ledger (n : Nat) (e : Engine) (s : State) : (setEng n e s).ledger = s.ledger := rfl
@[simp] theorem setEng_arch (n : Nat) (e : Engine) (s : State) : (setEng n e s).arch = s.arch := rfl
@[simp] theorem setEng_ring (n : Nat) (e : Engine) (s : State) : (setEng n e s).ring = s.ring := rfl
@[simp] theorem setEng_port (n : Nat) (e : Engine) (s : State) : (setEng n e s).port = s.port := rfl
@[simp] theorem setEng_host (n : Nat) (e : Engine) (s : State) : (setEng n e s).host = s.host := rfl
@[simp] theorem setEng_pins (n : Nat) (e : Engine) (s : State) : (setEng n e s).pins = s.pins := rfl
@[simp] theorem setEng_tap (n : Nat) (e : Engine) (s : State) : (setEng n e s).tap = s.tap := rfl
@[simp] theorem setEng_power (n : Nat) (e : Engine) (s : State) : (setEng n e s).power = s.power := rfl
@[simp] theorem setEng_boot (n : Nat) (e : Engine) (s : State) : (setEng n e s).boot = s.boot := rfl
@[simp] theorem setEng_svc (n : Nat) (e : Engine) (s : State) : (setEng n e s).svc = s.svc := rfl
@[simp] theorem setEng_drawn (n : Nat) (e : Engine) (s : State) : (setEng n e s).drawn = s.drawn := rfl

/-- A part replaced is read back, unless it is what an unlisted one reads as. -/
theorem getEng_setEng_same {k : Nat} {y : Engine} {s : State} (h : y ≠ Engine.fresh) : getEng (setEng k y s) k = y := by
  simp only [getEng, setEng, kvSet, h, if_false]
  exact kvGet_kvPut_same

/-- A part replaced is read back. -/
theorem getEng_setEng_wf {k : Nat} {y : Engine} {s : State} (h : kvWf Engine.fresh s.eng = true) : getEng (setEng k y s) k = y :=
  kvGet_kvSet_same h

/-- The others read as before. -/
theorem getEng_setEng_other {i k : Nat} {y : Engine} {s : State} (h : i ≠ k) : getEng (setEng k y s) i = getEng s i :=
  kvGet_kvSet_other h

@[simp] theorem modEng_pending (n : Nat) (f : Engine → Engine) (s : State) : (modEng n f s).pending = s.pending := rfl
@[simp] theorem modEng_now (n : Nat) (f : Engine → Engine) (s : State) : (modEng n f s).now = s.now := rfl
@[simp] theorem modEng_up (n : Nat) (f : Engine → Engine) (s : State) : (modEng n f s).up = s.up := rfl
@[simp] theorem modEng_cat (n : Nat) (f : Engine → Engine) (s : State) : (modEng n f s).cat = s.cat := rfl
@[simp] theorem modEng_log (n : Nat) (f : Engine → Engine) (s : State) : (modEng n f s).log = s.log := rfl
@[simp] theorem modEng_pair (n : Nat) (f : Engine → Engine) (s : State) : (modEng n f s).pair = s.pair := rfl
@[simp] theorem modEng_tile (n : Nat) (f : Engine → Engine) (s : State) : (modEng n f s).tile = s.tile := rfl
@[simp] theorem modEng_time (n : Nat) (f : Engine → Engine) (s : State) : (modEng n f s).time = s.time := rfl
@[simp] theorem modEng_mem (n : Nat) (f : Engine → Engine) (s : State) : (modEng n f s).mem = s.mem := rfl
@[simp] theorem modEng_net (n : Nat) (f : Engine → Engine) (s : State) : (modEng n f s).net = s.net := rfl
@[simp] theorem modEng_xfer (n : Nat) (f : Engine → Engine) (s : State) : (modEng n f s).xfer = s.xfer := rfl
@[simp] theorem modEng_ledger (n : Nat) (f : Engine → Engine) (s : State) : (modEng n f s).ledger = s.ledger := rfl
@[simp] theorem modEng_arch (n : Nat) (f : Engine → Engine) (s : State) : (modEng n f s).arch = s.arch := rfl
@[simp] theorem modEng_ring (n : Nat) (f : Engine → Engine) (s : State) : (modEng n f s).ring = s.ring := rfl
@[simp] theorem modEng_port (n : Nat) (f : Engine → Engine) (s : State) : (modEng n f s).port = s.port := rfl
@[simp] theorem modEng_host (n : Nat) (f : Engine → Engine) (s : State) : (modEng n f s).host = s.host := rfl
@[simp] theorem modEng_pins (n : Nat) (f : Engine → Engine) (s : State) : (modEng n f s).pins = s.pins := rfl
@[simp] theorem modEng_tap (n : Nat) (f : Engine → Engine) (s : State) : (modEng n f s).tap = s.tap := rfl
@[simp] theorem modEng_power (n : Nat) (f : Engine → Engine) (s : State) : (modEng n f s).power = s.power := rfl
@[simp] theorem modEng_boot (n : Nat) (f : Engine → Engine) (s : State) : (modEng n f s).boot = s.boot := rfl
@[simp] theorem modEng_svc (n : Nat) (f : Engine → Engine) (s : State) : (modEng n f s).svc = s.svc := rfl
@[simp] theorem modEng_drawn (n : Nat) (f : Engine → Engine) (s : State) : (modEng n f s).drawn = s.drawn := rfl

/-! ### setPair -/

@[simp] theorem setPair_pending (m : Nat) (p : Pair) (s : State) : (setPair m p s).pending = s.pending := rfl
@[simp] theorem setPair_now (m : Nat) (p : Pair) (s : State) : (setPair m p s).now = s.now := rfl
@[simp] theorem setPair_up (m : Nat) (p : Pair) (s : State) : (setPair m p s).up = s.up := rfl
@[simp] theorem setPair_cat (m : Nat) (p : Pair) (s : State) : (setPair m p s).cat = s.cat := rfl
@[simp] theorem setPair_log (m : Nat) (p : Pair) (s : State) : (setPair m p s).log = s.log := rfl
@[simp] theorem setPair_eng (m : Nat) (p : Pair) (s : State) : (setPair m p s).eng = s.eng := rfl
@[simp] theorem setPair_tile (m : Nat) (p : Pair) (s : State) : (setPair m p s).tile = s.tile := rfl
@[simp] theorem setPair_time (m : Nat) (p : Pair) (s : State) : (setPair m p s).time = s.time := rfl
@[simp] theorem setPair_mem (m : Nat) (p : Pair) (s : State) : (setPair m p s).mem = s.mem := rfl
@[simp] theorem setPair_net (m : Nat) (p : Pair) (s : State) : (setPair m p s).net = s.net := rfl
@[simp] theorem setPair_xfer (m : Nat) (p : Pair) (s : State) : (setPair m p s).xfer = s.xfer := rfl
@[simp] theorem setPair_ledger (m : Nat) (p : Pair) (s : State) : (setPair m p s).ledger = s.ledger := rfl
@[simp] theorem setPair_arch (m : Nat) (p : Pair) (s : State) : (setPair m p s).arch = s.arch := rfl
@[simp] theorem setPair_ring (m : Nat) (p : Pair) (s : State) : (setPair m p s).ring = s.ring := rfl
@[simp] theorem setPair_port (m : Nat) (p : Pair) (s : State) : (setPair m p s).port = s.port := rfl
@[simp] theorem setPair_host (m : Nat) (p : Pair) (s : State) : (setPair m p s).host = s.host := rfl
@[simp] theorem setPair_pins (m : Nat) (p : Pair) (s : State) : (setPair m p s).pins = s.pins := rfl
@[simp] theorem setPair_tap (m : Nat) (p : Pair) (s : State) : (setPair m p s).tap = s.tap := rfl
@[simp] theorem setPair_power (m : Nat) (p : Pair) (s : State) : (setPair m p s).power = s.power := rfl
@[simp] theorem setPair_boot (m : Nat) (p : Pair) (s : State) : (setPair m p s).boot = s.boot := rfl
@[simp] theorem setPair_svc (m : Nat) (p : Pair) (s : State) : (setPair m p s).svc = s.svc := rfl
@[simp] theorem setPair_drawn (m : Nat) (p : Pair) (s : State) : (setPair m p s).drawn = s.drawn := rfl

/-- A part replaced is read back, unless it is what an unlisted one reads as. -/
theorem getPair_setPair_same {k : Nat} {y : Pair} {s : State} (h : y ≠ Pair.fresh) : getPair (setPair k y s) k = y := by
  simp only [getPair, setPair, kvSet, h, if_false]
  exact kvGet_kvPut_same

/-- A part replaced is read back. -/
theorem getPair_setPair_wf {k : Nat} {y : Pair} {s : State} (h : kvWf Pair.fresh s.pair = true) : getPair (setPair k y s) k = y :=
  kvGet_kvSet_same h

/-- The others read as before. -/
theorem getPair_setPair_other {i k : Nat} {y : Pair} {s : State} (h : i ≠ k) : getPair (setPair k y s) i = getPair s i :=
  kvGet_kvSet_other h

@[simp] theorem modPair_pending (m : Nat) (f : Pair → Pair) (s : State) : (modPair m f s).pending = s.pending := rfl
@[simp] theorem modPair_now (m : Nat) (f : Pair → Pair) (s : State) : (modPair m f s).now = s.now := rfl
@[simp] theorem modPair_up (m : Nat) (f : Pair → Pair) (s : State) : (modPair m f s).up = s.up := rfl
@[simp] theorem modPair_cat (m : Nat) (f : Pair → Pair) (s : State) : (modPair m f s).cat = s.cat := rfl
@[simp] theorem modPair_log (m : Nat) (f : Pair → Pair) (s : State) : (modPair m f s).log = s.log := rfl
@[simp] theorem modPair_eng (m : Nat) (f : Pair → Pair) (s : State) : (modPair m f s).eng = s.eng := rfl
@[simp] theorem modPair_tile (m : Nat) (f : Pair → Pair) (s : State) : (modPair m f s).tile = s.tile := rfl
@[simp] theorem modPair_time (m : Nat) (f : Pair → Pair) (s : State) : (modPair m f s).time = s.time := rfl
@[simp] theorem modPair_mem (m : Nat) (f : Pair → Pair) (s : State) : (modPair m f s).mem = s.mem := rfl
@[simp] theorem modPair_net (m : Nat) (f : Pair → Pair) (s : State) : (modPair m f s).net = s.net := rfl
@[simp] theorem modPair_xfer (m : Nat) (f : Pair → Pair) (s : State) : (modPair m f s).xfer = s.xfer := rfl
@[simp] theorem modPair_ledger (m : Nat) (f : Pair → Pair) (s : State) : (modPair m f s).ledger = s.ledger := rfl
@[simp] theorem modPair_arch (m : Nat) (f : Pair → Pair) (s : State) : (modPair m f s).arch = s.arch := rfl
@[simp] theorem modPair_ring (m : Nat) (f : Pair → Pair) (s : State) : (modPair m f s).ring = s.ring := rfl
@[simp] theorem modPair_port (m : Nat) (f : Pair → Pair) (s : State) : (modPair m f s).port = s.port := rfl
@[simp] theorem modPair_host (m : Nat) (f : Pair → Pair) (s : State) : (modPair m f s).host = s.host := rfl
@[simp] theorem modPair_pins (m : Nat) (f : Pair → Pair) (s : State) : (modPair m f s).pins = s.pins := rfl
@[simp] theorem modPair_tap (m : Nat) (f : Pair → Pair) (s : State) : (modPair m f s).tap = s.tap := rfl
@[simp] theorem modPair_power (m : Nat) (f : Pair → Pair) (s : State) : (modPair m f s).power = s.power := rfl
@[simp] theorem modPair_boot (m : Nat) (f : Pair → Pair) (s : State) : (modPair m f s).boot = s.boot := rfl
@[simp] theorem modPair_svc (m : Nat) (f : Pair → Pair) (s : State) : (modPair m f s).svc = s.svc := rfl
@[simp] theorem modPair_drawn (m : Nat) (f : Pair → Pair) (s : State) : (modPair m f s).drawn = s.drawn := rfl

/-! ### setTile -/

@[simp] theorem setTile_pending (t : Nat) (x : Tile) (s : State) : (setTile t x s).pending = s.pending := rfl
@[simp] theorem setTile_now (t : Nat) (x : Tile) (s : State) : (setTile t x s).now = s.now := rfl
@[simp] theorem setTile_up (t : Nat) (x : Tile) (s : State) : (setTile t x s).up = s.up := rfl
@[simp] theorem setTile_cat (t : Nat) (x : Tile) (s : State) : (setTile t x s).cat = s.cat := rfl
@[simp] theorem setTile_log (t : Nat) (x : Tile) (s : State) : (setTile t x s).log = s.log := rfl
@[simp] theorem setTile_eng (t : Nat) (x : Tile) (s : State) : (setTile t x s).eng = s.eng := rfl
@[simp] theorem setTile_pair (t : Nat) (x : Tile) (s : State) : (setTile t x s).pair = s.pair := rfl
@[simp] theorem setTile_time (t : Nat) (x : Tile) (s : State) : (setTile t x s).time = s.time := rfl
@[simp] theorem setTile_mem (t : Nat) (x : Tile) (s : State) : (setTile t x s).mem = s.mem := rfl
@[simp] theorem setTile_net (t : Nat) (x : Tile) (s : State) : (setTile t x s).net = s.net := rfl
@[simp] theorem setTile_xfer (t : Nat) (x : Tile) (s : State) : (setTile t x s).xfer = s.xfer := rfl
@[simp] theorem setTile_ledger (t : Nat) (x : Tile) (s : State) : (setTile t x s).ledger = s.ledger := rfl
@[simp] theorem setTile_arch (t : Nat) (x : Tile) (s : State) : (setTile t x s).arch = s.arch := rfl
@[simp] theorem setTile_ring (t : Nat) (x : Tile) (s : State) : (setTile t x s).ring = s.ring := rfl
@[simp] theorem setTile_port (t : Nat) (x : Tile) (s : State) : (setTile t x s).port = s.port := rfl
@[simp] theorem setTile_host (t : Nat) (x : Tile) (s : State) : (setTile t x s).host = s.host := rfl
@[simp] theorem setTile_pins (t : Nat) (x : Tile) (s : State) : (setTile t x s).pins = s.pins := rfl
@[simp] theorem setTile_tap (t : Nat) (x : Tile) (s : State) : (setTile t x s).tap = s.tap := rfl
@[simp] theorem setTile_power (t : Nat) (x : Tile) (s : State) : (setTile t x s).power = s.power := rfl
@[simp] theorem setTile_boot (t : Nat) (x : Tile) (s : State) : (setTile t x s).boot = s.boot := rfl
@[simp] theorem setTile_svc (t : Nat) (x : Tile) (s : State) : (setTile t x s).svc = s.svc := rfl
@[simp] theorem setTile_drawn (t : Nat) (x : Tile) (s : State) : (setTile t x s).drawn = s.drawn := rfl

/-- A part replaced is read back, unless it is what an unlisted one reads as. -/
theorem getTile_setTile_same {k : Nat} {y : Tile} {s : State} (h : y ≠ Tile.on) : getTile (setTile k y s) k = y := by
  simp only [getTile, setTile, kvSet, h, if_false]
  exact kvGet_kvPut_same

/-- A part replaced is read back. -/
theorem getTile_setTile_wf {k : Nat} {y : Tile} {s : State} (h : kvWf Tile.on s.tile = true) : getTile (setTile k y s) k = y :=
  kvGet_kvSet_same h

/-- The others read as before. -/
theorem getTile_setTile_other {i k : Nat} {y : Tile} {s : State} (h : i ≠ k) : getTile (setTile k y s) i = getTile s i :=
  kvGet_kvSet_other h

@[simp] theorem modTile_pending (t : Nat) (f : Tile → Tile) (s : State) : (modTile t f s).pending = s.pending := rfl
@[simp] theorem modTile_now (t : Nat) (f : Tile → Tile) (s : State) : (modTile t f s).now = s.now := rfl
@[simp] theorem modTile_up (t : Nat) (f : Tile → Tile) (s : State) : (modTile t f s).up = s.up := rfl
@[simp] theorem modTile_cat (t : Nat) (f : Tile → Tile) (s : State) : (modTile t f s).cat = s.cat := rfl
@[simp] theorem modTile_log (t : Nat) (f : Tile → Tile) (s : State) : (modTile t f s).log = s.log := rfl
@[simp] theorem modTile_eng (t : Nat) (f : Tile → Tile) (s : State) : (modTile t f s).eng = s.eng := rfl
@[simp] theorem modTile_pair (t : Nat) (f : Tile → Tile) (s : State) : (modTile t f s).pair = s.pair := rfl
@[simp] theorem modTile_time (t : Nat) (f : Tile → Tile) (s : State) : (modTile t f s).time = s.time := rfl
@[simp] theorem modTile_mem (t : Nat) (f : Tile → Tile) (s : State) : (modTile t f s).mem = s.mem := rfl
@[simp] theorem modTile_net (t : Nat) (f : Tile → Tile) (s : State) : (modTile t f s).net = s.net := rfl
@[simp] theorem modTile_xfer (t : Nat) (f : Tile → Tile) (s : State) : (modTile t f s).xfer = s.xfer := rfl
@[simp] theorem modTile_ledger (t : Nat) (f : Tile → Tile) (s : State) : (modTile t f s).ledger = s.ledger := rfl
@[simp] theorem modTile_arch (t : Nat) (f : Tile → Tile) (s : State) : (modTile t f s).arch = s.arch := rfl
@[simp] theorem modTile_ring (t : Nat) (f : Tile → Tile) (s : State) : (modTile t f s).ring = s.ring := rfl
@[simp] theorem modTile_port (t : Nat) (f : Tile → Tile) (s : State) : (modTile t f s).port = s.port := rfl
@[simp] theorem modTile_host (t : Nat) (f : Tile → Tile) (s : State) : (modTile t f s).host = s.host := rfl
@[simp] theorem modTile_pins (t : Nat) (f : Tile → Tile) (s : State) : (modTile t f s).pins = s.pins := rfl
@[simp] theorem modTile_tap (t : Nat) (f : Tile → Tile) (s : State) : (modTile t f s).tap = s.tap := rfl
@[simp] theorem modTile_power (t : Nat) (f : Tile → Tile) (s : State) : (modTile t f s).power = s.power := rfl
@[simp] theorem modTile_boot (t : Nat) (f : Tile → Tile) (s : State) : (modTile t f s).boot = s.boot := rfl
@[simp] theorem modTile_svc (t : Nat) (f : Tile → Tile) (s : State) : (modTile t f s).svc = s.svc := rfl
@[simp] theorem modTile_drawn (t : Nat) (f : Tile → Tile) (s : State) : (modTile t f s).drawn = s.drawn := rfl

/-! ### setRing -/

@[simp] theorem setRing_pending (r : Nat) (x : RingSt) (s : State) : (setRing r x s).pending = s.pending := rfl
@[simp] theorem setRing_now (r : Nat) (x : RingSt) (s : State) : (setRing r x s).now = s.now := rfl
@[simp] theorem setRing_up (r : Nat) (x : RingSt) (s : State) : (setRing r x s).up = s.up := rfl
@[simp] theorem setRing_cat (r : Nat) (x : RingSt) (s : State) : (setRing r x s).cat = s.cat := rfl
@[simp] theorem setRing_log (r : Nat) (x : RingSt) (s : State) : (setRing r x s).log = s.log := rfl
@[simp] theorem setRing_eng (r : Nat) (x : RingSt) (s : State) : (setRing r x s).eng = s.eng := rfl
@[simp] theorem setRing_pair (r : Nat) (x : RingSt) (s : State) : (setRing r x s).pair = s.pair := rfl
@[simp] theorem setRing_tile (r : Nat) (x : RingSt) (s : State) : (setRing r x s).tile = s.tile := rfl
@[simp] theorem setRing_time (r : Nat) (x : RingSt) (s : State) : (setRing r x s).time = s.time := rfl
@[simp] theorem setRing_mem (r : Nat) (x : RingSt) (s : State) : (setRing r x s).mem = s.mem := rfl
@[simp] theorem setRing_net (r : Nat) (x : RingSt) (s : State) : (setRing r x s).net = s.net := rfl
@[simp] theorem setRing_xfer (r : Nat) (x : RingSt) (s : State) : (setRing r x s).xfer = s.xfer := rfl
@[simp] theorem setRing_ledger (r : Nat) (x : RingSt) (s : State) : (setRing r x s).ledger = s.ledger := rfl
@[simp] theorem setRing_arch (r : Nat) (x : RingSt) (s : State) : (setRing r x s).arch = s.arch := rfl
@[simp] theorem setRing_port (r : Nat) (x : RingSt) (s : State) : (setRing r x s).port = s.port := rfl
@[simp] theorem setRing_host (r : Nat) (x : RingSt) (s : State) : (setRing r x s).host = s.host := rfl
@[simp] theorem setRing_pins (r : Nat) (x : RingSt) (s : State) : (setRing r x s).pins = s.pins := rfl
@[simp] theorem setRing_tap (r : Nat) (x : RingSt) (s : State) : (setRing r x s).tap = s.tap := rfl
@[simp] theorem setRing_power (r : Nat) (x : RingSt) (s : State) : (setRing r x s).power = s.power := rfl
@[simp] theorem setRing_boot (r : Nat) (x : RingSt) (s : State) : (setRing r x s).boot = s.boot := rfl
@[simp] theorem setRing_svc (r : Nat) (x : RingSt) (s : State) : (setRing r x s).svc = s.svc := rfl
@[simp] theorem setRing_drawn (r : Nat) (x : RingSt) (s : State) : (setRing r x s).drawn = s.drawn := rfl

/-- A part replaced is read back, unless it is what an unlisted one reads as. -/
theorem getRing_setRing_same {k : Nat} {y : RingSt} {s : State} (h : y ≠ RingSt.off) : getRing (setRing k y s) k = y := by
  simp only [getRing, setRing, kvSet, h, if_false]
  exact kvGet_kvPut_same

/-- A part replaced is read back. -/
theorem getRing_setRing_wf {k : Nat} {y : RingSt} {s : State} (h : kvWf RingSt.off s.ring = true) : getRing (setRing k y s) k = y :=
  kvGet_kvSet_same h

/-- The others read as before. -/
theorem getRing_setRing_other {i k : Nat} {y : RingSt} {s : State} (h : i ≠ k) : getRing (setRing k y s) i = getRing s i :=
  kvGet_kvSet_other h

@[simp] theorem modRing_pending (r : Nat) (f : RingSt → RingSt) (s : State) : (modRing r f s).pending = s.pending := rfl
@[simp] theorem modRing_now (r : Nat) (f : RingSt → RingSt) (s : State) : (modRing r f s).now = s.now := rfl
@[simp] theorem modRing_up (r : Nat) (f : RingSt → RingSt) (s : State) : (modRing r f s).up = s.up := rfl
@[simp] theorem modRing_cat (r : Nat) (f : RingSt → RingSt) (s : State) : (modRing r f s).cat = s.cat := rfl
@[simp] theorem modRing_log (r : Nat) (f : RingSt → RingSt) (s : State) : (modRing r f s).log = s.log := rfl
@[simp] theorem modRing_eng (r : Nat) (f : RingSt → RingSt) (s : State) : (modRing r f s).eng = s.eng := rfl
@[simp] theorem modRing_pair (r : Nat) (f : RingSt → RingSt) (s : State) : (modRing r f s).pair = s.pair := rfl
@[simp] theorem modRing_tile (r : Nat) (f : RingSt → RingSt) (s : State) : (modRing r f s).tile = s.tile := rfl
@[simp] theorem modRing_time (r : Nat) (f : RingSt → RingSt) (s : State) : (modRing r f s).time = s.time := rfl
@[simp] theorem modRing_mem (r : Nat) (f : RingSt → RingSt) (s : State) : (modRing r f s).mem = s.mem := rfl
@[simp] theorem modRing_net (r : Nat) (f : RingSt → RingSt) (s : State) : (modRing r f s).net = s.net := rfl
@[simp] theorem modRing_xfer (r : Nat) (f : RingSt → RingSt) (s : State) : (modRing r f s).xfer = s.xfer := rfl
@[simp] theorem modRing_ledger (r : Nat) (f : RingSt → RingSt) (s : State) : (modRing r f s).ledger = s.ledger := rfl
@[simp] theorem modRing_arch (r : Nat) (f : RingSt → RingSt) (s : State) : (modRing r f s).arch = s.arch := rfl
@[simp] theorem modRing_port (r : Nat) (f : RingSt → RingSt) (s : State) : (modRing r f s).port = s.port := rfl
@[simp] theorem modRing_host (r : Nat) (f : RingSt → RingSt) (s : State) : (modRing r f s).host = s.host := rfl
@[simp] theorem modRing_pins (r : Nat) (f : RingSt → RingSt) (s : State) : (modRing r f s).pins = s.pins := rfl
@[simp] theorem modRing_tap (r : Nat) (f : RingSt → RingSt) (s : State) : (modRing r f s).tap = s.tap := rfl
@[simp] theorem modRing_power (r : Nat) (f : RingSt → RingSt) (s : State) : (modRing r f s).power = s.power := rfl
@[simp] theorem modRing_boot (r : Nat) (f : RingSt → RingSt) (s : State) : (modRing r f s).boot = s.boot := rfl
@[simp] theorem modRing_svc (r : Nat) (f : RingSt → RingSt) (s : State) : (modRing r f s).svc = s.svc := rfl
@[simp] theorem modRing_drawn (r : Nat) (f : RingSt → RingSt) (s : State) : (modRing r f s).drawn = s.drawn := rfl

/-! ### setPort -/

@[simp] theorem setPort_pending (q : Nat) (x : PortSt) (s : State) : (setPort q x s).pending = s.pending := rfl
@[simp] theorem setPort_now (q : Nat) (x : PortSt) (s : State) : (setPort q x s).now = s.now := rfl
@[simp] theorem setPort_up (q : Nat) (x : PortSt) (s : State) : (setPort q x s).up = s.up := rfl
@[simp] theorem setPort_cat (q : Nat) (x : PortSt) (s : State) : (setPort q x s).cat = s.cat := rfl
@[simp] theorem setPort_log (q : Nat) (x : PortSt) (s : State) : (setPort q x s).log = s.log := rfl
@[simp] theorem setPort_eng (q : Nat) (x : PortSt) (s : State) : (setPort q x s).eng = s.eng := rfl
@[simp] theorem setPort_pair (q : Nat) (x : PortSt) (s : State) : (setPort q x s).pair = s.pair := rfl
@[simp] theorem setPort_tile (q : Nat) (x : PortSt) (s : State) : (setPort q x s).tile = s.tile := rfl
@[simp] theorem setPort_time (q : Nat) (x : PortSt) (s : State) : (setPort q x s).time = s.time := rfl
@[simp] theorem setPort_mem (q : Nat) (x : PortSt) (s : State) : (setPort q x s).mem = s.mem := rfl
@[simp] theorem setPort_net (q : Nat) (x : PortSt) (s : State) : (setPort q x s).net = s.net := rfl
@[simp] theorem setPort_xfer (q : Nat) (x : PortSt) (s : State) : (setPort q x s).xfer = s.xfer := rfl
@[simp] theorem setPort_ledger (q : Nat) (x : PortSt) (s : State) : (setPort q x s).ledger = s.ledger := rfl
@[simp] theorem setPort_arch (q : Nat) (x : PortSt) (s : State) : (setPort q x s).arch = s.arch := rfl
@[simp] theorem setPort_ring (q : Nat) (x : PortSt) (s : State) : (setPort q x s).ring = s.ring := rfl
@[simp] theorem setPort_host (q : Nat) (x : PortSt) (s : State) : (setPort q x s).host = s.host := rfl
@[simp] theorem setPort_pins (q : Nat) (x : PortSt) (s : State) : (setPort q x s).pins = s.pins := rfl
@[simp] theorem setPort_tap (q : Nat) (x : PortSt) (s : State) : (setPort q x s).tap = s.tap := rfl
@[simp] theorem setPort_power (q : Nat) (x : PortSt) (s : State) : (setPort q x s).power = s.power := rfl
@[simp] theorem setPort_boot (q : Nat) (x : PortSt) (s : State) : (setPort q x s).boot = s.boot := rfl
@[simp] theorem setPort_svc (q : Nat) (x : PortSt) (s : State) : (setPort q x s).svc = s.svc := rfl
@[simp] theorem setPort_drawn (q : Nat) (x : PortSt) (s : State) : (setPort q x s).drawn = s.drawn := rfl

/-- A part replaced is read back, unless it is what an unlisted one reads as. -/
theorem getPort_setPort_same {k : Nat} {y : PortSt} {s : State} (h : y ≠ PortSt.down) : getPort (setPort k y s) k = y := by
  simp only [getPort, setPort, kvSet, h, if_false]
  exact kvGet_kvPut_same

/-- A part replaced is read back. -/
theorem getPort_setPort_wf {k : Nat} {y : PortSt} {s : State} (h : kvWf PortSt.down s.port = true) : getPort (setPort k y s) k = y :=
  kvGet_kvSet_same h

/-- The others read as before. -/
theorem getPort_setPort_other {i k : Nat} {y : PortSt} {s : State} (h : i ≠ k) : getPort (setPort k y s) i = getPort s i :=
  kvGet_kvSet_other h

@[simp] theorem modPort_pending (q : Nat) (f : PortSt → PortSt) (s : State) : (modPort q f s).pending = s.pending := rfl
@[simp] theorem modPort_now (q : Nat) (f : PortSt → PortSt) (s : State) : (modPort q f s).now = s.now := rfl
@[simp] theorem modPort_up (q : Nat) (f : PortSt → PortSt) (s : State) : (modPort q f s).up = s.up := rfl
@[simp] theorem modPort_cat (q : Nat) (f : PortSt → PortSt) (s : State) : (modPort q f s).cat = s.cat := rfl
@[simp] theorem modPort_log (q : Nat) (f : PortSt → PortSt) (s : State) : (modPort q f s).log = s.log := rfl
@[simp] theorem modPort_eng (q : Nat) (f : PortSt → PortSt) (s : State) : (modPort q f s).eng = s.eng := rfl
@[simp] theorem modPort_pair (q : Nat) (f : PortSt → PortSt) (s : State) : (modPort q f s).pair = s.pair := rfl
@[simp] theorem modPort_tile (q : Nat) (f : PortSt → PortSt) (s : State) : (modPort q f s).tile = s.tile := rfl
@[simp] theorem modPort_time (q : Nat) (f : PortSt → PortSt) (s : State) : (modPort q f s).time = s.time := rfl
@[simp] theorem modPort_mem (q : Nat) (f : PortSt → PortSt) (s : State) : (modPort q f s).mem = s.mem := rfl
@[simp] theorem modPort_net (q : Nat) (f : PortSt → PortSt) (s : State) : (modPort q f s).net = s.net := rfl
@[simp] theorem modPort_xfer (q : Nat) (f : PortSt → PortSt) (s : State) : (modPort q f s).xfer = s.xfer := rfl
@[simp] theorem modPort_ledger (q : Nat) (f : PortSt → PortSt) (s : State) : (modPort q f s).ledger = s.ledger := rfl
@[simp] theorem modPort_arch (q : Nat) (f : PortSt → PortSt) (s : State) : (modPort q f s).arch = s.arch := rfl
@[simp] theorem modPort_ring (q : Nat) (f : PortSt → PortSt) (s : State) : (modPort q f s).ring = s.ring := rfl
@[simp] theorem modPort_host (q : Nat) (f : PortSt → PortSt) (s : State) : (modPort q f s).host = s.host := rfl
@[simp] theorem modPort_pins (q : Nat) (f : PortSt → PortSt) (s : State) : (modPort q f s).pins = s.pins := rfl
@[simp] theorem modPort_tap (q : Nat) (f : PortSt → PortSt) (s : State) : (modPort q f s).tap = s.tap := rfl
@[simp] theorem modPort_power (q : Nat) (f : PortSt → PortSt) (s : State) : (modPort q f s).power = s.power := rfl
@[simp] theorem modPort_boot (q : Nat) (f : PortSt → PortSt) (s : State) : (modPort q f s).boot = s.boot := rfl
@[simp] theorem modPort_svc (q : Nat) (f : PortSt → PortSt) (s : State) : (modPort q f s).svc = s.svc := rfl
@[simp] theorem modPort_drawn (q : Nat) (f : PortSt → PortSt) (s : State) : (modPort q f s).drawn = s.drawn := rfl

/-! ### setChan -/

@[simp] theorem setChan_pending (c : Nat) (x : XfCh) (s : State) : (setChan c x s).pending = s.pending := rfl
@[simp] theorem setChan_now (c : Nat) (x : XfCh) (s : State) : (setChan c x s).now = s.now := rfl
@[simp] theorem setChan_up (c : Nat) (x : XfCh) (s : State) : (setChan c x s).up = s.up := rfl
@[simp] theorem setChan_cat (c : Nat) (x : XfCh) (s : State) : (setChan c x s).cat = s.cat := rfl
@[simp] theorem setChan_log (c : Nat) (x : XfCh) (s : State) : (setChan c x s).log = s.log := rfl
@[simp] theorem setChan_eng (c : Nat) (x : XfCh) (s : State) : (setChan c x s).eng = s.eng := rfl
@[simp] theorem setChan_pair (c : Nat) (x : XfCh) (s : State) : (setChan c x s).pair = s.pair := rfl
@[simp] theorem setChan_tile (c : Nat) (x : XfCh) (s : State) : (setChan c x s).tile = s.tile := rfl
@[simp] theorem setChan_time (c : Nat) (x : XfCh) (s : State) : (setChan c x s).time = s.time := rfl
@[simp] theorem setChan_mem (c : Nat) (x : XfCh) (s : State) : (setChan c x s).mem = s.mem := rfl
@[simp] theorem setChan_net (c : Nat) (x : XfCh) (s : State) : (setChan c x s).net = s.net := rfl
@[simp] theorem setChan_ledger (c : Nat) (x : XfCh) (s : State) : (setChan c x s).ledger = s.ledger := rfl
@[simp] theorem setChan_arch (c : Nat) (x : XfCh) (s : State) : (setChan c x s).arch = s.arch := rfl
@[simp] theorem setChan_ring (c : Nat) (x : XfCh) (s : State) : (setChan c x s).ring = s.ring := rfl
@[simp] theorem setChan_port (c : Nat) (x : XfCh) (s : State) : (setChan c x s).port = s.port := rfl
@[simp] theorem setChan_host (c : Nat) (x : XfCh) (s : State) : (setChan c x s).host = s.host := rfl
@[simp] theorem setChan_pins (c : Nat) (x : XfCh) (s : State) : (setChan c x s).pins = s.pins := rfl
@[simp] theorem setChan_tap (c : Nat) (x : XfCh) (s : State) : (setChan c x s).tap = s.tap := rfl
@[simp] theorem setChan_power (c : Nat) (x : XfCh) (s : State) : (setChan c x s).power = s.power := rfl
@[simp] theorem setChan_boot (c : Nat) (x : XfCh) (s : State) : (setChan c x s).boot = s.boot := rfl
@[simp] theorem setChan_svc (c : Nat) (x : XfCh) (s : State) : (setChan c x s).svc = s.svc := rfl
@[simp] theorem setChan_drawn (c : Nat) (x : XfCh) (s : State) : (setChan c x s).drawn = s.drawn := rfl

/-- A part replaced is read back, unless it is what an unlisted one reads as. -/
theorem getChan_setChan_same {k : Nat} {y : XfCh} {s : State} (h : y ≠ XfCh.idle) : getChan (setChan k y s) k = y := by
  simp only [getChan, setChan, kvSet, h, if_false]
  exact kvGet_kvPut_same

/-- A part replaced is read back. -/
theorem getChan_setChan_wf {k : Nat} {y : XfCh} {s : State} (h : kvWf XfCh.idle s.xfer.chans = true) : getChan (setChan k y s) k = y :=
  kvGet_kvSet_same h

/-- The others read as before. -/
theorem getChan_setChan_other {i k : Nat} {y : XfCh} {s : State} (h : i ≠ k) : getChan (setChan k y s) i = getChan s i :=
  kvGet_kvSet_other h

/-! ### setPin -/

@[simp] theorem setPin_pending (p : Nat) (x : PinSt) (s : State) : (setPin p x s).pending = s.pending := rfl
@[simp] theorem setPin_now (p : Nat) (x : PinSt) (s : State) : (setPin p x s).now = s.now := rfl
@[simp] theorem setPin_up (p : Nat) (x : PinSt) (s : State) : (setPin p x s).up = s.up := rfl
@[simp] theorem setPin_cat (p : Nat) (x : PinSt) (s : State) : (setPin p x s).cat = s.cat := rfl
@[simp] theorem setPin_log (p : Nat) (x : PinSt) (s : State) : (setPin p x s).log = s.log := rfl
@[simp] theorem setPin_eng (p : Nat) (x : PinSt) (s : State) : (setPin p x s).eng = s.eng := rfl
@[simp] theorem setPin_pair (p : Nat) (x : PinSt) (s : State) : (setPin p x s).pair = s.pair := rfl
@[simp] theorem setPin_tile (p : Nat) (x : PinSt) (s : State) : (setPin p x s).tile = s.tile := rfl
@[simp] theorem setPin_time (p : Nat) (x : PinSt) (s : State) : (setPin p x s).time = s.time := rfl
@[simp] theorem setPin_mem (p : Nat) (x : PinSt) (s : State) : (setPin p x s).mem = s.mem := rfl
@[simp] theorem setPin_net (p : Nat) (x : PinSt) (s : State) : (setPin p x s).net = s.net := rfl
@[simp] theorem setPin_xfer (p : Nat) (x : PinSt) (s : State) : (setPin p x s).xfer = s.xfer := rfl
@[simp] theorem setPin_ledger (p : Nat) (x : PinSt) (s : State) : (setPin p x s).ledger = s.ledger := rfl
@[simp] theorem setPin_arch (p : Nat) (x : PinSt) (s : State) : (setPin p x s).arch = s.arch := rfl
@[simp] theorem setPin_ring (p : Nat) (x : PinSt) (s : State) : (setPin p x s).ring = s.ring := rfl
@[simp] theorem setPin_port (p : Nat) (x : PinSt) (s : State) : (setPin p x s).port = s.port := rfl
@[simp] theorem setPin_host (p : Nat) (x : PinSt) (s : State) : (setPin p x s).host = s.host := rfl
@[simp] theorem setPin_tap (p : Nat) (x : PinSt) (s : State) : (setPin p x s).tap = s.tap := rfl
@[simp] theorem setPin_power (p : Nat) (x : PinSt) (s : State) : (setPin p x s).power = s.power := rfl
@[simp] theorem setPin_boot (p : Nat) (x : PinSt) (s : State) : (setPin p x s).boot = s.boot := rfl
@[simp] theorem setPin_svc (p : Nat) (x : PinSt) (s : State) : (setPin p x s).svc = s.svc := rfl
@[simp] theorem setPin_drawn (p : Nat) (x : PinSt) (s : State) : (setPin p x s).drawn = s.drawn := rfl

/-- A part replaced is read back, unless it is what an unlisted one reads as. -/
theorem getPin_setPin_same {k : Nat} {y : PinSt} {s : State} (h : y ≠ PinSt.idle) : getPin (setPin k y s) k = y := by
  simp only [getPin, setPin, kvSet, h, if_false]
  exact kvGet_kvPut_same

/-- A part replaced is read back. -/
theorem getPin_setPin_wf {k : Nat} {y : PinSt} {s : State} (h : kvWf PinSt.idle s.pins.tio = true) : getPin (setPin k y s) k = y :=
  kvGet_kvSet_same h

/-- The others read as before. -/
theorem getPin_setPin_other {i k : Nat} {y : PinSt} {s : State} (h : i ≠ k) : getPin (setPin k y s) i = getPin s i :=
  kvGet_kvSet_other h

/-! ### setCap -/

@[simp] theorem setCap_pending (q : Nat) (x : CapQ) (s : State) : (setCap q x s).pending = s.pending := rfl
@[simp] theorem setCap_now (q : Nat) (x : CapQ) (s : State) : (setCap q x s).now = s.now := rfl
@[simp] theorem setCap_up (q : Nat) (x : CapQ) (s : State) : (setCap q x s).up = s.up := rfl
@[simp] theorem setCap_cat (q : Nat) (x : CapQ) (s : State) : (setCap q x s).cat = s.cat := rfl
@[simp] theorem setCap_log (q : Nat) (x : CapQ) (s : State) : (setCap q x s).log = s.log := rfl
@[simp] theorem setCap_eng (q : Nat) (x : CapQ) (s : State) : (setCap q x s).eng = s.eng := rfl
@[simp] theorem setCap_pair (q : Nat) (x : CapQ) (s : State) : (setCap q x s).pair = s.pair := rfl
@[simp] theorem setCap_tile (q : Nat) (x : CapQ) (s : State) : (setCap q x s).tile = s.tile := rfl
@[simp] theorem setCap_time (q : Nat) (x : CapQ) (s : State) : (setCap q x s).time = s.time := rfl
@[simp] theorem setCap_mem (q : Nat) (x : CapQ) (s : State) : (setCap q x s).mem = s.mem := rfl
@[simp] theorem setCap_xfer (q : Nat) (x : CapQ) (s : State) : (setCap q x s).xfer = s.xfer := rfl
@[simp] theorem setCap_ledger (q : Nat) (x : CapQ) (s : State) : (setCap q x s).ledger = s.ledger := rfl
@[simp] theorem setCap_arch (q : Nat) (x : CapQ) (s : State) : (setCap q x s).arch = s.arch := rfl
@[simp] theorem setCap_ring (q : Nat) (x : CapQ) (s : State) : (setCap q x s).ring = s.ring := rfl
@[simp] theorem setCap_port (q : Nat) (x : CapQ) (s : State) : (setCap q x s).port = s.port := rfl
@[simp] theorem setCap_host (q : Nat) (x : CapQ) (s : State) : (setCap q x s).host = s.host := rfl
@[simp] theorem setCap_pins (q : Nat) (x : CapQ) (s : State) : (setCap q x s).pins = s.pins := rfl
@[simp] theorem setCap_tap (q : Nat) (x : CapQ) (s : State) : (setCap q x s).tap = s.tap := rfl
@[simp] theorem setCap_power (q : Nat) (x : CapQ) (s : State) : (setCap q x s).power = s.power := rfl
@[simp] theorem setCap_boot (q : Nat) (x : CapQ) (s : State) : (setCap q x s).boot = s.boot := rfl
@[simp] theorem setCap_svc (q : Nat) (x : CapQ) (s : State) : (setCap q x s).svc = s.svc := rfl
@[simp] theorem setCap_drawn (q : Nat) (x : CapQ) (s : State) : (setCap q x s).drawn = s.drawn := rfl

/-- A part replaced is read back, unless it is what an unlisted one reads as. -/
theorem getCap_setCap_same {k : Nat} {y : CapQ} {s : State} (h : y ≠ CapQ.empty) : getCap (setCap k y s) k = y := by
  simp only [getCap, setCap, kvSet, h, if_false]
  exact kvGet_kvPut_same

/-- A part replaced is read back. -/
theorem getCap_setCap_wf {k : Nat} {y : CapQ} {s : State} (h : kvWf CapQ.empty s.net.caps = true) : getCap (setCap k y s) k = y :=
  kvGet_kvSet_same h

/-- The others read as before. -/
theorem getCap_setCap_other {i k : Nat} {y : CapQ} {s : State} (h : i ≠ k) : getCap (setCap k y s) i = getCap s i :=
  kvGet_kvSet_other h

/-! ### setJob -/

@[simp] theorem setJob_pending (j : Nat) (x : Job) (s : State) : (setJob j x s).pending = s.pending := rfl
@[simp] theorem setJob_now (j : Nat) (x : Job) (s : State) : (setJob j x s).now = s.now := rfl
@[simp] theorem setJob_up (j : Nat) (x : Job) (s : State) : (setJob j x s).up = s.up := rfl
@[simp] theorem setJob_cat (j : Nat) (x : Job) (s : State) : (setJob j x s).cat = s.cat := rfl
@[simp] theorem setJob_log (j : Nat) (x : Job) (s : State) : (setJob j x s).log = s.log := rfl
@[simp] theorem setJob_eng (j : Nat) (x : Job) (s : State) : (setJob j x s).eng = s.eng := rfl
@[simp] theorem setJob_pair (j : Nat) (x : Job) (s : State) : (setJob j x s).pair = s.pair := rfl
@[simp] theorem setJob_tile (j : Nat) (x : Job) (s : State) : (setJob j x s).tile = s.tile := rfl
@[simp] theorem setJob_time (j : Nat) (x : Job) (s : State) : (setJob j x s).time = s.time := rfl
@[simp] theorem setJob_mem (j : Nat) (x : Job) (s : State) : (setJob j x s).mem = s.mem := rfl
@[simp] theorem setJob_net (j : Nat) (x : Job) (s : State) : (setJob j x s).net = s.net := rfl
@[simp] theorem setJob_xfer (j : Nat) (x : Job) (s : State) : (setJob j x s).xfer = s.xfer := rfl
@[simp] theorem setJob_ledger (j : Nat) (x : Job) (s : State) : (setJob j x s).ledger = s.ledger := rfl
@[simp] theorem setJob_arch (j : Nat) (x : Job) (s : State) : (setJob j x s).arch = s.arch := rfl
@[simp] theorem setJob_ring (j : Nat) (x : Job) (s : State) : (setJob j x s).ring = s.ring := rfl
@[simp] theorem setJob_port (j : Nat) (x : Job) (s : State) : (setJob j x s).port = s.port := rfl
@[simp] theorem setJob_host (j : Nat) (x : Job) (s : State) : (setJob j x s).host = s.host := rfl
@[simp] theorem setJob_pins (j : Nat) (x : Job) (s : State) : (setJob j x s).pins = s.pins := rfl
@[simp] theorem setJob_tap (j : Nat) (x : Job) (s : State) : (setJob j x s).tap = s.tap := rfl
@[simp] theorem setJob_power (j : Nat) (x : Job) (s : State) : (setJob j x s).power = s.power := rfl
@[simp] theorem setJob_boot (j : Nat) (x : Job) (s : State) : (setJob j x s).boot = s.boot := rfl
@[simp] theorem setJob_drawn (j : Nat) (x : Job) (s : State) : (setJob j x s).drawn = s.drawn := rfl

/-- A part replaced is read back, unless it is what an unlisted one reads as. -/
theorem getJob_setJob_same {k : Nat} {y : Job} {s : State} (h : y ≠ Job.free) : getJob (setJob k y s) k = y := by
  simp only [getJob, setJob, kvSet, h, if_false]
  exact kvGet_kvPut_same

/-- A part replaced is read back. -/
theorem getJob_setJob_wf {k : Nat} {y : Job} {s : State} (h : kvWf Job.free s.svc.jobs = true) : getJob (setJob k y s) k = y :=
  kvGet_kvSet_same h

/-- The others read as before. -/
theorem getJob_setJob_other {i k : Nat} {y : Job} {s : State} (h : i ≠ k) : getJob (setJob k y s) i = getJob s i :=
  kvGet_kvSet_other h

/-! ### Entry values -/

@[simp] theorem valPut_pending (call v : Nat) (s : State) : (valPut call v s).pending = s.pending := rfl
@[simp] theorem valPut_now (call v : Nat) (s : State) : (valPut call v s).now = s.now := rfl
@[simp] theorem valPut_up (call v : Nat) (s : State) : (valPut call v s).up = s.up := rfl
@[simp] theorem valPut_log (call v : Nat) (s : State) : (valPut call v s).log = s.log := rfl
@[simp] theorem valPut_eng (call v : Nat) (s : State) : (valPut call v s).eng = s.eng := rfl
@[simp] theorem valPut_pair (call v : Nat) (s : State) : (valPut call v s).pair = s.pair := rfl
@[simp] theorem valPut_tile (call v : Nat) (s : State) : (valPut call v s).tile = s.tile := rfl
@[simp] theorem valPut_time (call v : Nat) (s : State) : (valPut call v s).time = s.time := rfl
@[simp] theorem valPut_mem (call v : Nat) (s : State) : (valPut call v s).mem = s.mem := rfl
@[simp] theorem valPut_net (call v : Nat) (s : State) : (valPut call v s).net = s.net := rfl
@[simp] theorem valPut_xfer (call v : Nat) (s : State) : (valPut call v s).xfer = s.xfer := rfl
@[simp] theorem valPut_ledger (call v : Nat) (s : State) : (valPut call v s).ledger = s.ledger := rfl
@[simp] theorem valPut_arch (call v : Nat) (s : State) : (valPut call v s).arch = s.arch := rfl
@[simp] theorem valPut_ring (call v : Nat) (s : State) : (valPut call v s).ring = s.ring := rfl
@[simp] theorem valPut_port (call v : Nat) (s : State) : (valPut call v s).port = s.port := rfl
@[simp] theorem valPut_host (call v : Nat) (s : State) : (valPut call v s).host = s.host := rfl
@[simp] theorem valPut_pins (call v : Nat) (s : State) : (valPut call v s).pins = s.pins := rfl
@[simp] theorem valPut_tap (call v : Nat) (s : State) : (valPut call v s).tap = s.tap := rfl
@[simp] theorem valPut_power (call v : Nat) (s : State) : (valPut call v s).power = s.power := rfl
@[simp] theorem valPut_boot (call v : Nat) (s : State) : (valPut call v s).boot = s.boot := rfl
@[simp] theorem valPut_svc (call v : Nat) (s : State) : (valPut call v s).svc = s.svc := rfl
@[simp] theorem valPut_drawn (call v : Nat) (s : State) : (valPut call v s).drawn = s.drawn := rfl

@[simp] theorem longPut_pending (call : Nat) (v : List Byte) (s : State) : (longPut call v s).pending = s.pending := rfl
@[simp] theorem longPut_now (call : Nat) (v : List Byte) (s : State) : (longPut call v s).now = s.now := rfl
@[simp] theorem longPut_up (call : Nat) (v : List Byte) (s : State) : (longPut call v s).up = s.up := rfl
@[simp] theorem longPut_log (call : Nat) (v : List Byte) (s : State) : (longPut call v s).log = s.log := rfl
@[simp] theorem longPut_eng (call : Nat) (v : List Byte) (s : State) : (longPut call v s).eng = s.eng := rfl
@[simp] theorem longPut_pair (call : Nat) (v : List Byte) (s : State) : (longPut call v s).pair = s.pair := rfl
@[simp] theorem longPut_tile (call : Nat) (v : List Byte) (s : State) : (longPut call v s).tile = s.tile := rfl
@[simp] theorem longPut_time (call : Nat) (v : List Byte) (s : State) : (longPut call v s).time = s.time := rfl
@[simp] theorem longPut_mem (call : Nat) (v : List Byte) (s : State) : (longPut call v s).mem = s.mem := rfl
@[simp] theorem longPut_net (call : Nat) (v : List Byte) (s : State) : (longPut call v s).net = s.net := rfl
@[simp] theorem longPut_xfer (call : Nat) (v : List Byte) (s : State) : (longPut call v s).xfer = s.xfer := rfl
@[simp] theorem longPut_ledger (call : Nat) (v : List Byte) (s : State) : (longPut call v s).ledger = s.ledger := rfl
@[simp] theorem longPut_arch (call : Nat) (v : List Byte) (s : State) : (longPut call v s).arch = s.arch := rfl
@[simp] theorem longPut_ring (call : Nat) (v : List Byte) (s : State) : (longPut call v s).ring = s.ring := rfl
@[simp] theorem longPut_port (call : Nat) (v : List Byte) (s : State) : (longPut call v s).port = s.port := rfl
@[simp] theorem longPut_host (call : Nat) (v : List Byte) (s : State) : (longPut call v s).host = s.host := rfl
@[simp] theorem longPut_pins (call : Nat) (v : List Byte) (s : State) : (longPut call v s).pins = s.pins := rfl
@[simp] theorem longPut_tap (call : Nat) (v : List Byte) (s : State) : (longPut call v s).tap = s.tap := rfl
@[simp] theorem longPut_power (call : Nat) (v : List Byte) (s : State) : (longPut call v s).power = s.power := rfl
@[simp] theorem longPut_boot (call : Nat) (v : List Byte) (s : State) : (longPut call v s).boot = s.boot := rfl
@[simp] theorem longPut_svc (call : Nat) (v : List Byte) (s : State) : (longPut call v s).svc = s.svc := rfl
@[simp] theorem longPut_drawn (call : Nat) (v : List Byte) (s : State) : (longPut call v s).drawn = s.drawn := rfl

@[simp] theorem bump_pending (call n w : Nat) (s : State) : (bump call n w s).pending = s.pending := rfl
@[simp] theorem bump_now (call n w : Nat) (s : State) : (bump call n w s).now = s.now := rfl
@[simp] theorem bump_up (call n w : Nat) (s : State) : (bump call n w s).up = s.up := rfl
@[simp] theorem bump_log (call n w : Nat) (s : State) : (bump call n w s).log = s.log := rfl
@[simp] theorem bump_eng (call n w : Nat) (s : State) : (bump call n w s).eng = s.eng := rfl
@[simp] theorem bump_pair (call n w : Nat) (s : State) : (bump call n w s).pair = s.pair := rfl
@[simp] theorem bump_tile (call n w : Nat) (s : State) : (bump call n w s).tile = s.tile := rfl
@[simp] theorem bump_time (call n w : Nat) (s : State) : (bump call n w s).time = s.time := rfl
@[simp] theorem bump_mem (call n w : Nat) (s : State) : (bump call n w s).mem = s.mem := rfl
@[simp] theorem bump_net (call n w : Nat) (s : State) : (bump call n w s).net = s.net := rfl
@[simp] theorem bump_xfer (call n w : Nat) (s : State) : (bump call n w s).xfer = s.xfer := rfl
@[simp] theorem bump_ledger (call n w : Nat) (s : State) : (bump call n w s).ledger = s.ledger := rfl
@[simp] theorem bump_arch (call n w : Nat) (s : State) : (bump call n w s).arch = s.arch := rfl
@[simp] theorem bump_ring (call n w : Nat) (s : State) : (bump call n w s).ring = s.ring := rfl
@[simp] theorem bump_port (call n w : Nat) (s : State) : (bump call n w s).port = s.port := rfl
@[simp] theorem bump_host (call n w : Nat) (s : State) : (bump call n w s).host = s.host := rfl
@[simp] theorem bump_pins (call n w : Nat) (s : State) : (bump call n w s).pins = s.pins := rfl
@[simp] theorem bump_tap (call n w : Nat) (s : State) : (bump call n w s).tap = s.tap := rfl
@[simp] theorem bump_power (call n w : Nat) (s : State) : (bump call n w s).power = s.power := rfl
@[simp] theorem bump_boot (call n w : Nat) (s : State) : (bump call n w s).boot = s.boot := rfl
@[simp] theorem bump_svc (call n w : Nat) (s : State) : (bump call n w s).svc = s.svc := rfl
@[simp] theorem bump_drawn (call n w : Nat) (s : State) : (bump call n w s).drawn = s.drawn := rfl

/-- A short entry's value is read back. -/
@[simp] theorem valGet_valPut_same {call v : Nat} {s : State} : valGet (valPut call v s) call = v := by
  simp only [valGet, valPut, kvSet, Nat.succ_ne_zero, if_false, kvGet_kvPut_same]

/-- Every other entry reads as before. -/
theorem valGet_valPut_other {call c v : Nat} {s : State} (h : c ≠ call) : valGet (valPut call v s) c = valGet s c := by
  have e : kvGet 0 (valPut call v s).cat.vals c = kvGet 0 s.cat.vals c := kvGet_kvSet_other (d := (0 : Nat)) (v := v + 1) (m := s.cat.vals) h
  unfold valGet
  rw [e]
  rfl

/-- A counter that grows. -/
@[simp] theorem valGet_bump_same {call n w : Nat} {s : State} : valGet (bump call n w s) call = (valGet s call + n) % 2 ^ w :=
  valGet_valPut_same

/-- Every other entry reads as before. -/
theorem valGet_bump_other {call c n w : Nat} {s : State} (h : c ≠ call) : valGet (bump call n w s) c = valGet s c :=
  valGet_valPut_other h

/-! ### Journal records, start-up -/

@[simp] theorem journal_pending (kind : Nat) (g : Bool) (key : Nat) (p : List Byte) (s : State) : (journal kind g key p s).pending = s.pending := rfl
@[simp] theorem journal_now (kind : Nat) (g : Bool) (key : Nat) (p : List Byte) (s : State) : (journal kind g key p s).now = s.now := rfl
@[simp] theorem journal_up (kind : Nat) (g : Bool) (key : Nat) (p : List Byte) (s : State) : (journal kind g key p s).up = s.up := rfl
@[simp] theorem journal_cat (kind : Nat) (g : Bool) (key : Nat) (p : List Byte) (s : State) : (journal kind g key p s).cat = s.cat := rfl
@[simp] theorem journal_log (kind : Nat) (g : Bool) (key : Nat) (p : List Byte) (s : State) : (journal kind g key p s).log = s.log := rfl
@[simp] theorem journal_eng (kind : Nat) (g : Bool) (key : Nat) (p : List Byte) (s : State) : (journal kind g key p s).eng = s.eng := rfl
@[simp] theorem journal_pair (kind : Nat) (g : Bool) (key : Nat) (p : List Byte) (s : State) : (journal kind g key p s).pair = s.pair := rfl
@[simp] theorem journal_tile (kind : Nat) (g : Bool) (key : Nat) (p : List Byte) (s : State) : (journal kind g key p s).tile = s.tile := rfl
@[simp] theorem journal_time (kind : Nat) (g : Bool) (key : Nat) (p : List Byte) (s : State) : (journal kind g key p s).time = s.time := rfl
@[simp] theorem journal_mem (kind : Nat) (g : Bool) (key : Nat) (p : List Byte) (s : State) : (journal kind g key p s).mem = s.mem := rfl
@[simp] theorem journal_net (kind : Nat) (g : Bool) (key : Nat) (p : List Byte) (s : State) : (journal kind g key p s).net = s.net := rfl
@[simp] theorem journal_xfer (kind : Nat) (g : Bool) (key : Nat) (p : List Byte) (s : State) : (journal kind g key p s).xfer = s.xfer := rfl
@[simp] theorem journal_ledger (kind : Nat) (g : Bool) (key : Nat) (p : List Byte) (s : State) : (journal kind g key p s).ledger = s.ledger := rfl
@[simp] theorem journal_ring (kind : Nat) (g : Bool) (key : Nat) (p : List Byte) (s : State) : (journal kind g key p s).ring = s.ring := rfl
@[simp] theorem journal_port (kind : Nat) (g : Bool) (key : Nat) (p : List Byte) (s : State) : (journal kind g key p s).port = s.port := rfl
@[simp] theorem journal_host (kind : Nat) (g : Bool) (key : Nat) (p : List Byte) (s : State) : (journal kind g key p s).host = s.host := rfl
@[simp] theorem journal_pins (kind : Nat) (g : Bool) (key : Nat) (p : List Byte) (s : State) : (journal kind g key p s).pins = s.pins := rfl
@[simp] theorem journal_tap (kind : Nat) (g : Bool) (key : Nat) (p : List Byte) (s : State) : (journal kind g key p s).tap = s.tap := rfl
@[simp] theorem journal_power (kind : Nat) (g : Bool) (key : Nat) (p : List Byte) (s : State) : (journal kind g key p s).power = s.power := rfl
@[simp] theorem journal_boot (kind : Nat) (g : Bool) (key : Nat) (p : List Byte) (s : State) : (journal kind g key p s).boot = s.boot := rfl
@[simp] theorem journal_svc (kind : Nat) (g : Bool) (key : Nat) (p : List Byte) (s : State) : (journal kind g key p s).svc = s.svc := rfl
@[simp] theorem journal_drawn (kind : Nat) (g : Bool) (key : Nat) (p : List Byte) (s : State) : (journal kind g key p s).drawn = s.drawn := rfl

@[simp] theorem modBoot_pending (f : BootSt → BootSt) (s : State) : (modBoot f s).pending = s.pending := rfl
@[simp] theorem modBoot_now (f : BootSt → BootSt) (s : State) : (modBoot f s).now = s.now := rfl
@[simp] theorem modBoot_up (f : BootSt → BootSt) (s : State) : (modBoot f s).up = s.up := rfl
@[simp] theorem modBoot_cat (f : BootSt → BootSt) (s : State) : (modBoot f s).cat = s.cat := rfl
@[simp] theorem modBoot_log (f : BootSt → BootSt) (s : State) : (modBoot f s).log = s.log := rfl
@[simp] theorem modBoot_eng (f : BootSt → BootSt) (s : State) : (modBoot f s).eng = s.eng := rfl
@[simp] theorem modBoot_pair (f : BootSt → BootSt) (s : State) : (modBoot f s).pair = s.pair := rfl
@[simp] theorem modBoot_tile (f : BootSt → BootSt) (s : State) : (modBoot f s).tile = s.tile := rfl
@[simp] theorem modBoot_time (f : BootSt → BootSt) (s : State) : (modBoot f s).time = s.time := rfl
@[simp] theorem modBoot_mem (f : BootSt → BootSt) (s : State) : (modBoot f s).mem = s.mem := rfl
@[simp] theorem modBoot_net (f : BootSt → BootSt) (s : State) : (modBoot f s).net = s.net := rfl
@[simp] theorem modBoot_xfer (f : BootSt → BootSt) (s : State) : (modBoot f s).xfer = s.xfer := rfl
@[simp] theorem modBoot_ledger (f : BootSt → BootSt) (s : State) : (modBoot f s).ledger = s.ledger := rfl
@[simp] theorem modBoot_arch (f : BootSt → BootSt) (s : State) : (modBoot f s).arch = s.arch := rfl
@[simp] theorem modBoot_ring (f : BootSt → BootSt) (s : State) : (modBoot f s).ring = s.ring := rfl
@[simp] theorem modBoot_port (f : BootSt → BootSt) (s : State) : (modBoot f s).port = s.port := rfl
@[simp] theorem modBoot_host (f : BootSt → BootSt) (s : State) : (modBoot f s).host = s.host := rfl
@[simp] theorem modBoot_pins (f : BootSt → BootSt) (s : State) : (modBoot f s).pins = s.pins := rfl
@[simp] theorem modBoot_tap (f : BootSt → BootSt) (s : State) : (modBoot f s).tap = s.tap := rfl
@[simp] theorem modBoot_power (f : BootSt → BootSt) (s : State) : (modBoot f s).power = s.power := rfl
@[simp] theorem modBoot_svc (f : BootSt → BootSt) (s : State) : (modBoot f s).svc = s.svc := rfl
@[simp] theorem modBoot_drawn (f : BootSt → BootSt) (s : State) : (modBoot f s).drawn = s.drawn := rfl

@[simp] theorem memWrite_pending (pa n v : Nat) (s : State) : (memWrite pa n v s).pending = s.pending := rfl
@[simp] theorem memWrite_now (pa n v : Nat) (s : State) : (memWrite pa n v s).now = s.now := rfl
@[simp] theorem memWrite_up (pa n v : Nat) (s : State) : (memWrite pa n v s).up = s.up := rfl
@[simp] theorem memWrite_cat (pa n v : Nat) (s : State) : (memWrite pa n v s).cat = s.cat := rfl
@[simp] theorem memWrite_log (pa n v : Nat) (s : State) : (memWrite pa n v s).log = s.log := rfl
@[simp] theorem memWrite_eng (pa n v : Nat) (s : State) : (memWrite pa n v s).eng = s.eng := rfl
@[simp] theorem memWrite_pair (pa n v : Nat) (s : State) : (memWrite pa n v s).pair = s.pair := rfl
@[simp] theorem memWrite_tile (pa n v : Nat) (s : State) : (memWrite pa n v s).tile = s.tile := rfl
@[simp] theorem memWrite_time (pa n v : Nat) (s : State) : (memWrite pa n v s).time = s.time := rfl
@[simp] theorem memWrite_net (pa n v : Nat) (s : State) : (memWrite pa n v s).net = s.net := rfl
@[simp] theorem memWrite_xfer (pa n v : Nat) (s : State) : (memWrite pa n v s).xfer = s.xfer := rfl
@[simp] theorem memWrite_ledger (pa n v : Nat) (s : State) : (memWrite pa n v s).ledger = s.ledger := rfl
@[simp] theorem memWrite_arch (pa n v : Nat) (s : State) : (memWrite pa n v s).arch = s.arch := rfl
@[simp] theorem memWrite_ring (pa n v : Nat) (s : State) : (memWrite pa n v s).ring = s.ring := rfl
@[simp] theorem memWrite_port (pa n v : Nat) (s : State) : (memWrite pa n v s).port = s.port := rfl
@[simp] theorem memWrite_host (pa n v : Nat) (s : State) : (memWrite pa n v s).host = s.host := rfl
@[simp] theorem memWrite_pins (pa n v : Nat) (s : State) : (memWrite pa n v s).pins = s.pins := rfl
@[simp] theorem memWrite_tap (pa n v : Nat) (s : State) : (memWrite pa n v s).tap = s.tap := rfl
@[simp] theorem memWrite_power (pa n v : Nat) (s : State) : (memWrite pa n v s).power = s.power := rfl
@[simp] theorem memWrite_boot (pa n v : Nat) (s : State) : (memWrite pa n v s).boot = s.boot := rfl
@[simp] theorem memWrite_svc (pa n v : Nat) (s : State) : (memWrite pa n v s).svc = s.svc := rfl
@[simp] theorem memWrite_drawn (pa n v : Nat) (s : State) : (memWrite pa n v s).drawn = s.drawn := rfl

@[simp] theorem setStream_pending (k : Nat) (x : LStream) (s : State) : (setStream k x s).pending = s.pending := rfl
@[simp] theorem setStream_now (k : Nat) (x : LStream) (s : State) : (setStream k x s).now = s.now := rfl
@[simp] theorem setStream_up (k : Nat) (x : LStream) (s : State) : (setStream k x s).up = s.up := rfl
@[simp] theorem setStream_cat (k : Nat) (x : LStream) (s : State) : (setStream k x s).cat = s.cat := rfl
@[simp] theorem setStream_log (k : Nat) (x : LStream) (s : State) : (setStream k x s).log = s.log := rfl
@[simp] theorem setStream_eng (k : Nat) (x : LStream) (s : State) : (setStream k x s).eng = s.eng := rfl
@[simp] theorem setStream_pair (k : Nat) (x : LStream) (s : State) : (setStream k x s).pair = s.pair := rfl
@[simp] theorem setStream_tile (k : Nat) (x : LStream) (s : State) : (setStream k x s).tile = s.tile := rfl
@[simp] theorem setStream_time (k : Nat) (x : LStream) (s : State) : (setStream k x s).time = s.time := rfl
@[simp] theorem setStream_mem (k : Nat) (x : LStream) (s : State) : (setStream k x s).mem = s.mem := rfl
@[simp] theorem setStream_net (k : Nat) (x : LStream) (s : State) : (setStream k x s).net = s.net := rfl
@[simp] theorem setStream_xfer (k : Nat) (x : LStream) (s : State) : (setStream k x s).xfer = s.xfer := rfl
@[simp] theorem setStream_arch (k : Nat) (x : LStream) (s : State) : (setStream k x s).arch = s.arch := rfl
@[simp] theorem setStream_ring (k : Nat) (x : LStream) (s : State) : (setStream k x s).ring = s.ring := rfl
@[simp] theorem setStream_port (k : Nat) (x : LStream) (s : State) : (setStream k x s).port = s.port := rfl
@[simp] theorem setStream_host (k : Nat) (x : LStream) (s : State) : (setStream k x s).host = s.host := rfl
@[simp] theorem setStream_pins (k : Nat) (x : LStream) (s : State) : (setStream k x s).pins = s.pins := rfl
@[simp] theorem setStream_tap (k : Nat) (x : LStream) (s : State) : (setStream k x s).tap = s.tap := rfl
@[simp] theorem setStream_power (k : Nat) (x : LStream) (s : State) : (setStream k x s).power = s.power := rfl
@[simp] theorem setStream_boot (k : Nat) (x : LStream) (s : State) : (setStream k x s).boot = s.boot := rfl
@[simp] theorem setStream_svc (k : Nat) (x : LStream) (s : State) : (setStream k x s).svc = s.svc := rfl
@[simp] theorem setStream_drawn (k : Nat) (x : LStream) (s : State) : (setStream k x s).drawn = s.drawn := rfl

@[simp] theorem freeLocks_pending (n : Nat) (s : State) : (freeLocks n s).pending = s.pending := rfl
@[simp] theorem freeLocks_now (n : Nat) (s : State) : (freeLocks n s).now = s.now := rfl
@[simp] theorem freeLocks_up (n : Nat) (s : State) : (freeLocks n s).up = s.up := rfl
@[simp] theorem freeLocks_cat (n : Nat) (s : State) : (freeLocks n s).cat = s.cat := rfl
@[simp] theorem freeLocks_log (n : Nat) (s : State) : (freeLocks n s).log = s.log := rfl
@[simp] theorem freeLocks_eng (n : Nat) (s : State) : (freeLocks n s).eng = s.eng := rfl
@[simp] theorem freeLocks_pair (n : Nat) (s : State) : (freeLocks n s).pair = s.pair := rfl
@[simp] theorem freeLocks_tile (n : Nat) (s : State) : (freeLocks n s).tile = s.tile := rfl
@[simp] theorem freeLocks_time (n : Nat) (s : State) : (freeLocks n s).time = s.time := rfl
@[simp] theorem freeLocks_mem (n : Nat) (s : State) : (freeLocks n s).mem = s.mem := rfl
@[simp] theorem freeLocks_net (n : Nat) (s : State) : (freeLocks n s).net = s.net := rfl
@[simp] theorem freeLocks_ledger (n : Nat) (s : State) : (freeLocks n s).ledger = s.ledger := rfl
@[simp] theorem freeLocks_arch (n : Nat) (s : State) : (freeLocks n s).arch = s.arch := rfl
@[simp] theorem freeLocks_ring (n : Nat) (s : State) : (freeLocks n s).ring = s.ring := rfl
@[simp] theorem freeLocks_port (n : Nat) (s : State) : (freeLocks n s).port = s.port := rfl
@[simp] theorem freeLocks_host (n : Nat) (s : State) : (freeLocks n s).host = s.host := rfl
@[simp] theorem freeLocks_pins (n : Nat) (s : State) : (freeLocks n s).pins = s.pins := rfl
@[simp] theorem freeLocks_tap (n : Nat) (s : State) : (freeLocks n s).tap = s.tap := rfl
@[simp] theorem freeLocks_power (n : Nat) (s : State) : (freeLocks n s).power = s.power := rfl
@[simp] theorem freeLocks_boot (n : Nat) (s : State) : (freeLocks n s).boot = s.boot := rfl
@[simp] theorem freeLocks_svc (n : Nat) (s : State) : (freeLocks n s).svc = s.svc := rfl
@[simp] theorem freeLocks_drawn (n : Nat) (s : State) : (freeLocks n s).drawn = s.drawn := rfl

@[simp] theorem entryPut_pending (d : DomId) (v : Nat) (s : State) : (entryPut d v s).pending = s.pending := rfl
@[simp] theorem entryPut_now (d : DomId) (v : Nat) (s : State) : (entryPut d v s).now = s.now := rfl
@[simp] theorem entryPut_up (d : DomId) (v : Nat) (s : State) : (entryPut d v s).up = s.up := rfl
@[simp] theorem entryPut_cat (d : DomId) (v : Nat) (s : State) : (entryPut d v s).cat = s.cat := rfl
@[simp] theorem entryPut_log (d : DomId) (v : Nat) (s : State) : (entryPut d v s).log = s.log := rfl
@[simp] theorem entryPut_eng (d : DomId) (v : Nat) (s : State) : (entryPut d v s).eng = s.eng := rfl
@[simp] theorem entryPut_pair (d : DomId) (v : Nat) (s : State) : (entryPut d v s).pair = s.pair := rfl
@[simp] theorem entryPut_tile (d : DomId) (v : Nat) (s : State) : (entryPut d v s).tile = s.tile := rfl
@[simp] theorem entryPut_time (d : DomId) (v : Nat) (s : State) : (entryPut d v s).time = s.time := rfl
@[simp] theorem entryPut_mem (d : DomId) (v : Nat) (s : State) : (entryPut d v s).mem = s.mem := rfl
@[simp] theorem entryPut_net (d : DomId) (v : Nat) (s : State) : (entryPut d v s).net = s.net := rfl
@[simp] theorem entryPut_xfer (d : DomId) (v : Nat) (s : State) : (entryPut d v s).xfer = s.xfer := rfl
@[simp] theorem entryPut_ledger (d : DomId) (v : Nat) (s : State) : (entryPut d v s).ledger = s.ledger := rfl
@[simp] theorem entryPut_arch (d : DomId) (v : Nat) (s : State) : (entryPut d v s).arch = s.arch := rfl
@[simp] theorem entryPut_ring (d : DomId) (v : Nat) (s : State) : (entryPut d v s).ring = s.ring := rfl
@[simp] theorem entryPut_port (d : DomId) (v : Nat) (s : State) : (entryPut d v s).port = s.port := rfl
@[simp] theorem entryPut_host (d : DomId) (v : Nat) (s : State) : (entryPut d v s).host = s.host := rfl
@[simp] theorem entryPut_pins (d : DomId) (v : Nat) (s : State) : (entryPut d v s).pins = s.pins := rfl
@[simp] theorem entryPut_tap (d : DomId) (v : Nat) (s : State) : (entryPut d v s).tap = s.tap := rfl
@[simp] theorem entryPut_boot (d : DomId) (v : Nat) (s : State) : (entryPut d v s).boot = s.boot := rfl
@[simp] theorem entryPut_svc (d : DomId) (v : Nat) (s : State) : (entryPut d v s).svc = s.svc := rfl
@[simp] theorem entryPut_drawn (d : DomId) (v : Nat) (s : State) : (entryPut d v s).drawn = s.drawn := rfl

@[simp] theorem queueSeg_pending (r peer : Nat) (b : List Byte) (o : Nat) (s : State) : (queueSeg r peer b o s).pending = s.pending := rfl
@[simp] theorem queueSeg_now (r peer : Nat) (b : List Byte) (o : Nat) (s : State) : (queueSeg r peer b o s).now = s.now := rfl
@[simp] theorem queueSeg_up (r peer : Nat) (b : List Byte) (o : Nat) (s : State) : (queueSeg r peer b o s).up = s.up := rfl
@[simp] theorem queueSeg_cat (r peer : Nat) (b : List Byte) (o : Nat) (s : State) : (queueSeg r peer b o s).cat = s.cat := rfl
@[simp] theorem queueSeg_log (r peer : Nat) (b : List Byte) (o : Nat) (s : State) : (queueSeg r peer b o s).log = s.log := rfl
@[simp] theorem queueSeg_eng (r peer : Nat) (b : List Byte) (o : Nat) (s : State) : (queueSeg r peer b o s).eng = s.eng := rfl
@[simp] theorem queueSeg_pair (r peer : Nat) (b : List Byte) (o : Nat) (s : State) : (queueSeg r peer b o s).pair = s.pair := rfl
@[simp] theorem queueSeg_tile (r peer : Nat) (b : List Byte) (o : Nat) (s : State) : (queueSeg r peer b o s).tile = s.tile := rfl
@[simp] theorem queueSeg_time (r peer : Nat) (b : List Byte) (o : Nat) (s : State) : (queueSeg r peer b o s).time = s.time := rfl
@[simp] theorem queueSeg_mem (r peer : Nat) (b : List Byte) (o : Nat) (s : State) : (queueSeg r peer b o s).mem = s.mem := rfl
@[simp] theorem queueSeg_net (r peer : Nat) (b : List Byte) (o : Nat) (s : State) : (queueSeg r peer b o s).net = s.net := rfl
@[simp] theorem queueSeg_xfer (r peer : Nat) (b : List Byte) (o : Nat) (s : State) : (queueSeg r peer b o s).xfer = s.xfer := rfl
@[simp] theorem queueSeg_ledger (r peer : Nat) (b : List Byte) (o : Nat) (s : State) : (queueSeg r peer b o s).ledger = s.ledger := rfl
@[simp] theorem queueSeg_arch (r peer : Nat) (b : List Byte) (o : Nat) (s : State) : (queueSeg r peer b o s).arch = s.arch := rfl
@[simp] theorem queueSeg_port (r peer : Nat) (b : List Byte) (o : Nat) (s : State) : (queueSeg r peer b o s).port = s.port := rfl
@[simp] theorem queueSeg_host (r peer : Nat) (b : List Byte) (o : Nat) (s : State) : (queueSeg r peer b o s).host = s.host := rfl
@[simp] theorem queueSeg_pins (r peer : Nat) (b : List Byte) (o : Nat) (s : State) : (queueSeg r peer b o s).pins = s.pins := rfl
@[simp] theorem queueSeg_tap (r peer : Nat) (b : List Byte) (o : Nat) (s : State) : (queueSeg r peer b o s).tap = s.tap := rfl
@[simp] theorem queueSeg_power (r peer : Nat) (b : List Byte) (o : Nat) (s : State) : (queueSeg r peer b o s).power = s.power := rfl
@[simp] theorem queueSeg_boot (r peer : Nat) (b : List Byte) (o : Nat) (s : State) : (queueSeg r peer b o s).boot = s.boot := rfl
@[simp] theorem queueSeg_svc (r peer : Nat) (b : List Byte) (o : Nat) (s : State) : (queueSeg r peer b o s).svc = s.svc := rfl
@[simp] theorem queueSeg_drawn (r peer : Nat) (b : List Byte) (o : Nat) (s : State) : (queueSeg r peer b o s).drawn = s.drawn := rfl

end Sys2Proof.Machine
end

