-- ==== Sys2Proof/Laws/Frames.lean ====
section
/-! SUPPORT. Laws/Frames.lean: what notifications, events, promise bits, journal records and pending bits leave as it was. -/

namespace Sys2Proof.Machine

/-! ### hostPush -/

@[simp] theorem hostPush_pending (f : HFrame) (s : State) : (hostPush f s).pending = s.pending := by
  unfold hostPush; dsimp only; split <;> rfl
@[simp] theorem hostPush_now (f : HFrame) (s : State) : (hostPush f s).now = s.now := by
  unfold hostPush; dsimp only; split <;> rfl
@[simp] theorem hostPush_up (f : HFrame) (s : State) : (hostPush f s).up = s.up := by
  unfold hostPush; dsimp only; split <;> rfl
@[simp] theorem hostPush_cat (f : HFrame) (s : State) : (hostPush f s).cat = s.cat := by
  unfold hostPush; dsimp only; split <;> rfl
@[simp] theorem hostPush_log (f : HFrame) (s : State) : (hostPush f s).log = s.log := by
  unfold hostPush; dsimp only; split <;> rfl
@[simp] theorem hostPush_eng (f : HFrame) (s : State) : (hostPush f s).eng = s.eng := by
  unfold hostPush; dsimp only; split <;> rfl
@[simp] theorem hostPush_pair (f : HFrame) (s : State) : (hostPush f s).pair = s.pair := by
  unfold hostPush; dsimp only; split <;> rfl
@[simp] theorem hostPush_tile (f : HFrame) (s : State) : (hostPush f s).tile = s.tile := by
  unfold hostPush; dsimp only; split <;> rfl
@[simp] theorem hostPush_time (f : HFrame) (s : State) : (hostPush f s).time = s.time := by
  unfold hostPush; dsimp only; split <;> rfl
@[simp] theorem hostPush_mem (f : HFrame) (s : State) : (hostPush f s).mem = s.mem := by
  unfold hostPush; dsimp only; split <;> rfl
@[simp] theorem hostPush_net (f : HFrame) (s : State) : (hostPush f s).net = s.net := by
  unfold hostPush; dsimp only; split <;> rfl
@[simp] theorem hostPush_xfer (f : HFrame) (s : State) : (hostPush f s).xfer = s.xfer := by
  unfold hostPush; dsimp only; split <;> rfl
@[simp] theorem hostPush_ledger (f : HFrame) (s : State) : (hostPush f s).ledger = s.ledger := by
  unfold hostPush; dsimp only; split <;> rfl
@[simp] theorem hostPush_arch (f : HFrame) (s : State) : (hostPush f s).arch = s.arch := by
  unfold hostPush; dsimp only; split <;> rfl
@[simp] theorem hostPush_ring (f : HFrame) (s : State) : (hostPush f s).ring = s.ring := by
  unfold hostPush; dsimp only; split <;> rfl
@[simp] theorem hostPush_port (f : HFrame) (s : State) : (hostPush f s).port = s.port := by
  unfold hostPush; dsimp only; split <;> rfl
@[simp] theorem hostPush_pins (f : HFrame) (s : State) : (hostPush f s).pins = s.pins := by
  unfold hostPush; dsimp only; split <;> rfl
@[simp] theorem hostPush_tap (f : HFrame) (s : State) : (hostPush f s).tap = s.tap := by
  unfold hostPush; dsimp only; split <;> rfl
@[simp] theorem hostPush_power (f : HFrame) (s : State) : (hostPush f s).power = s.power := by
  unfold hostPush; dsimp only; split <;> rfl
@[simp] theorem hostPush_boot (f : HFrame) (s : State) : (hostPush f s).boot = s.boot := by
  unfold hostPush; dsimp only; split <;> rfl
@[simp] theorem hostPush_svc (f : HFrame) (s : State) : (hostPush f s).svc = s.svc := by
  unfold hostPush; dsimp only; split <;> rfl
@[simp] theorem hostPush_drawn (f : HFrame) (s : State) : (hostPush f s).drawn = s.drawn := by
  unfold hostPush; dsimp only; split <;> rfl

/-! ### hostNotify -/

@[simp] theorem hostNotify_pending (mdb data : Nat) (s : State) : (hostNotify mdb data s).pending = s.pending := by
  unfold hostNotify; dsimp only; split <;> simp
@[simp] theorem hostNotify_now (mdb data : Nat) (s : State) : (hostNotify mdb data s).now = s.now := by
  unfold hostNotify; dsimp only; split <;> simp
@[simp] theorem hostNotify_up (mdb data : Nat) (s : State) : (hostNotify mdb data s).up = s.up := by
  unfold hostNotify; dsimp only; split <;> simp
@[simp] theorem hostNotify_cat (mdb data : Nat) (s : State) : (hostNotify mdb data s).cat = s.cat := by
  unfold hostNotify; dsimp only; split <;> simp
@[simp] theorem hostNotify_log (mdb data : Nat) (s : State) : (hostNotify mdb data s).log = s.log := by
  unfold hostNotify; dsimp only; split <;> simp
@[simp] theorem hostNotify_eng (mdb data : Nat) (s : State) : (hostNotify mdb data s).eng = s.eng := by
  unfold hostNotify; dsimp only; split <;> simp
@[simp] theorem hostNotify_pair (mdb data : Nat) (s : State) : (hostNotify mdb data s).pair = s.pair := by
  unfold hostNotify; dsimp only; split <;> simp
@[simp] theorem hostNotify_tile (mdb data : Nat) (s : State) : (hostNotify mdb data s).tile = s.tile := by
  unfold hostNotify; dsimp only; split <;> simp
@[simp] theorem hostNotify_time (mdb data : Nat) (s : State) : (hostNotify mdb data s).time = s.time := by
  unfold hostNotify; dsimp only; split <;> simp
@[simp] theorem hostNotify_mem (mdb data : Nat) (s : State) : (hostNotify mdb data s).mem = s.mem := by
  unfold hostNotify; dsimp only; split <;> simp
@[simp] theorem hostNotify_net (mdb data : Nat) (s : State) : (hostNotify mdb data s).net = s.net := by
  unfold hostNotify; dsimp only; split <;> simp
@[simp] theorem hostNotify_xfer (mdb data : Nat) (s : State) : (hostNotify mdb data s).xfer = s.xfer := by
  unfold hostNotify; dsimp only; split <;> simp
@[simp] theorem hostNotify_ledger (mdb data : Nat) (s : State) : (hostNotify mdb data s).ledger = s.ledger := by
  unfold hostNotify; dsimp only; split <;> simp
@[simp] theorem hostNotify_arch (mdb data : Nat) (s : State) : (hostNotify mdb data s).arch = s.arch := by
  unfold hostNotify; dsimp only; split <;> simp
@[simp] theorem hostNotify_ring (mdb data : Nat) (s : State) : (hostNotify mdb data s).ring = s.ring := by
  unfold hostNotify; dsimp only; split <;> simp
@[simp] theorem hostNotify_port (mdb data : Nat) (s : State) : (hostNotify mdb data s).port = s.port := by
  unfold hostNotify; dsimp only; split <;> simp
@[simp] theorem hostNotify_pins (mdb data : Nat) (s : State) : (hostNotify mdb data s).pins = s.pins := by
  unfold hostNotify; dsimp only; split <;> simp
@[simp] theorem hostNotify_tap (mdb data : Nat) (s : State) : (hostNotify mdb data s).tap = s.tap := by
  unfold hostNotify; dsimp only; split <;> simp
@[simp] theorem hostNotify_power (mdb data : Nat) (s : State) : (hostNotify mdb data s).power = s.power := by
  unfold hostNotify; dsimp only; split <;> simp
@[simp] theorem hostNotify_boot (mdb data : Nat) (s : State) : (hostNotify mdb data s).boot = s.boot := by
  unfold hostNotify; dsimp only; split <;> simp
@[simp] theorem hostNotify_svc (mdb data : Nat) (s : State) : (hostNotify mdb data s).svc = s.svc := by
  unfold hostNotify; dsimp only; split <;> simp
@[simp] theorem hostNotify_drawn (mdb data : Nat) (s : State) : (hostNotify mdb data s).drawn = s.drawn := by
  unfold hostNotify; dsimp only; split <;> simp

/-! ### logEvent -/

@[simp] theorem logEvent_pending (c : Nat) (l : Bool) (a b d : Nat) (s : State) : (logEvent c l a b d s).pending = s.pending := by
  unfold logEvent; dsimp only; (repeat' split) <;> simp
@[simp] theorem logEvent_now (c : Nat) (l : Bool) (a b d : Nat) (s : State) : (logEvent c l a b d s).now = s.now := by
  unfold logEvent; dsimp only; (repeat' split) <;> simp
@[simp] theorem logEvent_up (c : Nat) (l : Bool) (a b d : Nat) (s : State) : (logEvent c l a b d s).up = s.up := by
  unfold logEvent; dsimp only; (repeat' split) <;> simp
@[simp] theorem logEvent_cat (c : Nat) (l : Bool) (a b d : Nat) (s : State) : (logEvent c l a b d s).cat = s.cat := by
  unfold logEvent; dsimp only; (repeat' split) <;> simp
@[simp] theorem logEvent_eng (c : Nat) (l : Bool) (a b d : Nat) (s : State) : (logEvent c l a b d s).eng = s.eng := by
  unfold logEvent; dsimp only; (repeat' split) <;> simp
@[simp] theorem logEvent_pair (c : Nat) (l : Bool) (a b d : Nat) (s : State) : (logEvent c l a b d s).pair = s.pair := by
  unfold logEvent; dsimp only; (repeat' split) <;> simp
@[simp] theorem logEvent_tile (c : Nat) (l : Bool) (a b d : Nat) (s : State) : (logEvent c l a b d s).tile = s.tile := by
  unfold logEvent; dsimp only; (repeat' split) <;> simp
@[simp] theorem logEvent_time (c : Nat) (l : Bool) (a b d : Nat) (s : State) : (logEvent c l a b d s).time = s.time := by
  unfold logEvent; dsimp only; (repeat' split) <;> simp
@[simp] theorem logEvent_mem (c : Nat) (l : Bool) (a b d : Nat) (s : State) : (logEvent c l a b d s).mem = s.mem := by
  unfold logEvent; dsimp only; (repeat' split) <;> simp
@[simp] theorem logEvent_net (c : Nat) (l : Bool) (a b d : Nat) (s : State) : (logEvent c l a b d s).net = s.net := by
  unfold logEvent; dsimp only; (repeat' split) <;> simp
@[simp] theorem logEvent_xfer (c : Nat) (l : Bool) (a b d : Nat) (s : State) : (logEvent c l a b d s).xfer = s.xfer := by
  unfold logEvent; dsimp only; (repeat' split) <;> simp
@[simp] theorem logEvent_ledger (c : Nat) (l : Bool) (a b d : Nat) (s : State) : (logEvent c l a b d s).ledger = s.ledger := by
  unfold logEvent; dsimp only; (repeat' split) <;> simp
@[simp] theorem logEvent_arch (c : Nat) (l : Bool) (a b d : Nat) (s : State) : (logEvent c l a b d s).arch = s.arch := by
  unfold logEvent; dsimp only; (repeat' split) <;> simp
@[simp] theorem logEvent_ring (c : Nat) (l : Bool) (a b d : Nat) (s : State) : (logEvent c l a b d s).ring = s.ring := by
  unfold logEvent; dsimp only; (repeat' split) <;> simp
@[simp] theorem logEvent_port (c : Nat) (l : Bool) (a b d : Nat) (s : State) : (logEvent c l a b d s).port = s.port := by
  unfold logEvent; dsimp only; (repeat' split) <;> simp
@[simp] theorem logEvent_pins (c : Nat) (l : Bool) (a b d : Nat) (s : State) : (logEvent c l a b d s).pins = s.pins := by
  unfold logEvent; dsimp only; (repeat' split) <;> simp
@[simp] theorem logEvent_tap (c : Nat) (l : Bool) (a b d : Nat) (s : State) : (logEvent c l a b d s).tap = s.tap := by
  unfold logEvent; dsimp only; (repeat' split) <;> simp
@[simp] theorem logEvent_power (c : Nat) (l : Bool) (a b d : Nat) (s : State) : (logEvent c l a b d s).power = s.power := by
  unfold logEvent; dsimp only; (repeat' split) <;> simp
@[simp] theorem logEvent_boot (c : Nat) (l : Bool) (a b d : Nat) (s : State) : (logEvent c l a b d s).boot = s.boot := by
  unfold logEvent; dsimp only; (repeat' split) <;> simp
@[simp] theorem logEvent_svc (c : Nat) (l : Bool) (a b d : Nat) (s : State) : (logEvent c l a b d s).svc = s.svc := by
  unfold logEvent; dsimp only; (repeat' split) <;> simp
@[simp] theorem logEvent_drawn (c : Nat) (l : Bool) (a b d : Nat) (s : State) : (logEvent c l a b d s).drawn = s.drawn := by
  unfold logEvent; dsimp only; (repeat' split) <;> simp

/-! ### putPromise -/

@[simp] theorem putPromise_pending (i : Nat) (b : Bool) (s : State) : (putPromise i b s).pending = s.pending := by
  unfold putPromise; dsimp only; (repeat' split) <;> simp
@[simp] theorem putPromise_now (i : Nat) (b : Bool) (s : State) : (putPromise i b s).now = s.now := by
  unfold putPromise; dsimp only; (repeat' split) <;> simp
@[simp] theorem putPromise_up (i : Nat) (b : Bool) (s : State) : (putPromise i b s).up = s.up := by
  unfold putPromise; dsimp only; (repeat' split) <;> simp
@[simp] theorem putPromise_log (i : Nat) (b : Bool) (s : State) : (putPromise i b s).log = s.log := by
  unfold putPromise; dsimp only; (repeat' split) <;> simp
@[simp] theorem putPromise_eng (i : Nat) (b : Bool) (s : State) : (putPromise i b s).eng = s.eng := by
  unfold putPromise; dsimp only; (repeat' split) <;> simp
@[simp] theorem putPromise_pair (i : Nat) (b : Bool) (s : State) : (putPromise i b s).pair = s.pair := by
  unfold putPromise; dsimp only; (repeat' split) <;> simp
@[simp] theorem putPromise_tile (i : Nat) (b : Bool) (s : State) : (putPromise i b s).tile = s.tile := by
  unfold putPromise; dsimp only; (repeat' split) <;> simp
@[simp] theorem putPromise_time (i : Nat) (b : Bool) (s : State) : (putPromise i b s).time = s.time := by
  unfold putPromise; dsimp only; (repeat' split) <;> simp
@[simp] theorem putPromise_mem (i : Nat) (b : Bool) (s : State) : (putPromise i b s).mem = s.mem := by
  unfold putPromise; dsimp only; (repeat' split) <;> simp
@[simp] theorem putPromise_net (i : Nat) (b : Bool) (s : State) : (putPromise i b s).net = s.net := by
  unfold putPromise; dsimp only; (repeat' split) <;> simp
@[simp] theorem putPromise_xfer (i : Nat) (b : Bool) (s : State) : (putPromise i b s).xfer = s.xfer := by
  unfold putPromise; dsimp only; (repeat' split) <;> simp
@[simp] theorem putPromise_ledger (i : Nat) (b : Bool) (s : State) : (putPromise i b s).ledger = s.ledger := by
  unfold putPromise; dsimp only; (repeat' split) <;> simp
@[simp] theorem putPromise_arch (i : Nat) (b : Bool) (s : State) : (putPromise i b s).arch = s.arch := by
  unfold putPromise; dsimp only; (repeat' split) <;> simp
@[simp] theorem putPromise_ring (i : Nat) (b : Bool) (s : State) : (putPromise i b s).ring = s.ring := by
  unfold putPromise; dsimp only; (repeat' split) <;> simp
@[simp] theorem putPromise_port (i : Nat) (b : Bool) (s : State) : (putPromise i b s).port = s.port := by
  unfold putPromise; dsimp only; (repeat' split) <;> simp
@[simp] theorem putPromise_pins (i : Nat) (b : Bool) (s : State) : (putPromise i b s).pins = s.pins := by
  unfold putPromise; dsimp only; (repeat' split) <;> simp
@[simp] theorem putPromise_tap (i : Nat) (b : Bool) (s : State) : (putPromise i b s).tap = s.tap := by
  unfold putPromise; dsimp only; (repeat' split) <;> simp
@[simp] theorem putPromise_power (i : Nat) (b : Bool) (s : State) : (putPromise i b s).power = s.power := by
  unfold putPromise; dsimp only; (repeat' split) <;> simp
@[simp] theorem putPromise_boot (i : Nat) (b : Bool) (s : State) : (putPromise i b s).boot = s.boot := by
  unfold putPromise; dsimp only; (repeat' split) <;> simp
@[simp] theorem putPromise_svc (i : Nat) (b : Bool) (s : State) : (putPromise i b s).svc = s.svc := by
  unfold putPromise; dsimp only; (repeat' split) <;> simp
@[simp] theorem putPromise_drawn (i : Nat) (b : Bool) (s : State) : (putPromise i b s).drawn = s.drawn := by
  unfold putPromise; dsimp only; (repeat' split) <;> simp

/-! ### lapse -/

@[simp] theorem lapse_pending (i c a b d : Nat) (s : State) : (lapse i c a b d s).pending = s.pending := by
  unfold lapse; dsimp only; (repeat' split) <;> simp
@[simp] theorem lapse_now (i c a b d : Nat) (s : State) : (lapse i c a b d s).now = s.now := by
  unfold lapse; dsimp only; (repeat' split) <;> simp
@[simp] theorem lapse_up (i c a b d : Nat) (s : State) : (lapse i c a b d s).up = s.up := by
  unfold lapse; dsimp only; (repeat' split) <;> simp
@[simp] theorem lapse_eng (i c a b d : Nat) (s : State) : (lapse i c a b d s).eng = s.eng := by
  unfold lapse; dsimp only; (repeat' split) <;> simp
@[simp] theorem lapse_pair (i c a b d : Nat) (s : State) : (lapse i c a b d s).pair = s.pair := by
  unfold lapse; dsimp only; (repeat' split) <;> simp
@[simp] theorem lapse_tile (i c a b d : Nat) (s : State) : (lapse i c a b d s).tile = s.tile := by
  unfold lapse; dsimp only; (repeat' split) <;> simp
@[simp] theorem lapse_time (i c a b d : Nat) (s : State) : (lapse i c a b d s).time = s.time := by
  unfold lapse; dsimp only; (repeat' split) <;> simp
@[simp] theorem lapse_mem (i c a b d : Nat) (s : State) : (lapse i c a b d s).mem = s.mem := by
  unfold lapse; dsimp only; (repeat' split) <;> simp
@[simp] theorem lapse_net (i c a b d : Nat) (s : State) : (lapse i c a b d s).net = s.net := by
  unfold lapse; dsimp only; (repeat' split) <;> simp
@[simp] theorem lapse_xfer (i c a b d : Nat) (s : State) : (lapse i c a b d s).xfer = s.xfer := by
  unfold lapse; dsimp only; (repeat' split) <;> simp
@[simp] theorem lapse_ledger (i c a b d : Nat) (s : State) : (lapse i c a b d s).ledger = s.ledger := by
  unfold lapse; dsimp only; (repeat' split) <;> simp
@[simp] theorem lapse_arch (i c a b d : Nat) (s : State) : (lapse i c a b d s).arch = s.arch := by
  unfold lapse; dsimp only; (repeat' split) <;> simp
@[simp] theorem lapse_ring (i c a b d : Nat) (s : State) : (lapse i c a b d s).ring = s.ring := by
  unfold lapse; dsimp only; (repeat' split) <;> simp
@[simp] theorem lapse_port (i c a b d : Nat) (s : State) : (lapse i c a b d s).port = s.port := by
  unfold lapse; dsimp only; (repeat' split) <;> simp
@[simp] theorem lapse_pins (i c a b d : Nat) (s : State) : (lapse i c a b d s).pins = s.pins := by
  unfold lapse; dsimp only; (repeat' split) <;> simp
@[simp] theorem lapse_tap (i c a b d : Nat) (s : State) : (lapse i c a b d s).tap = s.tap := by
  unfold lapse; dsimp only; (repeat' split) <;> simp
@[simp] theorem lapse_power (i c a b d : Nat) (s : State) : (lapse i c a b d s).power = s.power := by
  unfold lapse; dsimp only; (repeat' split) <;> simp
@[simp] theorem lapse_boot (i c a b d : Nat) (s : State) : (lapse i c a b d s).boot = s.boot := by
  unfold lapse; dsimp only; (repeat' split) <;> simp
@[simp] theorem lapse_svc (i c a b d : Nat) (s : State) : (lapse i c a b d s).svc = s.svc := by
  unfold lapse; dsimp only; (repeat' split) <;> simp
@[simp] theorem lapse_drawn (i c a b d : Nat) (s : State) : (lapse i c a b d s).drawn = s.drawn := by
  unfold lapse; dsimp only; (repeat' split) <;> simp

/-! ### restorePromise -/

@[simp] theorem restorePromise_pending (i c a b d : Nat) (s : State) : (restorePromise i c a b d s).pending = s.pending := by
  unfold restorePromise; dsimp only; (repeat' split) <;> simp
@[simp] theorem restorePromise_now (i c a b d : Nat) (s : State) : (restorePromise i c a b d s).now = s.now := by
  unfold restorePromise; dsimp only; (repeat' split) <;> simp
@[simp] theorem restorePromise_up (i c a b d : Nat) (s : State) : (restorePromise i c a b d s).up = s.up := by
  unfold restorePromise; dsimp only; (repeat' split) <;> simp
@[simp] theorem restorePromise_eng (i c a b d : Nat) (s : State) : (restorePromise i c a b d s).eng = s.eng := by
  unfold restorePromise; dsimp only; (repeat' split) <;> simp
@[simp] theorem restorePromise_pair (i c a b d : Nat) (s : State) : (restorePromise i c a b d s).pair = s.pair := by
  unfold restorePromise; dsimp only; (repeat' split) <;> simp
@[simp] theorem restorePromise_tile (i c a b d : Nat) (s : State) : (restorePromise i c a b d s).tile = s.tile := by
  unfold restorePromise; dsimp only; (repeat' split) <;> simp
@[simp] theorem restorePromise_time (i c a b d : Nat) (s : State) : (restorePromise i c a b d s).time = s.time := by
  unfold restorePromise; dsimp only; (repeat' split) <;> simp
@[simp] theorem restorePromise_mem (i c a b d : Nat) (s : State) : (restorePromise i c a b d s).mem = s.mem := by
  unfold restorePromise; dsimp only; (repeat' split) <;> simp
@[simp] theorem restorePromise_net (i c a b d : Nat) (s : State) : (restorePromise i c a b d s).net = s.net := by
  unfold restorePromise; dsimp only; (repeat' split) <;> simp
@[simp] theorem restorePromise_xfer (i c a b d : Nat) (s : State) : (restorePromise i c a b d s).xfer = s.xfer := by
  unfold restorePromise; dsimp only; (repeat' split) <;> simp
@[simp] theorem restorePromise_ledger (i c a b d : Nat) (s : State) : (restorePromise i c a b d s).ledger = s.ledger := by
  unfold restorePromise; dsimp only; (repeat' split) <;> simp
@[simp] theorem restorePromise_arch (i c a b d : Nat) (s : State) : (restorePromise i c a b d s).arch = s.arch := by
  unfold restorePromise; dsimp only; (repeat' split) <;> simp
@[simp] theorem restorePromise_ring (i c a b d : Nat) (s : State) : (restorePromise i c a b d s).ring = s.ring := by
  unfold restorePromise; dsimp only; (repeat' split) <;> simp
@[simp] theorem restorePromise_port (i c a b d : Nat) (s : State) : (restorePromise i c a b d s).port = s.port := by
  unfold restorePromise; dsimp only; (repeat' split) <;> simp
@[simp] theorem restorePromise_pins (i c a b d : Nat) (s : State) : (restorePromise i c a b d s).pins = s.pins := by
  unfold restorePromise; dsimp only; (repeat' split) <;> simp
@[simp] theorem restorePromise_tap (i c a b d : Nat) (s : State) : (restorePromise i c a b d s).tap = s.tap := by
  unfold restorePromise; dsimp only; (repeat' split) <;> simp
@[simp] theorem restorePromise_power (i c a b d : Nat) (s : State) : (restorePromise i c a b d s).power = s.power := by
  unfold restorePromise; dsimp only; (repeat' split) <;> simp
@[simp] theorem restorePromise_boot (i c a b d : Nat) (s : State) : (restorePromise i c a b d s).boot = s.boot := by
  unfold restorePromise; dsimp only; (repeat' split) <;> simp
@[simp] theorem restorePromise_svc (i c a b d : Nat) (s : State) : (restorePromise i c a b d s).svc = s.svc := by
  unfold restorePromise; dsimp only; (repeat' split) <;> simp
@[simp] theorem restorePromise_drawn (i c a b d : Nat) (s : State) : (restorePromise i c a b d s).drawn = s.drawn := by
  unfold restorePromise; dsimp only; (repeat' split) <;> simp

/-! ### journalChunks -/

@[simp] theorem journalChunks_pending (kind key n off : Nat) (b : List Byte) (s : State) : (journalChunks kind key n off b s).pending = s.pending := by
  induction n generalizing off b s with
  | zero => rfl
  | succ n ih => unfold journalChunks; split <;> simp [ih]
@[simp] theorem journalChunks_now (kind key n off : Nat) (b : List Byte) (s : State) : (journalChunks kind key n off b s).now = s.now := by
  induction n generalizing off b s with
  | zero => rfl
  | succ n ih => unfold journalChunks; split <;> simp [ih]
@[simp] theorem journalChunks_up (kind key n off : Nat) (b : List Byte) (s : State) : (journalChunks kind key n off b s).up = s.up := by
  induction n generalizing off b s with
  | zero => rfl
  | succ n ih => unfold journalChunks; split <;> simp [ih]
@[simp] theorem journalChunks_cat (kind key n off : Nat) (b : List Byte) (s : State) : (journalChunks kind key n off b s).cat = s.cat := by
  induction n generalizing off b s with
  | zero => rfl
  | succ n ih => unfold journalChunks; split <;> simp [ih]
@[simp] theorem journalChunks_log (kind key n off : Nat) (b : List Byte) (s : State) : (journalChunks kind key n off b s).log = s.log := by
  induction n generalizing off b s with
  | zero => rfl
  | succ n ih => unfold journalChunks; split <;> simp [ih]
@[simp] theorem journalChunks_eng (kind key n off : Nat) (b : List Byte) (s : State) : (journalChunks kind key n off b s).eng = s.eng := by
  induction n generalizing off b s with
  | zero => rfl
  | succ n ih => unfold journalChunks; split <;> simp [ih]
@[simp] theorem journalChunks_pair (kind key n off : Nat) (b : List Byte) (s : State) : (journalChunks kind key n off b s).pair = s.pair := by
  induction n generalizing off b s with
  | zero => rfl
  | succ n ih => unfold journalChunks; split <;> simp [ih]
@[simp] theorem journalChunks_tile (kind key n off : Nat) (b : List Byte) (s : State) : (journalChunks kind key n off b s).tile = s.tile := by
  induction n generalizing off b s with
  | zero => rfl
  | succ n ih => unfold journalChunks; split <;> simp [ih]
@[simp] theorem journalChunks_time (kind key n off : Nat) (b : List Byte) (s : State) : (journalChunks kind key n off b s).time = s.time := by
  induction n generalizing off b s with
  | zero => rfl
  | succ n ih => unfold journalChunks; split <;> simp [ih]
@[simp] theorem journalChunks_mem (kind key n off : Nat) (b : List Byte) (s : State) : (journalChunks kind key n off b s).mem = s.mem := by
  induction n generalizing off b s with
  | zero => rfl
  | succ n ih => unfold journalChunks; split <;> simp [ih]
@[simp] theorem journalChunks_net (kind key n off : Nat) (b : List Byte) (s : State) : (journalChunks kind key n off b s).net = s.net := by
  induction n generalizing off b s with
  | zero => rfl
  | succ n ih => unfold journalChunks; split <;> simp [ih]
@[simp] theorem journalChunks_xfer (kind key n off : Nat) (b : List Byte) (s : State) : (journalChunks kind key n off b s).xfer = s.xfer := by
  induction n generalizing off b s with
  | zero => rfl
  | succ n ih => unfold journalChunks; split <;> simp [ih]
@[simp] theorem journalChunks_ledger (kind key n off : Nat) (b : List Byte) (s : State) : (journalChunks kind key n off b s).ledger = s.ledger := by
  induction n generalizing off b s with
  | zero => rfl
  | succ n ih => unfold journalChunks; split <;> simp [ih]
@[simp] theorem journalChunks_ring (kind key n off : Nat) (b : List Byte) (s : State) : (journalChunks kind key n off b s).ring = s.ring := by
  induction n generalizing off b s with
  | zero => rfl
  | succ n ih => unfold journalChunks; split <;> simp [ih]
@[simp] theorem journalChunks_port (kind key n off : Nat) (b : List Byte) (s : State) : (journalChunks kind key n off b s).port = s.port := by
  induction n generalizing off b s with
  | zero => rfl
  | succ n ih => unfold journalChunks; split <;> simp [ih]
@[simp] theorem journalChunks_host (kind key n off : Nat) (b : List Byte) (s : State) : (journalChunks kind key n off b s).host = s.host := by
  induction n generalizing off b s with
  | zero => rfl
  | succ n ih => unfold journalChunks; split <;> simp [ih]
@[simp] theorem journalChunks_pins (kind key n off : Nat) (b : List Byte) (s : State) : (journalChunks kind key n off b s).pins = s.pins := by
  induction n generalizing off b s with
  | zero => rfl
  | succ n ih => unfold journalChunks; split <;> simp [ih]
@[simp] theorem journalChunks_tap (kind key n off : Nat) (b : List Byte) (s : State) : (journalChunks kind key n off b s).tap = s.tap := by
  induction n generalizing off b s with
  | zero => rfl
  | succ n ih => unfold journalChunks; split <;> simp [ih]
@[simp] theorem journalChunks_power (kind key n off : Nat) (b : List Byte) (s : State) : (journalChunks kind key n off b s).power = s.power := by
  induction n generalizing off b s with
  | zero => rfl
  | succ n ih => unfold journalChunks; split <;> simp [ih]
@[simp] theorem journalChunks_boot (kind key n off : Nat) (b : List Byte) (s : State) : (journalChunks kind key n off b s).boot = s.boot := by
  induction n generalizing off b s with
  | zero => rfl
  | succ n ih => unfold journalChunks; split <;> simp [ih]
@[simp] theorem journalChunks_svc (kind key n off : Nat) (b : List Byte) (s : State) : (journalChunks kind key n off b s).svc = s.svc := by
  induction n generalizing off b s with
  | zero => rfl
  | succ n ih => unfold journalChunks; split <;> simp [ih]
@[simp] theorem journalChunks_drawn (kind key n off : Nat) (b : List Byte) (s : State) : (journalChunks kind key n off b s).drawn = s.drawn := by
  induction n generalizing off b s with
  | zero => rfl
  | succ n ih => unfold journalChunks; split <;> simp [ih]

/-! ### journalGroup -/

@[simp] theorem journalGroup_pending (kind key : Nat) (b : List Byte) (s : State) : (journalGroup kind key b s).pending = s.pending := by
  simp [journalGroup]
@[simp] theorem journalGroup_now (kind key : Nat) (b : List Byte) (s : State) : (journalGroup kind key b s).now = s.now := by
  simp [journalGroup]
@[simp] theorem journalGroup_up (kind key : Nat) (b : List Byte) (s : State) : (journalGroup kind key b s).up = s.up := by
  simp [journalGroup]
@[simp] theorem journalGroup_cat (kind key : Nat) (b : List Byte) (s : State) : (journalGroup kind key b s).cat = s.cat := by
  simp [journalGroup]
@[simp] theorem journalGroup_log (kind key : Nat) (b : List Byte) (s : State) : (journalGroup kind key b s).log = s.log := by
  simp [journalGroup]
@[simp] theorem journalGroup_eng (kind key : Nat) (b : List Byte) (s : State) : (journalGroup kind key b s).eng = s.eng := by
  simp [journalGroup]
@[simp] theorem journalGroup_pair (kind key : Nat) (b : List Byte) (s : State) : (journalGroup kind key b s).pair = s.pair := by
  simp [journalGroup]
@[simp] theorem journalGroup_tile (kind key : Nat) (b : List Byte) (s : State) : (journalGroup kind key b s).tile = s.tile := by
  simp [journalGroup]
@[simp] theorem journalGroup_time (kind key : Nat) (b : List Byte) (s : State) : (journalGroup kind key b s).time = s.time := by
  simp [journalGroup]
@[simp] theorem journalGroup_mem (kind key : Nat) (b : List Byte) (s : State) : (journalGroup kind key b s).mem = s.mem := by
  simp [journalGroup]
@[simp] theorem journalGroup_net (kind key : Nat) (b : List Byte) (s : State) : (journalGroup kind key b s).net = s.net := by
  simp [journalGroup]
@[simp] theorem journalGroup_xfer (kind key : Nat) (b : List Byte) (s : State) : (journalGroup kind key b s).xfer = s.xfer := by
  simp [journalGroup]
@[simp] theorem journalGroup_ledger (kind key : Nat) (b : List Byte) (s : State) : (journalGroup kind key b s).ledger = s.ledger := by
  simp [journalGroup]
@[simp] theorem journalGroup_ring (kind key : Nat) (b : List Byte) (s : State) : (journalGroup kind key b s).ring = s.ring := by
  simp [journalGroup]
@[simp] theorem journalGroup_port (kind key : Nat) (b : List Byte) (s : State) : (journalGroup kind key b s).port = s.port := by
  simp [journalGroup]
@[simp] theorem journalGroup_host (kind key : Nat) (b : List Byte) (s : State) : (journalGroup kind key b s).host = s.host := by
  simp [journalGroup]
@[simp] theorem journalGroup_pins (kind key : Nat) (b : List Byte) (s : State) : (journalGroup kind key b s).pins = s.pins := by
  simp [journalGroup]
@[simp] theorem journalGroup_tap (kind key : Nat) (b : List Byte) (s : State) : (journalGroup kind key b s).tap = s.tap := by
  simp [journalGroup]
@[simp] theorem journalGroup_power (kind key : Nat) (b : List Byte) (s : State) : (journalGroup kind key b s).power = s.power := by
  simp [journalGroup]
@[simp] theorem journalGroup_boot (kind key : Nat) (b : List Byte) (s : State) : (journalGroup kind key b s).boot = s.boot := by
  simp [journalGroup]
@[simp] theorem journalGroup_svc (kind key : Nat) (b : List Byte) (s : State) : (journalGroup kind key b s).svc = s.svc := by
  simp [journalGroup]
@[simp] theorem journalGroup_drawn (kind key : Nat) (b : List Byte) (s : State) : (journalGroup kind key b s).drawn = s.drawn := by
  simp [journalGroup]

/-! ### journalEntry -/

@[simp] theorem journalEntry_pending (call : Nat) (b : List Byte) (s : State) : (journalEntry call b s).pending = s.pending := by
  unfold journalEntry; dsimp only; (repeat' split) <;> simp
@[simp] theorem journalEntry_now (call : Nat) (b : List Byte) (s : State) : (journalEntry call b s).now = s.now := by
  unfold journalEntry; dsimp only; (repeat' split) <;> simp
@[simp] theorem journalEntry_up (call : Nat) (b : List Byte) (s : State) : (journalEntry call b s).up = s.up := by
  unfold journalEntry; dsimp only; (repeat' split) <;> simp
@[simp] theorem journalEntry_cat (call : Nat) (b : List Byte) (s : State) : (journalEntry call b s).cat = s.cat := by
  unfold journalEntry; dsimp only; (repeat' split) <;> simp
@[simp] theorem journalEntry_log (call : Nat) (b : List Byte) (s : State) : (journalEntry call b s).log = s.log := by
  unfold journalEntry; dsimp only; (repeat' split) <;> simp
@[simp] theorem journalEntry_eng (call : Nat) (b : List Byte) (s : State) : (journalEntry call b s).eng = s.eng := by
  unfold journalEntry; dsimp only; (repeat' split) <;> simp
@[simp] theorem journalEntry_pair (call : Nat) (b : List Byte) (s : State) : (journalEntry call b s).pair = s.pair := by
  unfold journalEntry; dsimp only; (repeat' split) <;> simp
@[simp] theorem journalEntry_tile (call : Nat) (b : List Byte) (s : State) : (journalEntry call b s).tile = s.tile := by
  unfold journalEntry; dsimp only; (repeat' split) <;> simp
@[simp] theorem journalEntry_time (call : Nat) (b : List Byte) (s : State) : (journalEntry call b s).time = s.time := by
  unfold journalEntry; dsimp only; (repeat' split) <;> simp
@[simp] theorem journalEntry_mem (call : Nat) (b : List Byte) (s : State) : (journalEntry call b s).mem = s.mem := by
  unfold journalEntry; dsimp only; (repeat' split) <;> simp
@[simp] theorem journalEntry_net (call : Nat) (b : List Byte) (s : State) : (journalEntry call b s).net = s.net := by
  unfold journalEntry; dsimp only; (repeat' split) <;> simp
@[simp] theorem journalEntry_xfer (call : Nat) (b : List Byte) (s : State) : (journalEntry call b s).xfer = s.xfer := by
  unfold journalEntry; dsimp only; (repeat' split) <;> simp
@[simp] theorem journalEntry_ledger (call : Nat) (b : List Byte) (s : State) : (journalEntry call b s).ledger = s.ledger := by
  unfold journalEntry; dsimp only; (repeat' split) <;> simp
@[simp] theorem journalEntry_ring (call : Nat) (b : List Byte) (s : State) : (journalEntry call b s).ring = s.ring := by
  unfold journalEntry; dsimp only; (repeat' split) <;> simp
@[simp] theorem journalEntry_port (call : Nat) (b : List Byte) (s : State) : (journalEntry call b s).port = s.port := by
  unfold journalEntry; dsimp only; (repeat' split) <;> simp
@[simp] theorem journalEntry_host (call : Nat) (b : List Byte) (s : State) : (journalEntry call b s).host = s.host := by
  unfold journalEntry; dsimp only; (repeat' split) <;> simp
@[simp] theorem journalEntry_pins (call : Nat) (b : List Byte) (s : State) : (journalEntry call b s).pins = s.pins := by
  unfold journalEntry; dsimp only; (repeat' split) <;> simp
@[simp] theorem journalEntry_tap (call : Nat) (b : List Byte) (s : State) : (journalEntry call b s).tap = s.tap := by
  unfold journalEntry; dsimp only; (repeat' split) <;> simp
@[simp] theorem journalEntry_power (call : Nat) (b : List Byte) (s : State) : (journalEntry call b s).power = s.power := by
  unfold journalEntry; dsimp only; (repeat' split) <;> simp
@[simp] theorem journalEntry_boot (call : Nat) (b : List Byte) (s : State) : (journalEntry call b s).boot = s.boot := by
  unfold journalEntry; dsimp only; (repeat' split) <;> simp
@[simp] theorem journalEntry_svc (call : Nat) (b : List Byte) (s : State) : (journalEntry call b s).svc = s.svc := by
  unfold journalEntry; dsimp only; (repeat' split) <;> simp
@[simp] theorem journalEntry_drawn (call : Nat) (b : List Byte) (s : State) : (journalEntry call b s).drawn = s.drawn := by
  unfold journalEntry; dsimp only; (repeat' split) <;> simp

/-! ### valJournal -/

@[simp] theorem valJournal_pending (call v : Nat) (s : State) : (valJournal call v s).pending = s.pending := by
  simp [valJournal]
@[simp] theorem valJournal_now (call v : Nat) (s : State) : (valJournal call v s).now = s.now := by
  simp [valJournal]
@[simp] theorem valJournal_up (call v : Nat) (s : State) : (valJournal call v s).up = s.up := by
  simp [valJournal]
@[simp] theorem valJournal_log (call v : Nat) (s : State) : (valJournal call v s).log = s.log := by
  simp [valJournal]
@[simp] theorem valJournal_eng (call v : Nat) (s : State) : (valJournal call v s).eng = s.eng := by
  simp [valJournal]
@[simp] theorem valJournal_pair (call v : Nat) (s : State) : (valJournal call v s).pair = s.pair := by
  simp [valJournal]
@[simp] theorem valJournal_tile (call v : Nat) (s : State) : (valJournal call v s).tile = s.tile := by
  simp [valJournal]
@[simp] theorem valJournal_time (call v : Nat) (s : State) : (valJournal call v s).time = s.time := by
  simp [valJournal]
@[simp] theorem valJournal_mem (call v : Nat) (s : State) : (valJournal call v s).mem = s.mem := by
  simp [valJournal]
@[simp] theorem valJournal_net (call v : Nat) (s : State) : (valJournal call v s).net = s.net := by
  simp [valJournal]
@[simp] theorem valJournal_xfer (call v : Nat) (s : State) : (valJournal call v s).xfer = s.xfer := by
  simp [valJournal]
@[simp] theorem valJournal_ledger (call v : Nat) (s : State) : (valJournal call v s).ledger = s.ledger := by
  simp [valJournal]
@[simp] theorem valJournal_ring (call v : Nat) (s : State) : (valJournal call v s).ring = s.ring := by
  simp [valJournal]
@[simp] theorem valJournal_port (call v : Nat) (s : State) : (valJournal call v s).port = s.port := by
  simp [valJournal]
@[simp] theorem valJournal_host (call v : Nat) (s : State) : (valJournal call v s).host = s.host := by
  simp [valJournal]
@[simp] theorem valJournal_pins (call v : Nat) (s : State) : (valJournal call v s).pins = s.pins := by
  simp [valJournal]
@[simp] theorem valJournal_tap (call v : Nat) (s : State) : (valJournal call v s).tap = s.tap := by
  simp [valJournal]
@[simp] theorem valJournal_power (call v : Nat) (s : State) : (valJournal call v s).power = s.power := by
  simp [valJournal]
@[simp] theorem valJournal_boot (call v : Nat) (s : State) : (valJournal call v s).boot = s.boot := by
  simp [valJournal]
@[simp] theorem valJournal_svc (call v : Nat) (s : State) : (valJournal call v s).svc = s.svc := by
  simp [valJournal]
@[simp] theorem valJournal_drawn (call v : Nat) (s : State) : (valJournal call v s).drawn = s.drawn := by
  simp [valJournal]

/-! ### setPend -/

@[simp] theorem setPend_pending (n k : Nat) (s : State) : (setPend n k s).pending = s.pending := by
  unfold setPend; (repeat' split) <;> simp
@[simp] theorem setPend_now (n k : Nat) (s : State) : (setPend n k s).now = s.now := by
  unfold setPend; (repeat' split) <;> simp
@[simp] theorem setPend_up (n k : Nat) (s : State) : (setPend n k s).up = s.up := by
  unfold setPend; (repeat' split) <;> simp
@[simp] theorem setPend_cat (n k : Nat) (s : State) : (setPend n k s).cat = s.cat := by
  unfold setPend; (repeat' split) <;> simp
@[simp] theorem setPend_log (n k : Nat) (s : State) : (setPend n k s).log = s.log := by
  unfold setPend; (repeat' split) <;> simp
@[simp] theorem setPend_tile (n k : Nat) (s : State) : (setPend n k s).tile = s.tile := by
  unfold setPend; (repeat' split) <;> simp
@[simp] theorem setPend_time (n k : Nat) (s : State) : (setPend n k s).time = s.time := by
  unfold setPend; (repeat' split) <;> simp
@[simp] theorem setPend_mem (n k : Nat) (s : State) : (setPend n k s).mem = s.mem := by
  unfold setPend; (repeat' split) <;> simp
@[simp] theorem setPend_net (n k : Nat) (s : State) : (setPend n k s).net = s.net := by
  unfold setPend; (repeat' split) <;> simp
@[simp] theorem setPend_xfer (n k : Nat) (s : State) : (setPend n k s).xfer = s.xfer := by
  unfold setPend; (repeat' split) <;> simp
@[simp] theorem setPend_ledger (n k : Nat) (s : State) : (setPend n k s).ledger = s.ledger := by
  unfold setPend; (repeat' split) <;> simp
@[simp] theorem setPend_arch (n k : Nat) (s : State) : (setPend n k s).arch = s.arch := by
  unfold setPend; (repeat' split) <;> simp
@[simp] theorem setPend_ring (n k : Nat) (s : State) : (setPend n k s).ring = s.ring := by
  unfold setPend; (repeat' split) <;> simp
@[simp] theorem setPend_port (n k : Nat) (s : State) : (setPend n k s).port = s.port := by
  unfold setPend; (repeat' split) <;> simp
@[simp] theorem setPend_host (n k : Nat) (s : State) : (setPend n k s).host = s.host := by
  unfold setPend; (repeat' split) <;> simp
@[simp] theorem setPend_pins (n k : Nat) (s : State) : (setPend n k s).pins = s.pins := by
  unfold setPend; (repeat' split) <;> simp
@[simp] theorem setPend_tap (n k : Nat) (s : State) : (setPend n k s).tap = s.tap := by
  unfold setPend; (repeat' split) <;> simp
@[simp] theorem setPend_power (n k : Nat) (s : State) : (setPend n k s).power = s.power := by
  unfold setPend; (repeat' split) <;> simp
@[simp] theorem setPend_boot (n k : Nat) (s : State) : (setPend n k s).boot = s.boot := by
  unfold setPend; (repeat' split) <;> simp
@[simp] theorem setPend_svc (n k : Nat) (s : State) : (setPend n k s).svc = s.svc := by
  unfold setPend; (repeat' split) <;> simp
@[simp] theorem setPend_drawn (n k : Nat) (s : State) : (setPend n k s).drawn = s.drawn := by
  unfold setPend; (repeat' split) <;> simp

/-! ### countLate -/

@[simp] theorem countLate_pending (n : Nat) (s : State) : (countLate n s).pending = s.pending := by
  simp [countLate]
@[simp] theorem countLate_now (n : Nat) (s : State) : (countLate n s).now = s.now := by
  simp [countLate]
@[simp] theorem countLate_up (n : Nat) (s : State) : (countLate n s).up = s.up := by
  simp [countLate]
@[simp] theorem countLate_log (n : Nat) (s : State) : (countLate n s).log = s.log := by
  simp [countLate]
@[simp] theorem countLate_eng (n : Nat) (s : State) : (countLate n s).eng = s.eng := by
  simp [countLate]
@[simp] theorem countLate_pair (n : Nat) (s : State) : (countLate n s).pair = s.pair := by
  simp [countLate]
@[simp] theorem countLate_tile (n : Nat) (s : State) : (countLate n s).tile = s.tile := by
  simp [countLate]
@[simp] theorem countLate_time (n : Nat) (s : State) : (countLate n s).time = s.time := by
  simp [countLate]
@[simp] theorem countLate_mem (n : Nat) (s : State) : (countLate n s).mem = s.mem := by
  simp [countLate]
@[simp] theorem countLate_net (n : Nat) (s : State) : (countLate n s).net = s.net := by
  simp [countLate]
@[simp] theorem countLate_xfer (n : Nat) (s : State) : (countLate n s).xfer = s.xfer := by
  simp [countLate]
@[simp] theorem countLate_ledger (n : Nat) (s : State) : (countLate n s).ledger = s.ledger := by
  simp [countLate]
@[simp] theorem countLate_arch (n : Nat) (s : State) : (countLate n s).arch = s.arch := by
  simp [countLate]
@[simp] theorem countLate_ring (n : Nat) (s : State) : (countLate n s).ring = s.ring := by
  simp [countLate]
@[simp] theorem countLate_port (n : Nat) (s : State) : (countLate n s).port = s.port := by
  simp [countLate]
@[simp] theorem countLate_host (n : Nat) (s : State) : (countLate n s).host = s.host := by
  simp [countLate]
@[simp] theorem countLate_pins (n : Nat) (s : State) : (countLate n s).pins = s.pins := by
  simp [countLate]
@[simp] theorem countLate_tap (n : Nat) (s : State) : (countLate n s).tap = s.tap := by
  simp [countLate]
@[simp] theorem countLate_power (n : Nat) (s : State) : (countLate n s).power = s.power := by
  simp [countLate]
@[simp] theorem countLate_boot (n : Nat) (s : State) : (countLate n s).boot = s.boot := by
  simp [countLate]
@[simp] theorem countLate_svc (n : Nat) (s : State) : (countLate n s).svc = s.svc := by
  simp [countLate]
@[simp] theorem countLate_drawn (n : Nat) (s : State) : (countLate n s).drawn = s.drawn := by
  simp [countLate]

end Sys2Proof.Machine
end

