-- ==== Sys2Proof/Tests/Slice0.lean ====
section
/-! SUPPORT. Tests/Slice0.lean: tests of the model: ill-formed commands, examples of the specification, single commands, and for each
statement of the certificates states and operands that meet the hypotheses of each of its clauses. -/

open Sys2Proof Sys2Proof.Machine

namespace Sys2Proof.Tests

set_option Elab.async false

/-! ### Small states -/

def fresh : State := { State.reset with boot := { State.reset.boot with serial := List.replicate 16 0#8, nonce := List.replicate 16 7#8 } }
def base : State := { fresh with cat := { State.reset.cat with ready := true } }
def asSplit (m : Nat) (s : State) : State := setPair m { Pair.fresh with st := .split } s
def asChecked (m : Nat) (s : State) : State := setPair m { Pair.fresh with st := .checked } s
def dbgOpened (s : State) : State := valPut (callNo 0x1510 0x0C) 1 s
def mvBundle : Bundle := packBundle 64 0x3000 0x3000 0x3000
def mv : Engine := { Engine.fresh with st := .running, g := [(1, 7#32)], pmem := [(0, mvBundle)] }
def running : Engine := { Engine.fresh with st := .running }
def periodic : State := { valPut (callNo 0x1110 4) 1 (valPut (cRing 0 2) 0 (valPut (cRing 0 1) 1 base)) with now := 62500, time := { base.time with valid := true } }
def quietFolio (a n : Nat) : Folio := ⟨0,0,0,0,0,16,0,[(a,n)],[],[]⟩
def withFolio (f : Folio) (s : State) : State := { s with svc := { s.svc with folios := [f] } }
def okMem (f : MemSt → MemSt) (s : State) : State := { s with mem := f s.mem }
def oneStream (src dur srcid consumer dlog slog maxin dring sring : Nat) : List Byte :=
  leBytes 8 (src + 8 * dur + 256 * srcid + 65536 * consumer + 2 ^ 24 * dlog + 2 ^ 28 * slog + 2 ^ 32 * maxin) ++ leBytes 4 dring ++ leBytes 4 sring
def withStream (l : List Byte) (s : State) : State :=
  { longPut cStreams l s with ledger := { LedgerSt.reset with ready := true } }
def sub0 : List Byte := [0#8,0#8,1#8,0#8, 5#8,0#8,0#8,0#8, 9#8,0#8, 0#8,0#8,0#8,0#8,0#8,0#8, 0x77#8]
def hostStream : State := withStream (oneStream 3 1 0 3 2 0 0 4 0) base
def item0 : LItem := ⟨0, 7, 5, false, 9, [0x77#8], .held, none, none, 0#32, 0#32, false, false, 1, none, false⟩
def withItems (l : List LItem) (s : State) : State := { s with ledger := { s.ledger with items := l } }
def dramUp (s : State) : State := valPut (callNo 0x1900 8) 1 s
def archRun (f : ArchSt → ArchSt) (s : State) : State := { s with arch := f { s.arch with st := 1 } }
def rec0 (n : Nat) : JRec := mkRec 1 false 5 n [1#8] 0
def dOf (s : State) (c : Nat) : Desc := match descOf s c with | some d => d | none => ⟨0, 0, false, 0, 0, 0, 0, ""⟩
def frame (s : State) (r flags ntel cycle hops : Nat) (tels : List Byte) : List Byte :=
  let b := List.replicate 12 0#8 ++ beBytes 2 (valGet s (cRing r 3)) ++ leBytes 1 (1 + flags) ++ leBytes 1 ntel ++ leBytes 2 cycle ++
    leBytes 2 tels.length ++ leBytes 1 (valGet s (cRing r 4)) ++ leBytes 1 hops ++ tels
  withFcs (b ++ List.replicate (60 - b.length) 0#8) false
def tel1 : List Byte := telBytes 1 2 0 0 [1#8, 2#8]
def node0 : State := valPut (cRing 0 1) 2 (setRing 0 { RingSt.off with st := 2, time := some ⟨0, 62500, 0, 1⟩, arrived := some 0 } base)
def master0 : State := valPut (cRing 0 2) 0 (valPut (cRing 0 1) 1 (setRing 0 { RingSt.off with st := 3 } base))
def linked (s : State) : State := valPut (cPort 0 1) 1 (valPut (cPort 1 1) 1 s)
def seg0 : AcySeg := ⟨3, [0x40#8,0#8,0#8,1#8,0#8,0#8,1#8,0#8, 0x55#8], 9, 0, 0, 0⟩
def probe (s : State) (hops : Nat) : List Byte := frame s 0 32 1 5 hops (telBytes 0xFF 0x30 0 0 ((List.range 64).map fun k => BitVec.ofNat 8 (k + 1)))
def linked2 (s : State) : State := valPut (cPort 0 1) 2 (valPut (cPort 1 1) 2 s)
def hostUp : State := valPut cHostAddr 9 { base with boot := { base.boot with vin := true, held := false, stage := 9, steps := 15 } }
def emptyF : HFrame := ⟨0x81, 5, true, 0, 0, 0, []⟩
def folioImg : List Byte :=
  let body := leBytes 4 0x53444C46 ++ [1#8, 16#8, 4#8, 0#8] ++ leBytes 4 62500 ++ leBytes 4 100 ++ leBytes 4 0 ++ [255#8,
    16#8] ++ List.replicate 10 0#8 ++
    leBytes 4 0 ++ leBytes 4 10000 ++ leBytes 4 1 ++ leBytes 4 0 ++ [0x40#8, 0x00#8, 0x00#8, 0x0C#8, 0x00#8, 0x03#8, 0xC0#8]
  leBytes 4 0x4F4C4F46 ++ leBytes 4 7 ++ leBytes 4 1 ++ leBytes 4 311 ++ leBytes 2 1 ++ leBytes 2 0 ++ leBytes 4 256 ++ leBytes 4 304 ++
    List.replicate 28 0#8 ++ beBytes 32 105037115633402761497348667585847053572108683209050401245155241469459143243040 ++ List.replicate 168 0#8 ++ body
def fwImg (v : Nat) : List Byte :=
  leBytes 4 0x46574E45 ++ leBytes 4 v ++ leBytes 4 5 ++ leBytes 4 1 ++ List.replicate 80 0#8 ++ beBytes 32 0x2b4c342f5433ebe591a1da77e013d1b72475562d48578dca8b84bac6651c3cb9 ++ List.replicate 128 0#8 ++ [9#8]
def keyQ (k : Nat) : List Byte :=
  if k = 2 then beBytes 32 0xe4be5a6284cc2903b250018635a72a45ccd475139e3d0a26a34c3a404094a172 ++ beBytes 32 0xc705d425f54bebe2d08c74e61922c7beda4f8c9e8142ad9283c23144eeda865a
  else beBytes 32 0x3a45b6ace8c3bd6506d536b46c743cf49851ad4314aab7e93adee77bb9d68db3 ++ beBytes 32 0x8cae4b94afdded2215261b11977f67db537b20df8e85cd70c1251f711ebf3985
def sigE (k : Nat) : List Byte :=
  let e := beBytes 32 (if k = 2 then 0xe3f6a8645dcc0a7417b888850b12ea0d55c0de9c6ee94287ca1a34e5d7aac7ec else 0x9fad7c7bb12932c1c3bf8bcfea67f73195cb98ac0adaff10da68f6f165cec8f7)
  e ++ e
def lcStateK (k l : Nat) : State :=
  longPut (callNo 0x1030 8) (keyQ 2 ++ keyQ 2 ++ keyQ k ++ keyQ 2) { base with boot := { base.boot with nonce := List.replicate 16 7#8, serial := List.replicate 16 0#8, fuseLc := l, rollback := 3 } }
def lcState (l : Nat) : State := lcStateK 2 l
def lcX (cmd v : Nat) : LcFields := ⟨BitVec.ofNat 32 v, List.replicate 16 7#8, List.replicate 16 0#8, sigE cmd, []⟩
def svcX : SvcFields := ⟨2, 0#8, 0, false, 7#32, 0, 0#16, 0#64, 0#103⟩
def withStage (b : List Byte) (s : State) : State := { s with svc := { s.svc with stages := kvSet [] s.svc.stages 0 b } }
def planB : List Byte := [1#8, 0#8] ++ List.replicate 14 0#8 ++ [0#8, 129#8, 0#8, 0#8]
def linkReq (op : Nat) : LinkReq := ⟨3, op, 9, 700, 0⟩
def withReqs (l : List LinkReq) (s : State) : State := { s with power := { s.power with reqs := l } }
def ck0 : Ckpt := ckptOf Pair.fresh { mv with flag := true }
def restoring (p : Pair) : State := putSlot 0 false ck0 (setPair 0 { p with st := .restoring, phase := .restoring, valid := true, cur := false, count := 2, logN := 1 } base)
/-- The next state of an outcome. -/
def outNext (o : Host.Outcome State Fault Refusal) : Option State := match o with
  | .next t => some t
  | _ => none

/-! ### An ill-formed command for each check, and a well-formed one beside it -/

theorem test_wf_steps : (Instr.bundleIssue 0 ⟨0, 0⟩).wf = false ∧ (Instr.bundleIssue 0 ⟨1, 0⟩).wf = true ∧ (Instr.timedWaitRelease 0 0).wf = false ∧
    (Instr.timedWaitRelease 0 1).wf = true ∧ (Instr.armedStartRelease 0 0).wf = false ∧ (Instr.armedStartRelease 0 1).wf = true := by decide
theorem test_wf_lists : (Instr.xuWordArrival 0 [3, 3]).wf = false ∧ (Instr.xuWordArrival 0 [3, 4]).wf = true ∧
    (Instr.shelfAccess 0 0 [1, 1] 0).wf = false ∧ (Instr.shelfAccess 0 0 [1, 2] 0).wf = true ∧ (Instr.shelfReadRegion 0 [5, 5]).wf = false ∧
    (Instr.shelfReadRegion 0 [72]).wf = false ∧ (Instr.shelfReadRegion 0 [71, 5]).wf = true ∧ (Instr.columnRepairSwap 0 72).wf = false ∧
    (Instr.columnRepairSwap 0 71).wf = true := by decide
theorem test_wf_sizes : (Instr.ledgerStreams .host []).wf = false ∧ (Instr.ledgerStreams .host (List.replicate 4096 0#8)).wf = true ∧
    (Instr.ledgerSubmit (.ring 0 0 (List.replicate 1481 0#8))).wf = false ∧ (Instr.ledgerSubmit (.ring 0 0 [])).wf = true ∧
    (Instr.ledgerSubmit (.host 0#8 (List.replicate 257 0#8))).wf = false ∧ (Instr.ledgerSubmit (.host 0#8 [])).wf = true ∧
    (Instr.folioData 0#8 true 0#32 0#32 (List.replicate 257 0#8)).wf = false ∧ (Instr.folioData 0#8 true 0#32 0#32 [1#8]).wf = true ∧
    (Instr.svcStageChunk .host (List.replicate 4097 0#8)).wf = false ∧ (Instr.svcStageChunk .host [1#8]).wf = true := by decide +kernel
theorem test_wf_windows : (Instr.catalogueRead (.window 0) 0x110006 0 3).wf = false ∧ (Instr.catalogueRead (.window 0) 0x110006 4 8).wf = false ∧
    (Instr.catalogueRead (.window 0) 0x110006 4 4).wf = true ∧ (Instr.catalogueWrite (.window 0) 0x110006 0 [1#8, 2#8, 3#8] true).wf = false ∧
    (Instr.catalogueWrite (.window 0) 0x110006 7 [1#8, 2#8] true).wf = false ∧
    (Instr.catalogueWrite (.window 0) 0x110006 6 [1#8, 2#8] true).wf = true := by decide
theorem test_wf_fields : (Instr.linkUp 0 0).wf = false ∧ (Instr.linkUp 0 2).wf = true ∧ (Instr.phaseFailure 0 600).wf = false ∧
    (Instr.phaseFailure 12 600).wf = true ∧ (Instr.paceEvaluation 0 [1#16]).wf = false ∧ (Instr.paceEvaluation 0 [1#16, 2#16, 3#16, 4#16]).wf = true ∧
    (Instr.pathDelayMeasured 0 []).wf = false ∧ (Instr.pathDelayMeasured 0 [200]).wf = true ∧ (Instr.dbgOpen []).wf = false ∧
    (Instr.dbgOpen (List.replicate 64 0#8)).wf = true := by decide
theorem test_wf_lifecycle : (Instr.provision .host ⟨0#32, [], [], [], []⟩).wf = false ∧ (Instr.field .host ⟨0#32, [], [], [], []⟩).wf = false ∧
    (Instr.service .host ⟨0#32, [], [], [], []⟩).wf = false ∧ (Instr.retire .host ⟨0#32, [], [], [], []⟩).wf = false ∧
    (Instr.advance .host ⟨0#32, [], [], [], []⟩).wf = false ∧
    (Instr.advance .host ⟨5#32, List.replicate 16 0#8, List.replicate 16 0#8, List.replicate 64 0#8, List.replicate 27 0#8⟩).wf = true := by decide

/-! ### Examples of the specification, and published test values -/

/-- Table 04-5: the encodings of single parcels. -/
theorem test_parcels : pClass 0x234C = 2 ∧ pSrc 0x234C = 13 ∧ pDst 0x234C = 12 ∧ pSrc 0x012D = 4 ∧ pDst 0x012D = 45 ∧ pSrc 0x0FB2 = 62 ∧
    pDst 0x0FB2 = 50 ∧ pClass 0x3F38 = 3 ∧ pLit 0x3F38 = 0xF38 := by decide
/-- Table 04-6: a bundle of three literals and one move, its place among 56 bits and its literal. -/
theorem test_bundle : packBundle 0x3008 0x3031 0x3F40 0x0F87 = 0x3E1FF40C0C7008#56 ∧ litValue 0x3E1FF40C0C7008#56 = 0x08031F40#32 ∧
    execMoves 0x3E1FF40C0C7008#56 false = [⟨62, 7⟩] := by decide +kernel
/-- Table 05-15: PERM. -/
theorem test_perm : bfuResult 0x0123000E 0x44332211 0x88776655 = 0x11223344#32 ∧ bfuResult 0x5140000E 0x44332211 0x88776655 = 0x66225511#32 ∧
    bfuResult 0x9910000E 0x000080FF 0 = 0xFFFF80FF#32 ∧ bfuResult 0x8880000E 0x12340080 0 = 0xFFFFFF80#32 := by decide +kernel
/-- Table 06-11: FSUB, FMA twice and FTOI of one control loop. -/
theorem test_fpu : (fpuResult 1 0x40200000 0x40100000 0).1 = 0x3E800000#32 ∧ (fpuResult 3 0x3E800000 0x43C80000 0x447A0000).1 = 0x44898000#32 ∧
    (fpuResult 3 0x3E800000 0x45FA0000 0x44898000).1 = 0x4541C000#32 ∧ (fpuResult 0x12 0x4541C000 0 0).1 = 0xC1C#32 := by decide +kernel
/-- Chapter 0: pair P77 lies in tile 19, with engines 154 and 155. -/
theorem test_numbers : pairTile 77 = 19 ∧ mainOf 77 = 154 ∧ checkerOf 77 = 155 ∧ tileOf 155 = 19 ∧ pairOf 155 = 77 := by decide
/-- Table 17-12: the bytes of READ_RESP but for its CRC. -/
theorem test_read_resp : (frameBytes ⟨0x81, 7, true, 0, 0x160112, 0, [0x01#8, 0xFF#8, 0x10#8, 0x3A#8]⟩).take 20 =
    [0x81#8, 0x07#8, 0x01#8, 0x00#8, 0x04#8, 0x00#8, 0x00#8, 0x00#8, 0x12#8, 0x01#8, 0x16#8, 0x00#8, 0x00#8, 0x00#8, 0x00#8, 0x00#8,
     0x01#8, 0xFF#8, 0x10#8, 0x3A#8] := by decide +kernel
/-- FIPS 180-4: SHA-256 of the three bytes abc. -/
theorem test_sha256 : beNat (sha256 [0x61#8, 0x62#8, 0x63#8]) = 0xBA7816BF8F01CFEA414140DE5DAE2223B00361A396177A9CB410FF61F20015AD := by decide +kernel
/-- FIPS 186-5: a key chosen so that both multiples are 1 (the point is G + Q), on the message of one zero byte. -/
theorem test_ecdsa : ecdsaValid
    (beBytes 32 0x82ac2eec7a72ac40bc4bbd8b885530620755e3ac4e15d121c491ab4e9257f108 ++ beBytes 32 0x2158d1a997b199ebfdcb727bb977b8be8f9f27f7e5c7c60c61fbbea43f0e7de9)
    (beBytes 32 0x6e340b9cffb37a989ca544e6bb780a2c78901d3fb33738768511a30617afa01d ++ beBytes 32 0x6e340b9cffb37a989ca544e6bb780a2c78901d3fb33738768511a30617afa01d)
    [0#8] = true := by decide +kernel

/-! ### Single commands -/

/-- READ of an entry of 4 bytes on the host route gives it low byte first (R334). -/
theorem test_catalogue_read : (outNext (exec (.catalogueRead .host 0x110006 0 4) (valPut (callNo 0x1100 6) 0x01020304 base))).map (fun t => t.cat.reply) =
    some (some ⟨3, 0x110006, 0, [4#8, 3#8, 2#8, 1#8]⟩) := by decide +kernel
/-- A write of an entry that can only be read fails with its abort code, and is counted (R335). -/
theorem test_catalogue_refusal : ((outNext (exec (.catalogueWrite .host 0x100001 0 [1#8, 0#8, 0#8, 0#8] true) base)).map fun t => valGet t (callNo 0x1020 3)) =
    some 1 := by decide +kernel
/-- DOORBELL to engine 74 (chapter 17): the word enters its queue and source 30 is pending. -/
theorem test_doorbell : ((outNext (exec (.doorbell 8#8 74#32 3#32) (asSplit 37 hostUp))).map fun t => ((getEng t 74).rq.words, (getEng t 74).exc.irqpend.getLsbD 30)) =
    some ([3#32], true) := by decide +kernel
/-- GETBCR gives 0x26 (Table 17-1). -/
theorem test_getbcr : ((outNext (exec .getbcr hostUp)).map fun t => t.host.out) = some [0x26#8] := by decide +kernel
/-- An empty queue answers the empty frame (R393). -/
theorem test_private_read : ((outNext (exec .privateRead hostUp)).map fun t => t.host.queue.length) = some 0 := by decide +kernel

/-! ### How the hypotheses are shown -/

theorem inv_ok (s : State) (h : (Memory.wf s.mem.bytes && tablesWf s && decide (s.host.queue.length ≤ 32) && (s.log.recs.all fun x => decide (x.1 < 64)) &&
    decide ((s.power.reqs.map LinkReq.rail).Nodup)) = true) : Inv s := by
  simp only [Bool.and_eq_true, decide_eq_true_eq, List.all_eq_true] at h
  exact ⟨h.1.1.1.1, h.1.1.1.2, h.1.1.2, h.1.2, h.2⟩
theorem kvGet_all {α : Type} {d : α} {m : Kv α} (P : α → Prop) (hd : P d) (hm : ∀ x ∈ m, P x.2) (k : Nat) : P (kvGet d m k) := by
  induction m with
  | nil => exact hd
  | cons a l ih =>
    obtain ⟨i, v⟩ := a
    simp only [kvGet]
    split
    · exact hm (i, v) (List.mem_cons_self ..)
    · exact ih fun x hx => hm x (List.mem_cons_of_mem _ hx)
theorem noRestart_ok (s : State) (h : ∀ x ∈ s.pair, x.2.phase = .none) : noRestart s := fun m => kvGet_all (fun p : Pair => p.phase = .none) rfl h m
theorem noJobs_ok (s : State) (h : s.svc.queue = [] ∧ s.svc.waiting = none ∧ s.svc.unloads = [] ∧ ∀ x ∈ s.svc.jobs, x.2.st ≠ 1) : noJobs s :=
  ⟨h.1, h.2.1, h.2.2.1, fun j => kvGet_all (fun p : Job => p.st ≠ 1) (by decide) h.2.2.2 j⟩
theorem bundleNext_ok (e : Engine) (ms : List Move) (h : e.heldLsu = false ∧ e.traps = [] ∧ e.mulP = [] ∧ e.fpuP = [] ∧ e.exc.due = [] ∧ e.exc.keep = [] ∧
    e.exc.atomic = none ∧ e.exc.fresh = none ∧ e.exc.rfe = false ∧ e.pos.pc < 8191 ∧ kvWf 0#32 e.g = true ∧ (fetchBundle e).2 = false ∧ execMoves (fetchBundle e).1 e.flag = ms ∧
    anyClash ms = false ∧ namesReserved (fetchBundle e).1 = false) : BundleNext e ms := by
  obtain ⟨a, b, c, d, f, g, h1, h2, hr, h3, h4, h5, h6, h7, h8⟩ := h
  exact ⟨a, b, c, d, f, g, h1, h2, hr, h3, h4, (fetchBundle e).1, Prod.ext rfl h5, h6, h7, h8⟩
theorem zeros_mask (n : Nat) : maskStreams (List.replicate n 0#8) = List.replicate n 0#8 := by
  unfold maskStreams
  rw [List.length_replicate, List.eq_replicate_iff]
  refine ⟨by simp, fun b hb => ?_⟩
  obtain ⟨j, -, rfl⟩ := List.mem_map.1 hb
  have : (List.replicate n 0#8).getD j 0#8 = 0#8 := by simp [List.getD_eq_getElem?_getD, List.getElem?_replicate]; split <;> rfl
  rw [this]
  split <;> rfl
theorem zeros_bytes (n o k : Nat) : bytesAt (List.replicate n 0#8) o k = List.replicate k 0#8 := by
  simp only [bytesAt, List.drop_replicate, List.take_replicate, List.length_replicate]
  rw [show (0 : Byte) = 0#8 from rfl, List.replicate_append_replicate]; congr 1; omega
theorem zeros_field (n o k : Nat) : fieldAt (List.replicate n 0#8) o k = 0 := by
  simp only [fieldAt, zeros_bytes]
  induction k with
  | zero => rfl
  | succ k ih => simp [List.replicate_succ, leNat, ih]
theorem zeros_streams (s : State) (h : ∀ k, inflightOn s k = 0) : streamsCode s (maskStreams (List.replicate 4096 0#8)) = 0 := by
  rw [zeros_mask]
  have hr : ∀ k, recOf (List.replicate 4096 0#8) k = recOf [] k := fun k => by
    have h0 : ∀ o n, fieldAt [] o n = 0 := fun o n => zeros_field 0 o n
    simp only [recOf, zeros_field, h0]
  have hm : (List.range 256).map (recOf (List.replicate 4096 0#8)) = (List.range 256).map (recOf []) := List.map_congr_left fun k _ => hr k
  unfold streamsCode
  rw [hm]
  have h2 : ∀ f : Nat → Bool, ((List.range 256).any fun k => f k && decide (0 < inflightOn s k)) = false := fun f =>
    List.any_eq_false.2 fun k _ => by rw [h k]; cases f k <;> decide
  rw [h2]
  decide +kernel

/-! ### States that meet the hypotheses of the statements -/

theorem meets_RegisterMovesReadFirst :
    ∃ (n : Fin 256) (l : Nat) (c : Bool) (s : State) (ms : List Move), alone s n ∧ noMerge s n ∧ s.svc.unloads = [] ∧ bundleNext s n = true ∧
      (getEng s n).cmd = 0 ∧ MovesNext (getEng s n) ms ∧ (getEng s n).pos = { Pos.start (getEng s n).pos.pc with lastpc := l, cntOwn := c } :=
  ⟨0, 0, false, asSplit 0 (setEng 0 mv base), [⟨1,0⟩], (by unfold alone; decide +kernel), (by unfold noMerge; decide +kernel), (by decide +kernel),
    (by decide +kernel), (by decide +kernel), ⟨bundleNext_ok _ _ (by decide +kernel), by decide +kernel⟩, (by decide +kernel)⟩

theorem meets_ParityRaisesException :
    ∃ (n : Fin 256) (u : Fin 16) (s : State), u ≠ 0 ∧ alone s n ∧ noMerge s n ∧ s.svc.unloads = [] ∧ bundleNext s n = true ∧ (getEng s n).cmd = 0 ∧
      (getEng s n).pos.loop = none ∧ (getEng s n).pos.ins = 0 ∧ (getEng s n).pos.kill = 0 :=
  ⟨0, 5, asSplit 0 (setEng 0 mv base), (by decide +kernel), (by unfold alone; decide +kernel), (by unfold noMerge; decide +kernel),
    (by decide +kernel), (by decide +kernel), (by decide +kernel), (by decide +kernel), (by decide +kernel), (by decide +kernel)⟩

theorem meets_ReleasesAtTheTarget :
    (∃ (n : Fin 256) (l : Nat) (c : Bool) (mi : Bool) (s : State) (ms : List Move) (w : WaitSt), Inv s ∧ alone s n ∧ noMerge s n ∧
      (getEng s n).st = .held ∧ (getEng s n).cmd = 0 ∧ MovesNext (getEng s n) ms ∧
      (getEng s n).pos = { Pos.start (getEng s n).pos.pc with lastpc := l, cntOwn := c, missed := mi, wait := some w } ∧ w.late = false ∧
      releases s n = true ∧ (getTile s (tileOf n)).lost = false ∧ w.target ≤ s.now + 2 ∧ ((s.now ≤ w.target + 2 ∨ mi = true))) ∧
    (∃ (n : Fin 256) (l : Nat) (c : Bool) (mi : Bool) (s : State) (ms : List Move), Inv s ∧ alone s n ∧ noMerge s n ∧ (getEng s n).st = .armed ∧
      (getEng s n).cmd = 0 ∧ MovesNext (getEng s n) ms ∧
      (getEng s n).pos = { Pos.start (getEng s n).pos.pc with lastpc := l, cntOwn := c, missed := mi } ∧ releases s n = true ∧
      (getTile s (tileOf n)).lost = false ∧ valGet s (cEng n 5) ≤ s.now + 2 ∧ ((s.now ≤ valGet s (cEng n 5) + 2 ∨ mi = true))) :=
  ⟨⟨0, 0, false, false,
    asSplit 0 (setTile 0 { Tile.on with lock := true } (setEng 0 { mv with st := .held, pos := { mv.pos with wait := some ⟨1,4,0,0,false,false⟩ } } base)),
    [⟨1,0⟩], ⟨1,4,0,0,false,false⟩, inv_ok _ (by decide +kernel), (by unfold alone; decide +kernel), (by unfold noMerge; decide +kernel),
    (by decide +kernel), (by decide +kernel), ⟨bundleNext_ok _ _ (by decide +kernel), by decide +kernel⟩, (by decide +kernel), (by decide +kernel),
    (by decide +kernel), (by decide +kernel), (by decide +kernel), (by decide +kernel)⟩,
   ⟨0, 0, false, false, asSplit 0 (setTile 0 { Tile.on with lock := true } (setEng 0 { mv with st := .armed } base)), [⟨1,0⟩],
     inv_ok _ (by decide +kernel), (by unfold alone; decide +kernel), (by unfold noMerge; decide +kernel), (by decide +kernel), (by decide +kernel),
     ⟨bundleNext_ok _ _ (by decide +kernel), by decide +kernel⟩, (by decide +kernel), (by decide +kernel), (by decide +kernel), (by decide +kernel),
     (by decide +kernel)⟩⟩

theorem meets_ExceptionEntryTakesTheLowestCode :
    ∃ (n : Fin 256) (s : State) (d : Due), Inv s ∧ alone s n ∧ noMerge s n ∧ (getEng s n).st = .running ∧ (getEng s n).pos.ins = 0 ∧
      (getEng s n).exc.rfe = false ∧ (getEng s n).exc.atomic = none ∧ (getEng s n).exc.dframe = none ∧ (getEng s n).exc.frames.length < 8 ∧
      lowestDue (getEng s n).exc.due = some d ∧ d.first = false :=
  ⟨0, asSplit 0 (setEng 0 { running with exc := { ExcSt.start with due := [⟨8,1,false,false,false⟩, ⟨2,5,false,false,false⟩] } } base),
    ⟨2,5,false,false,false⟩, inv_ok _ (by decide +kernel), (by unfold alone; decide +kernel), (by unfold noMerge; decide +kernel),
    (by decide +kernel), (by decide +kernel), (by decide +kernel), (by decide +kernel), (by decide +kernel), (by decide +kernel),
    (by decide +kernel), (by decide +kernel)⟩

theorem meets_InterruptEntryAndEvent :
    (∃ (k : Fin 32) (n : Fin 256) (s : State), Inv s ∧ alone s n ∧ ownSource k = true) ∧
    (∃ (k : Fin 32) (s : State), Inv s ∧ noRestart s ∧ ownSource k = false) ∧
    (∃ (n : Fin 256) (tk : Option (Fin 32)) (s : State) (a : State) (k : Nat) (j : Nat), Inv s ∧ alone s n ∧ noMerge s n ∧ (getEng s n).cmd = 0 ∧
      irqTaken s n = some k ∧ a = (match tk with | some o => setPend n o s | none => s) ∧ irqTaken a n = some j) :=
  ⟨⟨0, 0, asSplit 0 base, inv_ok _ (by decide +kernel), (by unfold alone; decide +kernel), (by decide +kernel)⟩,
   ⟨29, base, inv_ok _ (by decide +kernel), noRestart_ok _ (by decide +kernel), (by decide +kernel)⟩,
   ⟨0, none, asSplit 0 (setEng 0 { running with exc := { ExcSt.start with irqen := 3#32, irqpend := 1#32, irqlvl := [(0,5),(1,6)] } } base),
     (asSplit 0 (setEng 0 { running with exc := { ExcSt.start with irqen := 3#32, irqpend := 1#32, irqlvl := [(0,5),(1,6)] } } base)), 0, 0,
     inv_ok _ (by decide +kernel), (by unfold alone; decide +kernel), (by unfold noMerge; decide +kernel), (by decide +kernel), (by decide +kernel),
     (by decide +kernel), (by decide +kernel)⟩⟩

theorem meets_LoadReturnsItsBytes :
    ∃ (n : Fin 256) (s : State) (l : LoadOp) (pa : Nat), Inv s ∧ alone s n ∧ (getEng s n).past = [] ∧ nextReturn (getEng s n) = some l ∧
      l.perf = none ∧ l.logged = none ∧ l.width < 4 ∧ l.lock = false ∧ l.drop = false ∧ l.place = .phys pa ∧ inMemory pa ∧
      loadPath (getEng s n) l = .target ∧ lockedOut s n (.phys pa) (2 ^ l.width) = false ∧ readyNow s pa (2 ^ l.width) ∧
      cleanWords s pa (2 ^ l.width) :=
  ⟨0,
    asSplit 0 { setEng 0 { running with heldLsu := true, ldq := [({ ctx := 0, addr := 0#32, place := .phys paShelf, width := 2, sx := false, lock := false, last := false, drain := false, left := 1, data := none, perf := none, err := 0, drop := false, seq := 0, logged := none } : LoadOp)] } base with mem := { MemSt.reset with bytes := [⟨paShelf, 5#8⟩, ⟨paShelf+1, 6#8⟩] } },
    ({ ctx := 0, addr := 0#32, place := .phys paShelf, width := 2, sx := false, lock := false, last := false, drain := false, left := 1, data := none, perf := none, err := 0, drop := false, seq := 0, logged := none } : LoadOp),
    paShelf, inv_ok _ (by decide +kernel), (by unfold alone; decide +kernel), (by decide +kernel), (by decide +kernel), (by decide +kernel),
    (by decide +kernel), (by decide +kernel), (by decide +kernel), (by decide +kernel), (by decide +kernel), (Or.inr ⟨0, 0,
    by delta physKind dramSize; cases Config.m8i <;> rfl⟩), (by decide +kernel),
    (by delta lockedOut targetsOf physKind dramSize; cases Config.m8i <;> decide +kernel),
    (by delta readyNow byteReady physKind dramSize; cases Config.m8i <;> decide +kernel), (by unfold cleanWords; decide +kernel)⟩

theorem meets_StoreWritesItsBytes :
    ∃ (n : Fin 256) (s : State) (o : StoreOp) (pa : Nat), Inv s ∧ (storesOf (getEng s n)).head? = some o ∧ o.released = true ∧ o.lock = false ∧
      o.width < 4 ∧ o.place = .phys pa ∧ inMemory pa ∧ lockedOut s n (.phys pa) (2 ^ o.width) = false ∧ readyNow s pa (2 ^ o.width) ∧
      cleanWords s pa (2 ^ o.width) :=
  ⟨0,
    setEng 0 { running with stb := [({ addr := 0#32, place := .phys paShelf, width := 2, data := 0x01020304#64, lock := false, last := false, pc := 0, released := true, seq := 0, taken := false } : StoreOp)] } base,
    ({ addr := 0#32, place := .phys paShelf, width := 2, data := 0x01020304#64, lock := false, last := false, pc := 0, released := true, seq := 0, taken := false } : StoreOp),
    paShelf, inv_ok _ (by decide +kernel), (by decide +kernel), (by decide +kernel), (by decide +kernel), (by decide +kernel), (by decide +kernel),
    (Or.inr ⟨0, 0, by delta physKind dramSize; cases Config.m8i <;> rfl⟩),
    (by delta lockedOut targetsOf physKind dramSize; cases Config.m8i <;> decide +kernel),
    (by delta readyNow byteReady physKind dramSize; cases Config.m8i <;> decide +kernel), (by unfold cleanWords; decide +kernel)⟩

theorem meets_StallStepHoldsTheBundle :
    ∃ (n : Fin 256) (s : State) (w : Bundle), Inv s ∧ alone s n ∧ noMerge s n ∧ mayIssue s n = true ∧ (getEng s n).pos.ins = 0 ∧
      (getEng s n).pos.kill = 0 ∧ (getEng s n).exc.atomic = none ∧ fetchBundle (getEng s n) = (w, false) ∧
      ((execMoves w (getEng s n).flag).any fun m => m.src == 31) = true ∧ (ldqHead (getEng s n)).isSome = true ∧ ldqValue (getEng s n) = none :=
  ⟨0,
    asSplit 0 (setEng 0 { running with ldq := [({ ctx := 0, addr := 0#32, place := .phys paShelf, width := 2, sx := false, lock := false, last := false, drain := false, left := 1, data := none, perf := none, err := 0, drop := false, seq := 0, logged := none } : LoadOp)], pmem := [(0, packBundle (31*64) 0x3000 0x3000 0x3000)] } base),
    packBundle (31*64) 0x3000 0x3000 0x3000, inv_ok _ (by decide +kernel), (by unfold alone; decide +kernel), (by unfold noMerge; decide +kernel),
    (by decide +kernel), (by decide +kernel), (by decide +kernel), (by decide +kernel), (by decide +kernel), (by decide +kernel),
    (by decide +kernel), (by decide +kernel)⟩

theorem meets_AtomicOverrunRaises :
    ∃ (n : Fin 256) (s : State) (a : Atomic), Inv s ∧ alone s n ∧ (getEng s n).exc.atomic = some a ∧ a.left = 0 ∧ (getEng s n).pos.ins = 0 :=
  ⟨0, asSplit 0 (setEng 0 { running with exc := { ExcSt.start with atomic := some ⟨0,3,0⟩ } } base), ⟨0,3,0⟩, inv_ok _ (by decide +kernel),
    (by unfold alone; decide +kernel), (by decide +kernel), (by decide +kernel), (by decide +kernel)⟩

theorem meets_MeterCountsAndPays :
    (∃ (t : Fin 32) (s : State) (a : Nat) (x : Nat), Inv s ∧ (getTile s t).dom = 0 ∧ (((getTile s t).debt = 0 ∨ (getTile s t).relStep = true)) ∧
      valGet s (cTile t 0x11) = 0 ∧ (∀ e : Nat, e < 8 → (getEng s (8 * t + e)).marked = none) ∧
      a = ((List.range 8).map fun e => (getEng s (8 * t + e)).actNow).sum ∧
      x = min a (((getTile s t).window.take 15).sum + a - valGet s (cTile t 0x10))) ∧
    (∃ (t : Fin 32) (s : State), Inv s ∧ (getTile s t).dom = 0 ∧ 1 < (getTile s t).debt ∧ (getTile s t).relStep = false ∧ (∀ e : Nat,
      e < 8 → alone s (8 * t + e))) :=
  ⟨⟨0, valPut (cTile 0 0x10) 2 (setEng 1 { running with actNow := 3 } base), 3, 1, inv_ok _ (by decide +kernel), (by decide +kernel),
    (by decide +kernel), (by decide +kernel), (by decide +kernel), (by decide +kernel), (by decide +kernel)⟩,
   ⟨0, setTile 0 { Tile.on with debt := 2 } (asSplit 0 (asSplit 1 (asSplit 2 (asSplit 3 (setEng 0 running base))))), inv_ok _ (by decide +kernel),
     (by decide +kernel), (by decide +kernel), (by decide +kernel), (by unfold alone; decide +kernel)⟩⟩

theorem meets_WordsReachTheirQueue :
    (∃ (n : Fin 256) (x : Fin 257) (s : State) (f : XuWord), Inv s ∧ alone s n ∧ (getPair s (pairOf n)).taker = none ∧
      (getTile s (tileOf n)).dom = 0 ∧ kvGet 0 s.power.entry (512 + tileOf n) = 0 ∧ (∀ w ∈ s.net.waiting,
      queueOwner s w.dst = n.val → s.now < w.stamp.getD 0) ∧ flightOf s x n = some f ∧ f.stamp = none ∧ (getEng s n).rq.words.length < 64) ∧
    (∃ (n : Fin 256) (x : Fin 257) (s : State) (f : XuWord), Inv s ∧ alone s n ∧ (getPair s (pairOf n)).taker = none ∧
      (getTile s (tileOf n)).dom = 0 ∧ kvGet 0 s.power.entry (512 + tileOf n) = 0 ∧ (∀ w ∈ s.net.waiting,
      queueOwner s w.dst = n.val → s.now < w.stamp.getD 0) ∧ flightOf s x n = some f ∧ f.stamp = none ∧ 64 ≤ (getEng s n).rq.words.length) ∧
    (∃ (x : Fin 257) (y : Fin 257), x < y) ∧
    (∃ (l : List (Fin 257)) (m : List (Fin 257)), l.Perm m) ∧
    (∃ (n : Fin 256) (s : State) (f : XuWord), Inv s ∧ alone s n ∧ (getPair s (pairOf n)).taker = none ∧ (getTile s (tileOf n)).dom = 0 ∧
      f ∈ s.net.waiting ∧ f.dst = n.val ∧ (s.net.waiting.filter fun w => queueOwner s w.dst == n.val && decide (w.stamp.getD 0 ≤ s.now + 2)) = [f] ∧
      (getEng s n).rq.words.length < 64) :=
  ⟨⟨0, 3, asSplit 0 { base with net := { base.net with flights := [⟨3, 0, 7#32, none, none⟩] } }, ⟨3, 0, 7#32, none, none⟩,
    inv_ok _ (by decide +kernel), (by unfold alone; decide +kernel), (by decide +kernel), (by decide +kernel), (by decide +kernel),
    (by decide +kernel), (by decide +kernel), (by decide +kernel), (by decide +kernel)⟩,
   ⟨0, 3,
     asSplit 0 (setEng 0 { running with rq := ⟨List.replicate 64 1#32, false, false⟩ } { base with net := { base.net with flights := [⟨3, 0, 7#32, none, none⟩] } }),
     ⟨3, 0, 7#32, none, none⟩, inv_ok _ (by decide +kernel), (by unfold alone; decide +kernel), (by decide +kernel), (by decide +kernel),
     (by decide +kernel), (by decide +kernel), (by decide +kernel), (by decide +kernel), (by decide +kernel)⟩,
   ⟨3, 9, (by decide +kernel)⟩,
   ⟨[3, 7], [7, 3], (by decide +kernel)⟩,
   ⟨0, asSplit 0 { base with net := { base.net with waiting := [⟨3, 0, 7#32, some 2, none⟩, ⟨3, 2, 7#32, some 9, none⟩] } }, ⟨3, 0, 7#32, some 2,
     none⟩, inv_ok _ (by decide +kernel), (by unfold alone; decide +kernel), (by decide +kernel), (by decide +kernel), (by decide +kernel),
     (by decide +kernel), (by decide +kernel), (by decide +kernel)⟩⟩

theorem meets_EngineCommands :
    (∃ (r : Route) (n : Fin 256) (s : State), Inv s ∧ serves s r (cEng n 2) ∧ alone s n ∧ noMerge s n ∧ awake s (.tile (Fin.ofNat 32 (n / 8))) ∧
      (getEng s n).st = .halted ∧ startBarred s = false ∧ paceReady s (tileOf n) = true) ∧
    (∃ (r : Route) (n : Fin 256) (s : State), Inv s ∧ serves s r (cEng n 2) ∧ alone s n ∧ noMerge s n ∧ awake s (.tile (Fin.ofNat 32 (n / 8))) ∧
      ((getEng s n).st = .running ∨ (getEng s n).st = .held ∨ (getEng s n).st = .armed ∨ (getEng s n).st = .debug) ∧ holdsCommand s n = false) ∧
    (∃ (r : Route) (n : Fin 256) (s : State), Inv s ∧ serves s r (cEng n 2) ∧ alone s n ∧ noMerge s n ∧ awake s (.tile (Fin.ofNat 32 (n / 8))) ∧
      ((getEng s n).st = .running ∨ (getEng s n).st = .held) ∧ holdsCommand s n = false ∧ valGet s (callNo 0x1510 0x0C) ≠ 0) ∧
    (∃ (r : Route) (n : Fin 256) (s : State), Inv s ∧ serves s r (cEng n 2) ∧ alone s n ∧ noMerge s n ∧ awake s (.tile (Fin.ofNat 32 (n / 8))) ∧
      (getEng s n).st = .debug ∧ (getEng s n).pos.wait = none ∧ valGet s (callNo 0x1510 0x0C) ≠ 0) ∧
    (∃ (r : Route) (n : Fin 256) (s : State) (ms : List Move) (l : Nat) (c : Bool), Inv s ∧ serves s r (cEng n 2) ∧ alone s n ∧ noMerge s n ∧
      awake s (.tile (Fin.ofNat 32 (n / 8))) ∧ (getEng s n).st = .debug ∧ MovesNext (getEng s n) ms ∧
      (getEng s n).pos = { Pos.start (getEng s n).pos.pc with lastpc := l, cntOwn := c } ∧ valGet s (callNo 0x1510 0x0C) ≠ 0 ∧
      bundleNext (setEng n { getEng s n with st := .running, cmd := 5 } s) n = true) ∧
    (∃ (r : Route) (n : Fin 256) (s : State), Inv s ∧ serves s r (cEng n 2) ∧ alone s n ∧ noMerge s n ∧ awake s (.tile (Fin.ofNat 32 (n / 8))) ∧
      ((getEng s n).st = .running ∨ (getEng s n).st = .held ∨ (getEng s n).st = .halted ∨ (getEng s n).st = .armed ∨ (getEng s n).st = .debug) ∧
      holdsCommand s n = false) :=
  ⟨⟨.host, 0, asSplit 0 base, inv_ok _ (by decide +kernel), (by unfold serves; decide +kernel), (by unfold alone; decide +kernel),
    (by unfold noMerge; decide +kernel), (by unfold awake; decide +kernel), (by decide +kernel), (by decide +kernel), (by decide +kernel)⟩,
   ⟨.host, 0, asSplit 0 (setEng 0 mv base), inv_ok _ (by decide +kernel), (by unfold serves; decide +kernel), (by unfold alone; decide +kernel),
     (by unfold noMerge; decide +kernel), (by unfold awake; decide +kernel), (by decide +kernel), (by decide +kernel)⟩,
   ⟨.host, 0, dbgOpened (asSplit 0 (setEng 0 mv base)), inv_ok _ (by decide +kernel), (by unfold serves; decide +kernel),
     (by unfold alone; decide +kernel), (by unfold noMerge; decide +kernel), (by unfold awake; decide +kernel), (by decide +kernel),
     (by decide +kernel), (by decide +kernel)⟩,
   ⟨.host, 0, dbgOpened (asSplit 0 (setEng 0 { mv with st := .debug } base)), inv_ok _ (by decide +kernel), (by unfold serves; decide +kernel),
     (by unfold alone; decide +kernel), (by unfold noMerge; decide +kernel), (by unfold awake; decide +kernel), (by decide +kernel),
     (by decide +kernel), (by decide +kernel)⟩,
   ⟨.host, 0, dbgOpened (asSplit 0 (setEng 0 { mv with st := .debug } base)), [⟨1,0⟩], 0, false, inv_ok _ (by decide +kernel),
     (by unfold serves; decide +kernel), (by unfold alone; decide +kernel), (by unfold noMerge; decide +kernel), (by unfold awake; decide +kernel),
     (by decide +kernel), ⟨bundleNext_ok _ _ (by decide +kernel), by decide +kernel⟩, (by decide +kernel), (by decide +kernel), (by decide +kernel)⟩,
   ⟨.host, 0, asSplit 0 (setEng 0 mv base), inv_ok _ (by decide +kernel), (by unfold serves; decide +kernel), (by unfold alone; decide +kernel),
     (by unfold noMerge; decide +kernel), (by unfold awake; decide +kernel), (by decide +kernel), (by decide +kernel)⟩⟩

theorem meets_CapturesFallDueAndAreTaken :
    (∃ (m : Fin 128) (s : State), Inv s ∧ countsChecked (getPair s m) = true ∧ valGet s (cPair m 4) ≠ 0 ∧
      valGet s (cPair m 4) ≤ (getPair s m).sinceCap) ∧
    (∃ (m : Fin 128) (s : State), Inv s ∧ countsChecked (getPair s m) = true ∧ (getPair s m).logKept = false ∧ 1344 ≤ (getPair s m).logN) ∧
    (∃ (m : Fin 128) (s : State) (c : Ckpt), Inv s ∧ noJobs s ∧ (getPair s m).st = .checked ∧ (getPair s m).phase = .none ∧
      (getPair s m).chain = [] ∧ (getPair s m).mig = none ∧ (getPair s m).cmdDue = false ∧ (getPair s m).logKept = false ∧
      (getPair s m).logN < 1344 ∧ (getPair s m).capDue = true ∧ captureAllowed s m = true ∧
      c = ckptOf (getPair s m) (landAll (getEng s (mainOf m))) ∧
      ckptBits c = ckptBits (checkerCkpt (getPair s m) c (landAll (getEng s (checkerOf m))))) :=
  ⟨⟨127, valPut (cPair 127 4) 3 (setPair 127 { Pair.fresh with st := .checked, sinceCap := 3 } base), inv_ok _ (by decide +kernel),
    (by decide +kernel), (by decide +kernel), (by decide +kernel)⟩,
   ⟨0, setPair 0 { Pair.fresh with st := .checked, logN := 1344 } base, inv_ok _ (by decide +kernel), (by decide +kernel), (by decide +kernel),
     (by decide +kernel)⟩,
   ⟨0,
     setPair 0 { Pair.fresh with st := .checked, capDue := true, logN := 1, count := 3 } (setEng 0 mv (setEng 1 { mv with st := .following } base)),
     ckptOf (getPair (setPair 0 { Pair.fresh with st := .checked, capDue := true, logN := 1, count := 3 } (setEng 0 mv (setEng 1 { mv with st := .following } base))) 0) (landAll (getEng (setPair 0 { Pair.fresh with st := .checked, capDue := true, logN := 1, count := 3 } (setEng 0 mv (setEng 1 { mv with st := .following } base))) 0)),
     inv_ok _ (by decide +kernel), noJobs_ok _ (by decide +kernel), (by decide +kernel), (by decide +kernel), (by decide +kernel),
     (by decide +kernel), (by decide +kernel), (by decide +kernel), (by decide +kernel), (by decide +kernel), (by decide +kernel), rfl,
     (by decide +kernel)⟩⟩

/-- A pair whose last slot and log lie in its bank 7. -/
theorem slot_ok (p : Option Ckpt × State) (d : Ckpt) (s : State) (h : p.1.isSome = true) (h2 : p.2 = s) : p = (some (p.1.getD d), s) := by
  obtain ⟨o, t⟩ := p
  cases o with
  | none => cases h
  | some c => cases h2; rfl
set_option maxRecDepth 50000 in
theorem restoring_inv : Machine.Inv (restoring Pair.fresh) := inv_ok _ (by decide +kernel)
set_option maxRecDepth 50000 in
theorem restoring_slot : (readSlot 0 false (restoring Pair.fresh)).1.isSome = true := by decide +kernel
set_option maxRecDepth 50000 in
theorem restoring_same : (readSlot 0 false (restoring Pair.fresh)).2 = restoring Pair.fresh := by decide +kernel
set_option maxRecDepth 50000 in
theorem restoring_log : (readLog 0 (restoring Pair.fresh)).2 = (true, restoring Pair.fresh) := by decide +kernel
set_option maxRecDepth 50000 in
theorem restoring_pair : (getPair (restoring Pair.fresh) 0).phase = .restoring ∧ (getPair (restoring Pair.fresh) 0).valid = true ∧
    (getPair (restoring Pair.fresh) 0).cur = false ∧ promiseBit (restoring Pair.fresh) 2 = false := by decide +kernel
theorem pair_ok {α β : Type} (p : α × β) (b : β) (h : p.2 = b) : p = (p.1, b) := by cases h; rfl

theorem meets_RestartRestoresAndReplays :
    (∃ (m : Fin 128) (s : State), Inv s ∧ (getPair s m).phase = .resetting) ∧
    (∃ (m : Fin 128) (s : State) (c : Ckpt) (recs : List LogRec), Inv s ∧ (getPair s m).phase = .restoring ∧ (getPair s m).valid = true ∧
      readSlot m (getPair s m).cur s = (some c, s) ∧ readLog m s = (recs, true, s)) ∧
    (∃ (m : Fin 128) (s : State) (o : Option Ckpt) (recs : List LogRec) (bad : Bool) (good : Bool), Inv s ∧ (getPair s m).phase = .restoring ∧
      readSlot m (getPair s m).cur s = (o, s) ∧ readLog m s = (recs, good, s) ∧
      (bad = true ∨ (getPair s m).valid = false ∨ good = false ∨ o = none) ∧ promiseBit s 2 = false) ∧
    (∃ (m : Fin 128) (s : State) (b : Nat), Inv s ∧ (getPair s m).phase = .replay b ∧ b ≤ (getPair s m).count ∧ (getPair s m).toDebug = false ∧
      (getPair s m).mig = none ∧ (∀ x ∈ (getPair s m).rlog, x.count ≠ (getPair s m).count % 2 ^ 24)) :=
  ⟨⟨0, setPair 0 { Pair.fresh with st := .restoring, phase := .resetting } base, inv_ok _ (by decide +kernel), (by decide +kernel)⟩,
   ⟨0, (restoring Pair.fresh), ((readSlot 0 false (restoring Pair.fresh)).1.getD ck0), (readLog 0 (restoring Pair.fresh)).1, restoring_inv,
     restoring_pair.1, restoring_pair.2.1,
     (by show readSlot 0 (getPair (restoring Pair.fresh) 0).cur _ = _; rw [restoring_pair.2.2.1]; exact slot_ok _ _ _ restoring_slot restoring_same),
     pair_ok _ _ restoring_log⟩,
   ⟨0, (restoring Pair.fresh), (readSlot 0 false (restoring Pair.fresh)).1, (readLog 0 (restoring Pair.fresh)).1, true, true, restoring_inv,
     restoring_pair.1,
     (by show readSlot 0 (getPair (restoring Pair.fresh) 0).cur _ = _; rw [restoring_pair.2.2.1]; exact pair_ok _ _ restoring_same),
     pair_ok _ _ restoring_log, Or.inl rfl, restoring_pair.2.2.2⟩,
   ⟨0,
     setPair 0 { Pair.fresh with st := .restoring, phase := .replay 2, count := 2, defer := 4#32 } (setEng 0 { mv with st := .restoring } (setEng 1 { mv with st := .restoring } base)),
     2, inv_ok _ (by decide +kernel), (by decide +kernel), (by decide +kernel), (by decide +kernel), (by decide +kernel), (by decide +kernel)⟩⟩

theorem meets_FaultsOfAPair :
    (∃ (m : Fin 128) (s : State), Inv s ∧ (getPair s m).st = .checked ∧ (getPair s m).phase = .none ∧ (getPair s m).valid = true ∧
      (getPair s m).logN < 1408 ∧ within1s s (getPair s m).lastMis = false) ∧
    (∃ (m : Fin 128) (s : State) (d : Nat × Nat), Inv s ∧ (getPair s m).dead = some d ∧ (getPair s m).phase ≠ .none ∧ d.1 ≤ s.now) ∧
    (∃ (m : Fin 128) (s : State) (k : Nat), Inv s ∧ (getPair s m).st = .checked ∧ (getPair s m).mig = none ∧ findSpare s m = some k) :=
  ⟨⟨0,
    setPair 0 { Pair.fresh with st := .checked, valid := true, logN := 1, count := 7 } (setEng 0 { mv with ldq := [({ ctx := 0, addr := 0#32, place := .phys paShelf, width := 2, sx := false, lock := false, last := false, drain := false, left := 1, data := none, perf := none, err := 0, drop := false, seq := 0, logged := none } : LoadOp)], stb := [({ addr := 0#32, place := .phys paShelf, width := 2, data := 0x01020304#64, lock := false, last := false, pc := 0, released := true, seq := 0, taken := false } : StoreOp), { ({ addr := 0#32, place := .phys paShelf, width := 2, data := 0x01020304#64, lock := false, last := false, pc := 0, released := true, seq := 0, taken := false } : StoreOp) with released := false }] } (setEng 1 { mv with st := .following } base)),
    inv_ok _ (by decide +kernel), (by decide +kernel), (by decide +kernel), (by decide +kernel), (by decide +kernel), (by decide +kernel)⟩,
   ⟨0, setPair 0 { Pair.fresh with st := .restoring, phase := .resetting, dead := some (0,5) } base, (0,5), inv_ok _ (by decide +kernel),
     (by decide +kernel), (by decide +kernel), (by decide +kernel)⟩,
   ⟨0, setPair 0 { Pair.fresh with st := .checked } (setEng 0 mv (valPut (cPair 3 8) 1 base)), 3, inv_ok _ (by decide +kernel), (by decide +kernel),
     (by decide +kernel), (by decide +kernel)⟩⟩

theorem meets_SparesTakeOver :
    (∃ (m : Fin 128) (s : State) (g : Migration), Inv s ∧ (getPair s m).mig = some g ∧ g.copied = false ∧ g.spare ≠ m) ∧
    (∃ (m : Fin 128) (s : State) (g : Migration), Inv s ∧ noJobs s ∧ (getPair s m).mig = some g ∧ g.fault = true ∧ g.copied = true ∧
      (getPair s m).st = .unchecked ∧ (getPair s m).valid = true ∧ (getPair s m).logN < 1408 ∧ (getPair s m).chain = [] ∧
      (getEng s (mainOf m)).st = .held ∧ g.spare ≠ m ∧ storesOf (getEng s (mainOf m)) = [] ∧ storesOf (getEng s (checkerOf m)) = []) :=
  ⟨⟨0,
    setPair 0 { Pair.fresh with st := .unchecked, mig := some ({ spare := 3, copied := false, from_ := 0, armed := false, fault := true, cmd := false, markAt := 0, kept := [] } : Migration) } (setEng 0 mv base),
    ({ spare := 3, copied := false, from_ := 0, armed := false, fault := true, cmd := false, markAt := 0, kept := [] } : Migration),
    inv_ok _ (by decide +kernel), (by decide +kernel), (by decide +kernel), (by decide +kernel)⟩,
   ⟨0,
     setPair 0 { Pair.fresh with st := .unchecked, mig := some ({ spare := 3, copied := true, from_ := 0, armed := false, fault := true, cmd := false, markAt := 0, kept := [] } : Migration), valid := true, logN := 1, count := 7 } (setEng 0 { mv with st := .held } (valPut (cPair 3 8) 1 base)),
     ({ spare := 3, copied := true, from_ := 0, armed := false, fault := true, cmd := false, markAt := 0, kept := [] } : Migration),
     inv_ok _ (by decide +kernel), noJobs_ok _ (by decide +kernel), (by decide +kernel), (by decide +kernel), (by decide +kernel),
     (by decide +kernel), (by decide +kernel), (by decide +kernel), (by decide +kernel), (by decide +kernel), (by decide +kernel),
     (by decide +kernel), (by decide +kernel)⟩⟩

theorem meets_WaitingPairCommands :
    (∃ (r : Route) (m : Fin 128) (s : State), serves s r (cPair m 2) ∧ awake s (.tile (Fin.ofNat 32 (pairTile m))) ∧ (getPair s m).cmd = 0 ∧
      (getPair s m).mig = none ∧ ((getPair s m).st = .idle ∧ valGet s (cPair m 8) ≠ 1 ∧ (getPair s m).cmdDue = false ∨ (getPair s m).st = .checked)) ∧
    (∃ (r : Route) (m : Fin 128) (s : State), serves s r (cPair m 2) ∧ awake s (.tile (Fin.ofNat 32 (pairTile m))) ∧ (getPair s m).cmd = 0 ∧
      (getPair s m).mig = none ∧ (getPair s m).st = .checked) ∧
    (∃ (r : Route) (m : Fin 128) (s : State), serves s r (cPair m 2) ∧ awake s (.tile (Fin.ofNat 32 (pairTile m))) ∧ (getPair s m).cmd = 0 ∧
      (getPair s m).mig = none ∧ (getPair s m).st = .split) ∧
    (∃ (r : Route) (m : Fin 128) (s : State), serves s r (cPair m 2) ∧ awake s (.tile (Fin.ofNat 32 (pairTile m))) ∧ (getPair s m).cmd = 0 ∧
      (getPair s m).mig = none ∧ (getPair s m).st = .split ∧ (getEng s (checkerOf m)).st = .halted ∧
      ((getEng s (mainOf m)).st = .running ∨ (getEng s (mainOf m)).st = .held) ∧ (∃ f ∈ s.svc.folios, f.owner = m.val)) ∧
    (∃ (r : Route) (m : Fin 128) (k : Nat) (s : State), Inv s ∧ serves s r (cPair m 2) ∧ awake s (.tile (Fin.ofNat 32 (pairTile m))) ∧
      (getPair s m).cmd = 0 ∧ (getPair s m).mig = none ∧ (getPair s m).st = .checked ∧ findSpare s m = some k) :=
  ⟨⟨.host, 0, base, (by unfold serves; decide +kernel), (by unfold awake; decide +kernel), (by decide +kernel), (by decide +kernel),
    (by decide +kernel)⟩,
   ⟨.host, 0, asChecked 0 base, (by unfold serves; decide +kernel), (by unfold awake; decide +kernel), (by decide +kernel), (by decide +kernel),
     (by decide +kernel)⟩,
   ⟨.host, 0, asSplit 0 base, (by unfold serves; decide +kernel), (by unfold awake; decide +kernel), (by decide +kernel), (by decide +kernel),
     (by decide +kernel)⟩,
   ⟨.host, 0, { asSplit 0 (setEng 0 mv base) with svc := { SvcSt.none with folios := [⟨0,0,0,0,0,0,0,[],[],[]⟩] } },
     (by unfold serves; decide +kernel), (by unfold awake; decide +kernel), (by decide +kernel), (by decide +kernel), (by decide +kernel),
     (by decide +kernel), (by decide +kernel), (by decide +kernel)⟩,
   ⟨.host, 0, 3, asChecked 0 (setEng 0 mv (valPut (cPair 3 8) 1 base)), inv_ok _ (by decide +kernel), (by unfold serves; decide +kernel),
     (by unfold awake; decide +kernel), (by decide +kernel), (by decide +kernel), (by decide +kernel), (by decide +kernel)⟩⟩

theorem meets_PairCommands :
    (∃ (r : Route) (m : Fin 128) (s : State), Inv s ∧ serves s r (cPair m 2) ∧ awake s (.tile (Fin.ofNat 32 (pairTile m))) ∧ (getPair s m).cmd = 0 ∧
      (getPair s m).mig = none ∧ (getPair s m).st = .idle ∧ (getPair s m).cmdDue = false ∧ (getPair s m).phase = .none ∧ valGet s (cPair m 8) = 0 ∧
      (getEng s (mainOf m)).st = .halted ∧ (getEng s (checkerOf m)).st = .halted ∧ startBarred s = false ∧ paceReady s (pairTile m) = true) ∧
    (∃ (r : Route) (m : Fin 128) (s : State), Inv s ∧ serves s r (cPair m 2) ∧ awake s (.tile (Fin.ofNat 32 (pairTile m))) ∧ (getPair s m).cmd = 0 ∧
      (getPair s m).mig = none ∧ ((getPair s m).st = .checked ∨ (getPair s m).st = .unchecked) ∧ (getPair s m).chain = [] ∧
      (getEng s (mainOf m)).st = .running ∧ holdsCommand s (mainOf m) = false) ∧
    (∃ (r : Route) (m : Fin 128) (s : State), Inv s ∧ serves s r (cPair m 2) ∧ awake s (.tile (Fin.ofNat 32 (pairTile m))) ∧ (getPair s m).cmd = 0 ∧
      (getPair s m).mig = none ∧ ((getPair s m).st = .checked ∨ (getPair s m).st = .unchecked) ∧ (getPair s m).chain = [] ∧
      (getEng s (mainOf m)).st = .running ∧ holdsCommand s (mainOf m) = false ∧ valGet s (callNo 0x1510 0x0C) ≠ 0) ∧
    (∃ (r : Route) (m : Fin 128) (s : State), Inv s ∧ serves s r (cPair m 2) ∧ awake s (.tile (Fin.ofNat 32 (pairTile m))) ∧ (getPair s m).cmd = 0 ∧
      (getPair s m).mig = none ∧ (getPair s m).st = .debug ∧ (getEng s (mainOf m)).pos.wait = none ∧ valGet s (callNo 0x1510 0x0C) ≠ 0) ∧
    (∃ (r : Route) (m : Fin 128) (s : State) (ms : List Move) (l : Nat) (c : Bool), Inv s ∧ serves s r (cPair m 2) ∧
      awake s (.tile (Fin.ofNat 32 (pairTile m))) ∧ (getPair s m).cmd = 0 ∧ (getPair s m).mig = none ∧ (getPair s m).st = .debug ∧
      (getPair s m).prev = .unchecked ∧ (getPair s m).phase = .none ∧ (getPair s m).chain = [] ∧ valGet s (callNo 0x1510 0x0C) ≠ 0 ∧
      MovesNext (getEng s (mainOf m)) ms ∧ (getEng s (mainOf m)).pos = { Pos.start (getEng s (mainOf m)).pos.pc with lastpc := l, cntOwn := c } ∧
      bundleNext (modEng (mainOf m) (fun e => { e with cmd := 5 }) (pairResume m s)) (mainOf m) = true ∧ (∀ x ∈ (getEng s (mainOf m)).ldq,
      x.seq < (getEng s (mainOf m)).lsuSeq)) ∧
    (∃ (r : Route) (m : Fin 128) (s : State), Inv s ∧ serves s r (cPair m 2) ∧ awake s (.tile (Fin.ofNat 32 (pairTile m))) ∧ (getPair s m).cmd = 0 ∧
      (getPair s m).mig = none ∧ (getPair s m).st = .idle ∧ valGet s (callNo 0x1510 0x0C) ≠ 0) :=
  ⟨⟨.host, 0, base, inv_ok _ (by decide +kernel), (by unfold serves; decide +kernel), (by unfold awake; decide +kernel), (by decide +kernel),
    (by decide +kernel), (by decide +kernel), (by decide +kernel), (by decide +kernel), (by decide +kernel), (by decide +kernel),
    (by decide +kernel), (by decide +kernel), (by decide +kernel)⟩,
   ⟨.host, 0,
     asChecked 0 (setEng 0 { mv with stb := [({ addr := 0#32, place := .phys paShelf, width := 2, data := 0x01020304#64, lock := false, last := false, pc := 0, released := true, seq := 0, taken := false } : StoreOp)] } (setEng 1 { mv with st := .following } base)),
     inv_ok _ (by decide +kernel), (by unfold serves; decide +kernel), (by unfold awake; decide +kernel), (by decide +kernel), (by decide +kernel),
     (by decide +kernel), (by decide +kernel), (by decide +kernel), (by decide +kernel)⟩,
   ⟨.host, 0, dbgOpened (asChecked 0 (setEng 0 mv (setEng 1 { mv with st := .following } base))), inv_ok _ (by decide +kernel),
     (by unfold serves; decide +kernel), (by unfold awake; decide +kernel), (by decide +kernel), (by decide +kernel), (by decide +kernel),
     (by decide +kernel), (by decide +kernel), (by decide +kernel), (by decide +kernel)⟩,
   ⟨.host, 0,
     dbgOpened (setPair 0 { Pair.fresh with st := .debug, prev := .checked } (setEng 0 { mv with st := .debug } (setEng 1 { mv with st := .debug } base))),
     inv_ok _ (by decide +kernel), (by unfold serves; decide +kernel), (by unfold awake; decide +kernel), (by decide +kernel), (by decide +kernel),
     (by decide +kernel), (by decide +kernel), (by decide +kernel)⟩,
   ⟨.host, 0,
     dbgOpened (setPair 0 { Pair.fresh with st := .debug, prev := .unchecked } (setEng 0 { mv with st := .debug } (setEng 1 { mv with st := .debug } base))),
     [⟨1,0⟩], 0, false, inv_ok _ (by decide +kernel), (by unfold serves; decide +kernel), (by unfold awake; decide +kernel), (by decide +kernel),
     (by decide +kernel), (by decide +kernel), (by decide +kernel), (by decide +kernel), (by decide +kernel), (by decide +kernel),
     ⟨bundleNext_ok _ _ (by decide +kernel), by decide +kernel⟩, (by decide +kernel), (by decide +kernel), (by decide +kernel)⟩,
   ⟨.host, 0, dbgOpened base, inv_ok _ (by decide +kernel), (by unfold serves; decide +kernel), (by unfold awake; decide +kernel),
     (by decide +kernel), (by decide +kernel), (by decide +kernel), (by decide +kernel)⟩⟩

theorem meets_TimeEntriesWritten :
    (∃ (r : Route) (v : Byte) (s : State), serves s r (callNo 0x1110 4) ∧ archiveLow s = false ∧ v.toNat ≤ 1) ∧
    (∃ (r : Route) (v : Byte) (s : State), Inv s ∧ noRestart s ∧ serves s r (callNo 0x1100 3) ∧ archiveLow s = false ∧ v.toNat ≤ 3) ∧
    (∃ (r : Route) (s : State), Inv s ∧ noRestart s ∧ serves s r (callNo 0x1100 8) ∧ valGet s (callNo 0x1100 3) = 0 ∧ (∀ n : Nat,
      (getEng s n).pos.wait = none ∧ (getEng s n).st ≠ .armed) ∧ treeLocked s = true) ∧
    (∃ (r : Route) (k : Fin 32) (s : State), serves s r (cTile k 0x22)) :=
  ⟨⟨.host, 0, valPut (callNo 0x1110 3) 4 base, (by unfold serves; decide +kernel), (by decide +kernel), (by decide +kernel)⟩,
   ⟨.host, 0, base, inv_ok _ (by decide +kernel), noRestart_ok _ (by decide +kernel), (by unfold serves; decide +kernel), (by decide +kernel),
     (by decide +kernel)⟩,
   ⟨.host, ((List.range 32).foldl (fun s k => setTile k { Tile.on with lock := true } s) base), inv_ok _ (by decide +kernel),
     noRestart_ok _ (by decide +kernel), (by unfold serves; decide +kernel), (by decide +kernel),
     (fun k => kvGet_all (fun x : Engine => x.pos.wait = none ∧ x.st ≠ .armed) (by decide) (by decide +kernel) k), (by decide +kernel)⟩,
   ⟨.host, 31, valPut (cTile 31 0x22) 7 base, (by unfold serves; decide +kernel)⟩⟩

theorem meets_DisciplineFollowsItsSource :
    (∃ (off0 : Int) (off : Int) (s : State), Inv s ∧ noRestart s ∧ measured off0 s = some off ∧ 4 * valGet s (callNo 0x1100 6) < off.natAbs ∧
      (∀ n : Nat, (getEng s n).pos.wait = none ∧ (getEng s n).st ≠ .armed)) ∧
    (∃ (off0 : Int) (off : Int) (s : State), Inv s ∧ noRestart s ∧ measured off0 s = some off ∧ off.natAbs ≤ 4 * valGet s (callNo 0x1100 6)) ∧
    (∃ (s : State), valGet s (callNo 0x1100 3) ≠ 0 ∧ s.time.holdover = false) ∧
    (∃ (s : State), Inv s ∧ noRestart s ∧ s.time.holdover = true ∧ s.time.valid = true ∧
      s.time.holdAt + 4000000 * valGet s (callNo 0x1100 7) ≤ s.up) :=
  ⟨⟨401, 401, valPut (callNo 0x1100 6) 100 (valPut (callNo 0x1100 3) 1 base), inv_ok _ (by decide +kernel), noRestart_ok _ (by decide +kernel),
    (by decide +kernel), (by decide +kernel), (fun k => kvGet_all (fun x : Engine => x.pos.wait = none ∧
    x.st ≠ .armed) (by decide) (by decide +kernel) k)⟩,
   ⟨16, 16, valPut (callNo 0x1100 6) 100 (valPut (callNo 0x1100 3) 1 base), inv_ok _ (by decide +kernel), noRestart_ok _ (by decide +kernel),
     (by decide +kernel), (by decide +kernel)⟩,
   ⟨(valPut (callNo 0x1100 3) 1 base), (by decide +kernel), (by decide +kernel)⟩,
   ⟨{ valPut (callNo 0x1100 7) 7 base with up := 4000000 * 7, time := { base.time with valid := true, holdover := true } },
     inv_ok _ (by decide +kernel), noRestart_ok _ (by decide +kernel), (by decide +kernel), (by decide +kernel), (by decide +kernel)⟩⟩

theorem meets_FollowersLoseAndFindLock :
    (∃ (k : Fin 32) (s : State), Inv s ∧ noRestart s ∧ (getTile s k).dom = 0 ∧ (getTile s k).lost = false ∧ (∀ n : Nat,
      (getEng s n).pos.wait = none ∧ (getEng s n).st ≠ .armed)) ∧
    (∃ (k : Fin 32) (s : State), (getTile s k).dom = 0 ∧ (getTile s k).lost = false ∧ (getTile s k).lock = false ∧ (getTile s k).relock = true) ∧
    (∃ (k : Fin 32) (s : State), Inv s ∧ noRestart s ∧ (getTile s k).dom = 0 ∧ (∀ n : Nat, (getEng s n).pos.wait = none ∧
      (getEng s n).st ≠ .armed)) :=
  ⟨⟨0, base, inv_ok _ (by decide +kernel), noRestart_ok _ (by decide +kernel), (by decide +kernel), (by decide +kernel),
    (fun k => kvGet_all (fun x : Engine => x.pos.wait = none ∧ x.st ≠ .armed) (by decide) (by decide +kernel) k)⟩,
   ⟨0, setTile 0 { Tile.on with relock := true } base, (by decide +kernel), (by decide +kernel), (by decide +kernel), (by decide +kernel)⟩,
   ⟨0, base, inv_ok _ (by decide +kernel), noRestart_ok _ (by decide +kernel), (by decide +kernel),
     (fun k => kvGet_all (fun x : Engine => x.pos.wait = none ∧ x.st ≠ .armed) (by decide) (by decide +kernel) k)⟩⟩

theorem meets_OutputsAndCaptures :
    (∃ (src : Fin 257) (s : State) (u : State) (w : OutWrite) (l : List OutWrite), s.net.outs = w :: l ∧ w.src = src ∧ w.stamp = none ∧
      w.xto.toNat / 2 ^ 30 ≠ 1 ∧ u = stampedDue { s with net := { s.net with outs := l } } ∧ kvWf PinSt.idle u.pins.tio = true ∧
      (tioMode u (w.xto.toNat % 16) = 1 ∨ tioMode u (w.xto.toNat % 16) = 2) ∧ u.pins.stop = false) ∧
    (∃ (src : Fin 257) (s : State) (u : State) (w : OutWrite) (l : List OutWrite), s.net.outs = w :: l ∧ w.src = src ∧ w.stamp = none ∧
      w.xto.toNat / 2 ^ 26 % 4 = 0 ∧ w.xto.toNat / 2 ^ 30 = 1 ∧
      u = freezeDue (w.xto.toNat / 2 ^ 28 % 2) (stampedDue { s with net := { s.net with outs := l } }) ∧
      stopHolds u (w.xto.toNat / 2 ^ 28 % 2) (w.xto.toNat % 65536) = false) ∧
    (∃ (src : Fin 257) (s : State) (u : State) (w : OutWrite) (l : List OutWrite) (T : Nat), s.net.outs = w :: l ∧ w.src = src ∧ w.stamp = some T ∧
      s.now < T ∧ w.xto.toNat / 2 ^ 30 ≠ 1 ∧ u = stampedDue { s with net := { s.net with outs := l } } ∧ kvWf PinSt.idle u.pins.tio = true) ∧
    (∃ (s : State), Inv s) ∧
    (∃ (p : Fin 16) (s : State) (w : Stamped), Inv s ∧ (∀ q : Nat, q < 16 → q ≠ p.val → (getPin s q).pend = []) ∧ (getPin s p).pend = [w] ∧
      w.at_ ≤ s.now ∧ w.xto.toNat / 2 ^ 30 ≠ 1 ∧ w.xto.toNat % 16 = p.val ∧ tioMode s p = 1 ∧ s.pins.stop = false ∧ w.value.toNat % 4 < 2) ∧
    (∃ (q : Fin 17) (rising : Bool) (s : State), Inv s ∧ noRestart s ∧ ((q.val < 16 → tioMode s q = 3 ∧
      edgeSelected (valGet s (cTio q 2)) rising = true ∧ tooSoon (getPin s q).lastEdge s.up = false)) ∧
      ((q.val = 16 → edgeSelected (valGet s (callNo 0x1510 6)) rising = true ∧ tooSoon s.pins.syncEdge s.up = false))) ∧
    (∃ (r : Fin 2) (s : State), freezeInstant s r = some s.now ∧ (∀ w ∈ s.net.images, s.now ≤ w.at_)) ∧
    (∃ (r : Fin 2) (s : State), freezeInstant s r ≠ some s.now) :=
  ⟨⟨3, valPut (cTio 5 1) 1 { base with net := { base.net with outs := [⟨3, 0x80000005#32, 0#32, none⟩] } }, _, ⟨3, 0x80000005#32, 0#32, none⟩, [],
    (by decide +kernel), (by decide +kernel), (by decide +kernel), (by decide +kernel), rfl, (by decide +kernel), (by decide +kernel),
    (by decide +kernel)⟩,
   ⟨3, { base with net := { base.net with outs := [⟨3, 0x40000005#32, 9#32, none⟩] } }, _, ⟨3, 0x40000005#32, 9#32, none⟩, [], (by decide +kernel),
     (by decide +kernel), (by decide +kernel), (by decide +kernel), (by decide +kernel), rfl, (by decide +kernel)⟩,
   ⟨3, id { base with net := { base.net with outs := [⟨3, 0x80000005#32, 1#32, some 9⟩] } }, _, ⟨3, 0x80000005#32, 1#32, some 9⟩, [], 9,
     (by decide +kernel), (by decide +kernel), (by decide +kernel), (by decide +kernel), (by decide +kernel), rfl, (by decide +kernel)⟩,
   ⟨setPin 5 { PinSt.idle with pend := [⟨0,3,0x80000005#32,1#32⟩,⟨5,3,0x80000005#32,1#32⟩] } base, inv_ok _ (by decide +kernel)⟩,
   ⟨5, valPut (cTio 5 1) 1 (setPin 5 { PinSt.idle with pend := [⟨0,3,0x80000005#32,1#32⟩] } base), ⟨0,3,0x80000005#32,1#32⟩,
     inv_ok _ (by decide +kernel), (by decide +kernel), (by decide +kernel), (by decide +kernel), (by decide +kernel), (by decide +kernel),
     (by decide +kernel), (by decide +kernel), (by decide +kernel)⟩,
   ⟨5, true, valPut (cTio 5 1) 3 (valPut (cTio 5 2) 1 base), inv_ok _ (by decide +kernel), noRestart_ok _ (by decide +kernel), (by decide +kernel),
     (by decide +kernel)⟩,
   ⟨0, { node0 with now := 58500 }, (by decide +kernel), (by decide +kernel)⟩,
   ⟨0, base, (by decide +kernel)⟩⟩

theorem meets_RefreshAndQuietWindows :
    (∃ (s : State), marksOccur s = true ∧ s.time.period = true ∧ s.mem.refDone = false ∧ s.mem.refOpen = false ∧ s.mem.refEnd ≤ s.up ∧
      kvGet 0 s.power.dom 4 = 0 ∧ refreshFits s ((periodLen s + 12499) / 12500 + valGet s (callNo 0x1900 6)) (inPeriod s) = true ∧
      ((inPeriod s = 0 ∨ s.up = s.mem.refEnd ∨ refreshFits s ((periodLen s + 12499) / 12500 + valGet s (callNo 0x1900 6)) (inPeriod s - 1) = false)) ∧
      valGet s (callNo 0x1900 8) = 1) ∧
    (∃ (s : State),
      (marksOccur s = false ∨ s.time.period = false ∨ s.mem.refDone = true ∨ s.mem.refOpen = true ∨ s.up < s.mem.refEnd ∨ kvGet 0 s.power.dom 4 ≠ 0 ∨ refreshFits s ((periodLen s + 12499) / 12500 + valGet s (callNo 0x1900 6)) (inPeriod s) = false)) ∧
    (∃ (s : State), s.mem.refOpen = true ∧ 1 < s.mem.refLeft ∧ ((quietNow s = false ∨ s.mem.refStep = true))) ∧
    (∃ (s : State), s.mem.refOpen = true ∧ s.mem.refLeft = 1 ∧ ((quietNow s = false ∨ s.mem.refStep = true))) ∧
    (∃ (s : State), s.mem.refOpen = true ∧ quietNow s = true ∧ s.mem.refStep = false) ∧
    (∃ (s : State), s.mem.refOpen = false ∧ marksOccur s = false ∧ kvGet 0 s.power.dom 4 = 0) ∧
    (∃ (s : State), s.mem.refOpen = false ∧ ((marksOccur s = true ∨ kvGet 0 s.power.dom 4 ≠ 0))) ∧
    (∃ (s : State), marksOccur s = true ∧ (∃ w ∈ quietWindows s, (w.1 ≤ inPeriod s + 2400 ∧
      inPeriod s < w.2) ∨ w.1 + periodLen s ≤ inPeriod s + 2400)) ∧
    (∃ (s : State), (marksOccur s = false ∨ (∀ w ∈ quietWindows s, (w.2 ≤ inPeriod s ∨ inPeriod s + 2400 < w.1) ∧
      inPeriod s + 2400 < w.1 + periodLen s))) :=
  ⟨⟨valPut (callNo 0x1900 6) 3 (valPut (callNo 0x1900 8) 1 { periodic with time := { periodic.time with period := true } }), (by decide +kernel),
    (by decide +kernel), (by decide +kernel), (by decide +kernel), (by decide +kernel), (by decide +kernel), (by decide +kernel),
    (by decide +kernel), (by decide +kernel)⟩,
   ⟨base, (by decide +kernel)⟩,
   ⟨okMem (fun m => { m with refOpen := true, refLeft := 2 }) base, (by decide +kernel), (by decide +kernel), (by decide +kernel)⟩,
   ⟨okMem (fun m => { m with refOpen := true, refLeft := 1 }) base, (by decide +kernel), (by decide +kernel), (by decide +kernel)⟩,
   ⟨okMem (fun m => { m with refOpen := true, refLeft := 2 }) (withFolio (quietFolio 0 100) { periodic with time := { periodic.time with period := true } }),
     (by decide +kernel), (by decide +kernel), (by decide +kernel)⟩,
   ⟨valPut (callNo 0x1900 6) 3 base, (by decide +kernel), (by decide +kernel), (by decide +kernel)⟩,
   ⟨domPut (.dev 4) 1 base, (by decide +kernel), (by decide +kernel)⟩,
   ⟨withFolio (quietFolio 600 100) periodic, (by decide +kernel), (by decide +kernel)⟩,
   ⟨withFolio (quietFolio 700 100) periodic, (by decide +kernel)⟩⟩

theorem meets_PeriodMarksAreMet :
    ∃ (s : State) (m : Fin 128), Inv s ∧ markNow s = true ∧ noRestart s ∧ noJobs s ∧ (∀ j, (getJob s j).st ≠ 3) ∧ s.svc.auto = [] ∧
      s.ledger.handovers = [] ∧ s.mem.refDone = true ∧ periodPhase s < periodLen s ∧ (∀ k : Nat, k ≠ m.val → (getPair s k).cmd = 0 ∧
      (getPair s k).mig = none ∧ (getPair s k).subst = false) ∧ (getPair s m).cmd = 3 ∧ (getPair s m).cmdAt ≤ s.now ∧ (getPair s m).cmdDue = false ∧
      (getPair s m).st = .checked ∧ (getPair s m).chain = [] ∧ (getPair s m).mig = none ∧ (getEng s (mainOf m)).st = .running :=
  ⟨okMem (fun y => { y with refDone := true }) (setPair 5 { Pair.fresh with st := .checked, cmd := 3 } (setEng 40 running (setEng 10 mv (setEng 11 { mv with st := .following } { periodic with up := 62500 })))),
    5, inv_ok _ (by decide +kernel), (by decide +kernel), noRestart_ok _ (by decide +kernel), noJobs_ok _ (by decide +kernel),
    (fun k => kvGet_all (fun x : Job => x.st ≠ 3) (by decide) (by decide +kernel) k), (by decide +kernel), (by decide +kernel), (by decide +kernel),
    (by decide +kernel),
    (fun k hk => have h : kvGet Pair.fresh (kvSet Pair.fresh [] 5 { Pair.fresh with st := .checked, cmd := 3 }) k = Pair.fresh := kvGet_kvSet_other hk; ⟨congrArg Pair.cmd h,
    congrArg Pair.mig h, congrArg Pair.subst h⟩), (by decide +kernel), (by decide +kernel), (by decide +kernel), (by decide +kernel),
    (by decide +kernel), (by decide +kernel), (by decide +kernel)⟩

theorem meets_MemoriesLookAfterThemselves :
    (∃ (k : Fin 32) (b : Fin 8) (reqs : List (Fin 9)) (s : State), Inv s ∧ kvGet 0 s.mem.rr (8 * k + b) = 8 ∧ 8 ∈ reqs) ∧
    (∃ (b : Fin 256) (s : State) (w : Nat) (l : List Nat), s.mem.wback = w :: l ∧ wordBank w = b ∧ w ∉ l) ∧
    (∃ (b : Fin 256) (s : State), valGet s (callNo 0x1910 1) = 1 ∧ kvGet 0 s.mem.swept b < 1024 ∧ s.now = regionDue s (kvGet 0 s.mem.swept b) ∧
      sweepDone s < 1024 ∧ bankReady s b = 0 ∧ (∀ w : Nat, w / 8 = (paShelf + 0x10000 * b) / 64 + kvGet 0 s.mem.swept b → kvGet 0 s.mem.one w = 0 ∧
      w ∉ s.mem.bad ∧ w ∉ s.mem.wback) ∧ kvWf 0 s.mem.one = true) ∧
    (∃ (b : Fin 256) (c : Nat) (s : State), Inv s ∧ (b.val, c) ∈ s.mem.fills) ∧
    (∃ (s : State), s.boot.steps.testBit 0 = true ∧ valGet s cDramInit = 0 ∧ s.ledger.waits = []) ∧
    (∃ (c : Fin 8) (s : State), (valGet s (callNo 0x1900 1)).testBit c = true ∧ s.ledger.waits = [] ∧ (∀ i ∈ s.ledger.items,
      itemOpen i = true → copyGone c i.copyA = false ∧ copyGone c i.copyB = false)) ∧
    (∃ (x : LockTarget) (s : State) (n : Nat) (at_ : Nat), s.xfer.locks.find? (fun l => l.1 == lockNo x) = some (lockNo x, n, at_) ∧
      at_ + 4 * valGet s (callNo 0x1920 6) ≤ s.up ∧ s.ledger.waits = []) :=
  ⟨⟨31, 7, [8,0,3], okMem (fun m => { m with rr := [(255,8)] }) base, inv_ok _ (by decide +kernel), (by decide +kernel), (by decide +kernel)⟩,
   ⟨0, okMem (fun m => { m with wback := [paShelf/8], one := [(paShelf/8, 5)] }) base, (paShelf/8), [], (by decide +kernel), (by decide +kernel),
     (by decide +kernel)⟩,
   ⟨255, { valPut (callNo 0x1910 1) 1 base with now := regionDue (valPut (callNo 0x1910 1) 1 base) 0 }, (by decide +kernel), (by decide +kernel),
     (by decide +kernel), (by decide +kernel), (by decide +kernel), (fun _ _ => ⟨rfl, List.not_mem_nil, List.not_mem_nil⟩), (by decide +kernel)⟩,
   ⟨9, 5, okMem (fun m => { m with fills := [(9,5)] }) base, inv_ok _ (by decide +kernel), (by decide +kernel)⟩,
   ⟨{ base with boot := { base.boot with steps := 1 }, mem := { base.mem with bytes := [⟨5,1#8⟩,⟨paShelf,2#8⟩] } }, (by decide +kernel),
     (by decide +kernel), (by decide +kernel)⟩,
   ⟨7, base, (by decide +kernel), (by decide +kernel), (by decide +kernel)⟩,
   ⟨.bank 3, { valPut (callNo 0x1920 6) 10 base with up := 40, xfer := { base.xfer with locks := [(lockNo (.bank 4),2,0),(lockNo (.bank 3),9,0)] } },
     9, 0, (by decide +kernel), (by decide +kernel), (by decide +kernel)⟩⟩

theorem meets_WipesLeaveZeros :
    (∃ (s : State), Inv s ∧ s.mem.wipe = none ∧ (∀ m : Nat, inReplay (getPair s m) = false)) ∧
    (∃ (s : State) (w : Nat), s.mem.wipe = some w) ∧
    (∃ (s : State) (w : Nat), Inv s ∧ s.mem.wipe = some w ∧ (∀ n l, nextLoad s n = some l → l.logged = none) ∧ (∀ n x pa,
      (storesOf (getEng s n)).head? = some x → x.released = true → x.place = .phys pa → (∀ p ∈ accParts pa (2 ^ x.width),
      inBank7 (.phys p.1) = true) ∨ ∀ p ∈ accParts pa (2 ^ x.width), inBank7 (.phys p.1) = false)) ∧
    (∃ (r : Route) (k : Fin 32) (v : Byte) (s : State), serves s r (cTile k 0x41) ∧ v.toNat ≤ 1 ∧ v.toNat ≠ valGet s (cTile k 0x41) ∧
      archiveLow s = false ∧ unitRuns s (cTile k 0x41) = false) ∧
    (∃ (r : Route) (k : Fin 32) (v : Byte) (s : State), serves s r (cTile k 0x40) ∧ v.toNat ≤ 1 ∧ valGet s (cTile k 0x40) ≤ v.toNat) :=
  ⟨⟨setPair 0 { Pair.fresh with valid := true, logN := 1 } base, inv_ok _ (by decide +kernel), (by decide +kernel),
    (fun k => kvGet_all (fun x : Pair => inReplay x = false) (by decide) (by decide +kernel) k)⟩,
   ⟨okMem (fun m => { m with wipe := some 2, bytes := [⟨5,1#8⟩,⟨paShelf+0x6FFFF,3#8⟩,⟨paShelf+0x70000,2#8⟩,⟨paShelf+0x7FFFF,2#8⟩,⟨paShelf+0x80000,2#8⟩] }) base,
     2, (by decide +kernel)⟩,
   ⟨okMem (fun m => { m with wipe := some 2, bytes := [⟨5,1#8⟩,⟨paShelf+0x6FFFF,3#8⟩,⟨paShelf+0x70000,2#8⟩,⟨paShelf+0x7FFFF,2#8⟩,⟨paShelf+0x80000,2#8⟩] }) base,
     2, inv_ok _ (by decide +kernel), (by decide +kernel),
     (fun n l h => by unfold nextLoad at h; split at h <;> exact nomatch (show (none : Option LoadOp) = some l from h)),
     (fun n x pa h => nomatch (show (none : Option StoreOp) = some x from h))⟩,
   ⟨.host, 0, 1,
     okMem (fun m => { m with bytes := [⟨5,1#8⟩,⟨paShelf+0x6FFFF,3#8⟩,⟨paShelf+0x70000,2#8⟩,⟨paShelf+0x73FFF,2#8⟩,⟨paShelf+0x74000,2#8⟩] }) base,
     (by unfold serves; decide +kernel), (by decide +kernel), (by decide +kernel), (by decide +kernel), (by decide +kernel)⟩,
   ⟨.host, 31, 1, base, (by unfold serves; decide +kernel), (by decide +kernel), (by decide +kernel)⟩⟩

theorem meets_TransferChannels :
    (∃ (r : Route) (c : Fin 64) (ctl : BitVec 32) (s : State), Inv s ∧ serves s r (cXf c 4) ∧ ctl.toNat < 2 ^ 20 ∧ chanBusy (getChan s c) = false ∧
      valGet s (callNo (0x1930 + c.val / 16) 1) = 0 ∧ awake s (.dev (Fin.ofNat 10 (5 + c.val / 16)))) ∧
    (∃ (r : Route) (c : Fin 64) (ctl : BitVec 32) (s : State), Inv s ∧ serves s r (cXf c 4) ∧ ctl.toNat < 2 ^ 20 ∧
      ((getChan s c).st = 1 ∨ (getChan s c).st = 2) ∧ (getChan s c).err = 0 ∧ ((getChan s c).flight ≠ [] ∨ xfCount s c = 0 ∨ (getChan s c).rem ≠ 0) ∧
      valGet s (cXf c 4) = ctl.toNat / 2 * 2) ∧
    (∃ (u : Fin 4) (s : State), Inv s ∧ domGet s (.dev (Fin.ofNat 10 (5 + u.val))) = 0 ∧ xfQuiet s = false ∧ (∀ i : Nat,
      i < 16 → 0 < i → (getChan s (16 * u + i)).st = 0) ∧ kvGet 0 s.xfer.rr u = 0 ∧ (getChan s (16 * u)).st = 1 ∧ xfPaced s (16 * u) = false ∧
      (getChan s (16 * u)).err = 0 ∧ (getChan s (16 * u)).flight.length < 64 ∧ (getChan s (16 * u)).claim = 0 ∧ (∀ f ∈ (getChan s (16 * u)).flight,
      f.data ≠ none → f.dst ≠ none) ∧ (xfCount s (16 * u) = 0 ∨ (getChan s (16 * u)).issued < xfCount s (16 * u))) ∧
    (∃ (u : Fin 4) (s : State) (l : List XfTxn) (f : XfTxn) (l' : List XfTxn), Inv s ∧ domGet s (.dev (Fin.ofNat 10 (5 + u.val))) = 0 ∧
      xfQuiet s = false ∧ (∀ i : Nat, i < 16 → 0 < i → (getChan s (16 * u + i)).st = 0) ∧ kvGet 0 s.xfer.rr u = 0 ∧ (getChan s (16 * u)).st = 1 ∧
      xfPaced s (16 * u) = false ∧ (getChan s (16 * u)).err = 0 ∧ (getChan s (16 * u)).flight = l ++ f :: l' ∧ (∀ x ∈ l, x.dst ≠ none) ∧
      f.data ≠ none ∧ f.dst = none) ∧
    (∃ (s : State), xfQuiet s = true) ∧
    (∃ (c : Fin 64) (s : State) (l : List XfTxn) (f : XfTxn) (l' : List XfTxn), Inv s ∧ (getChan s c).flight = l ++ f :: l' ∧ (∀ x ∈ l,
      x.data ≠ none) ∧ f.data = none ∧ (getChan s c).err = 0 ∧ inMemory f.src ∧ xfBlocked s f.src (xfSize s c) = false ∧
      physCode s false 256 f.src (xfSize s c) = 0 ∧ readyNow s f.src (xfSize s c) ∧ cleanWords s f.src (xfSize s c)) ∧
    (∃ (c : Fin 64) (s : State) (f : XfTxn) (l : List XfTxn) (v : Nat) (a : Nat), Inv s ∧ (getChan s c).flight = f :: l ∧ f.data = some v ∧
      f.dst = some a ∧ (getChan s c).err = 0 ∧ (getChan s c).st = 1 ∧ (l ≠ [] ∨ xfCount s c = 0 ∨ xfSize s c < (getChan s c).rem) ∧ inMemory a ∧
      xfBlocked s a (xfSize s c) = false ∧ physCode s true 256 a (xfSize s c) = 0 ∧ readyNow s a (xfSize s c) ∧ cleanWords s a (xfSize s c)) ∧
    (∃ (r : Route) (u : Fin 4) (s : State), Inv s ∧ serves s r (callNo (0x1930 + u.val) 1) ∧ (∀ i : Nat,
      i < 16 → (getChan s (16 * u + i)).flight = [])) ∧
    (∃ (r : Route) (u : Fin 4) (s : State), Inv s ∧ serves s r (callNo (0x1930 + u.val) 1) ∧ valGet s (callNo (0x1930 + u.val) 1) = 1) :=
  ⟨⟨.host, 0, 1#32, setChan 0 { XfCh.idle with src := paShelf, dst := paShelf + 0x1000 } base, inv_ok _ (by decide +kernel),
    (by unfold serves; decide +kernel), (by decide +kernel), (by decide +kernel), (by decide +kernel), (by unfold awake; decide +kernel)⟩,
   ⟨.host, 0, 0x9#32,
     valPut (cXf 0 4) 8 (setChan 0 { { XfCh.idle with st := 1, src := paShelf, dst := paShelf + 0x1000, src0 := paShelf, dst0 := paShelf + 0x1000 } with rem := 16, flight := [] } (valPut (cXf 0 3) 16 base)),
     inv_ok _ (by decide +kernel), (by unfold serves; decide +kernel), (by decide +kernel), (by decide +kernel), (by decide +kernel),
     (by decide +kernel), (by decide +kernel)⟩,
   ⟨0, setChan 0 { XfCh.idle with st := 1, src := paShelf, dst := paShelf + 0x1000, src0 := paShelf, dst0 := paShelf + 0x1000 } base,
     inv_ok _ (by decide +kernel), (by decide +kernel), (by decide +kernel), (by decide +kernel), (by decide +kernel), (by decide +kernel),
     (by decide +kernel), (by decide +kernel), (by decide +kernel), (by decide +kernel), (by decide +kernel), (by decide +kernel)⟩,
   ⟨0,
     setChan 0 { { XfCh.idle with st := 1, src := paShelf, dst := paShelf + 0x1000, src0 := paShelf, dst0 := paShelf + 0x1000 } with flight := [⟨paShelf,some 7,none⟩] } base,
     [], ⟨paShelf,some 7,none⟩, [], inv_ok _ (by decide +kernel), (by decide +kernel), (by decide +kernel), (by decide +kernel), (by decide +kernel),
     (by decide +kernel), (by decide +kernel), (by decide +kernel), (by decide +kernel), (by decide +kernel), (by decide +kernel),
     (by decide +kernel)⟩,
   ⟨{ periodic with xfer := { periodic.xfer with quiet := true } }, (by decide +kernel)⟩,
   ⟨0,
     okMem (fun m => { m with bytes := [⟨paShelf,1#8⟩,⟨paShelf+1,2#8⟩] }) (setChan 0 { { XfCh.idle with st := 1, src := paShelf, dst := paShelf + 0x1000, src0 := paShelf, dst0 := paShelf + 0x1000 } with flight := [⟨paShelf,none,none⟩] } base),
     [], ⟨paShelf,none,none⟩, [], inv_ok _ (by decide +kernel), (by decide +kernel), (by decide +kernel), (by decide +kernel), (by decide +kernel),
     (Or.inr ⟨0, 0, by delta physKind dramSize; cases Config.m8i <;> rfl⟩),
     (by delta xfBlocked lockedOut targetsOf physKind dramSize; cases Config.m8i <;> decide +kernel),
     (by delta physCode physByteCode physKind dramSize; cases Config.m8i <;> decide +kernel),
     (by delta readyNow byteReady physKind dramSize; cases Config.m8i <;> decide +kernel), (by unfold cleanWords; decide +kernel)⟩,
   ⟨0,
     id (setChan 0 { { XfCh.idle with st := 1, src := paShelf, dst := paShelf + 0x1000, src0 := paShelf, dst0 := paShelf + 0x1000 } with rem := 16, flight := [⟨paShelf,some 0x01020304,some (paShelf+0x1000)⟩] } base),
     ⟨paShelf,some 0x01020304,some (paShelf+0x1000)⟩, [], 0x01020304, (paShelf+0x1000), inv_ok _ (by decide +kernel), (by decide +kernel),
     (by decide +kernel), (by decide +kernel), (by decide +kernel), (by decide +kernel), (by decide +kernel), (Or.inr ⟨0, 4096,
     by delta physKind dramSize; cases Config.m8i <;> rfl⟩),
     (by delta xfBlocked lockedOut targetsOf physKind dramSize; cases Config.m8i <;> decide +kernel),
     (by delta physCode physByteCode physKind dramSize; cases Config.m8i <;> decide +kernel),
     (by delta readyNow byteReady physKind dramSize; cases Config.m8i <;> decide +kernel), (by unfold cleanWords; decide +kernel)⟩,
   ⟨.host, 0,
     setChan 1 { XfCh.idle with done := true } (setChan 0 { XfCh.idle with st := 1, src := paShelf, dst := paShelf + 0x1000, src0 := paShelf, dst0 := paShelf + 0x1000 } base),
     inv_ok _ (by decide +kernel), (by unfold serves; decide +kernel), (by decide +kernel)⟩,
   ⟨.host, 0, valPut (callNo 0x1930 1) 1 (setChan 0 { XfCh.idle with st := 6 } base), inv_ok _ (by decide +kernel),
     (by unfold serves; decide +kernel), (by decide +kernel)⟩⟩

theorem meets_SubmissionsAreJudged :
    (∃ (x : Submission) (src : Nat) (id : Nat) (slot : Nat) (b : List Byte) (s : State), submits s x src id slot b ∧ (∀ i ∈ s.ledger.items,
      i.stream = fieldAt b 0 1 → i.tag ≠ fieldAt b 4 4) ∧ (∀ y ∈ (getStream s (fieldAt b 0 1)).tags, y.1 ≠ fieldAt b 4 4) ∧
      (getStream s (fieldAt b 0 1)).lost = [] ∧ (getStream s (fieldAt b 0 1)).n.getD (fieldAt b 4 4) = fieldAt b 4 4 ∧ inflightAll s < 65536 ∧
      Inv s ∧ ((streamRec s (fieldAt b 0 1)).maxin = 0 ∨ inflightOn s (fieldAt b 0 1) < (streamRec s (fieldAt b 0 1)).maxin)) ∧
    (∃ (x : Submission) (src : Nat) (id : Nat) (slot : Nat) (b : List Byte) (s : State) (l : Nat × Nat × Nat), submits s x src id slot b ∧
      (∀ i ∈ s.ledger.items, i.stream = fieldAt b 0 1 → i.tag ≠ fieldAt b 4 4) ∧ (∀ y ∈ (getStream s (fieldAt b 0 1)).tags, y.1 ≠ fieldAt b 4 4) ∧
      l ∈ (getStream s (fieldAt b 0 1)).lost ∧ l.2.1 = fieldAt b 4 4 ∧ (∀ y ∈ (getStream s (fieldAt b 0 1)).lost, y.2.1 = l.2.1 → y = l)) ∧
    (∃ (x : Submission) (src : Nat) (id : Nat) (slot : Nat) (b : List Byte) (s : State), submits s x src id slot b ∧ (∀ i ∈ s.ledger.items,
      i.stream = fieldAt b 0 1 → i.tag ≠ fieldAt b 4 4) ∧ (∀ y ∈ (getStream s (fieldAt b 0 1)).tags, y.1 ≠ fieldAt b 4 4) ∧
      (getStream s (fieldAt b 0 1)).lost ≠ [] ∧ (∀ y ∈ (getStream s (fieldAt b 0 1)).lost, y.2.1 ≠ fieldAt b 4 4)) ∧
    (∃ (x : Submission) (src : Nat) (id : Nat) (slot : Nat) (b : List Byte) (s : State) (i : LItem), submits s x src id slot b ∧ i ∈ s.ledger.items ∧
      i.stream = fieldAt b 0 1 ∧ i.tag = fieldAt b 4 4 ∧ i.st ≠ .held ∧ (∀ j ∈ s.ledger.items, j.stream = i.stream → j.tag = i.tag → j = i)) ∧
    (∃ (x : Submission) (src : Nat) (id : Nat) (slot : Nat) (b : List Byte) (s : State) (n : Nat), submits s x src id slot b ∧ (∀ i ∈ s.ledger.items,
      i.stream = fieldAt b 0 1 → i.tag ≠ fieldAt b 4 4) ∧ (∀ y ∈ (getStream s (fieldAt b 0 1)).tags, y.1 ≠ fieldAt b 4 4) ∧
      (getStream s (fieldAt b 0 1)).lost = [] ∧ (getStream s (fieldAt b 0 1)).n = some n ∧ n < 2 ^ 32 ∧ n ≠ fieldAt b 4 4) :=
  ⟨⟨.host 1#8 sub0, 3, 0, 1, sub0, hostStream,
    (by delta submits arrives ledgerReady dramReady lockedOut targetsOf physKind dramSize; cases Config.m8i <;> decide +kernel), (by decide +kernel),
    (by decide +kernel), (by decide +kernel), (by decide +kernel), (by decide +kernel), inv_ok _ (by decide +kernel), (by decide +kernel)⟩,
   ⟨.host 1#8 sub0, 3, 0, 1, sub0, setStream 0 { LStream.fresh with lost := [(3,5,1)] } hostStream, (3,5,1),
     (by delta submits arrives ledgerReady dramReady lockedOut targetsOf physKind dramSize; cases Config.m8i <;> decide +kernel),
     (by decide +kernel), (by decide +kernel), (by decide +kernel), (by decide +kernel), (by decide +kernel)⟩,
   ⟨.host 1#8 sub0, 3, 0, 1, sub0, setStream 0 { LStream.fresh with lost := [(3,9,1)] } hostStream,
     (by delta submits arrives ledgerReady dramReady lockedOut targetsOf physKind dramSize; cases Config.m8i <;> decide +kernel),
     (by decide +kernel), (by decide +kernel), (by decide +kernel), (by decide +kernel)⟩,
   ⟨.host 1#8 sub0, 3, 0, 1, sub0, withItems [{ item0 with st := .accepted }] hostStream, { item0 with st := .accepted },
     (by delta submits arrives ledgerReady dramReady lockedOut targetsOf physKind dramSize; cases Config.m8i <;> decide +kernel),
     (by decide +kernel), (by decide +kernel), (by decide +kernel), (by decide +kernel), (by decide +kernel)⟩,
   ⟨.host 1#8 sub0, 3, 0, 1, sub0, setStream 0 { LStream.fresh with n := some 6 } hostStream, 6,
     (by delta submits arrives ledgerReady dramReady lockedOut targetsOf physKind dramSize; cases Config.m8i <;> decide +kernel),
     (by decide +kernel), (by decide +kernel), (by decide +kernel), (by decide +kernel), (by decide +kernel), (by decide +kernel)⟩⟩

theorem meets_ItemsAreAcceptedDispatchedAndDone :
    (∃ (k : Fin 256) (s : State) (i : LItem), s.ledger.ready = true ∧ s.ledger.waits = [] ∧ i ∈ s.ledger.items ∧ i.stream = k ∧ i.st = .held ∧
      (∀ j ∈ s.ledger.items, j.stream = k → j.st = .held → j ≠ i → i.acc < j.acc) ∧ mirrorReady s = true ∧ sourceRoom s k i.slot = true ∧
      numberCovered s k i.acc = true ∧ i.restored = false ∧ ((i.durable = true → promiseBit s 1 = true ∧ durableRec s 0x03 i = true))) ∧
    (∃ (k : Fin 256) (s : State) (i : LItem), s.ledger.ready = true ∧ s.ledger.waits = [] ∧ i ∈ s.ledger.items ∧ i.stream = k ∧ i.st = .held ∧
      (∀ j ∈ s.ledger.items, j.stream = k → j.st = .held → j ≠ i → i.acc < j.acc) ∧ mirrorReady s = true ∧ sourceRoom s k i.slot = true ∧
      numberCovered s k i.acc = true ∧ i.durable = true) ∧
    (∃ (k : Fin 256) (s : State) (i : LItem), (getStream s k).lost = [] ∧ i ∈ s.ledger.items ∧ i.stream = k ∧ i.st = .accepted ∧
      s.ledger.waits = [] ∧ (∀ j ∈ s.ledger.items, j.stream = k → j.acc < i.acc → j.st = .dispatched ∨ j.st = .done ∨ j.st = .reported) ∧
      (∀ j ∈ s.ledger.items, j.stream = k → j.acc = i.acc → j = i) ∧ (∀ j ∈ s.ledger.items,
      j.stream = k → j.st = .dispatched → j.acc % 2 ^ (streamRec s k).dlog ≠ i.acc % 2 ^ (streamRec s k).dlog) ∧
      ((i.durable = true → durableRec s 0x04 i = true)) ∧ ledgerReady s (dispatchAddr s i) = 0 ∧ Inv s) ∧
    (∃ (k : Fin 256) (s : State) (i : LItem), (getStream s k).lost = [] ∧ i ∈ s.ledger.items ∧ i.stream = k ∧ i.st = .accepted ∧
      s.ledger.waits = [] ∧ (∀ j ∈ s.ledger.items, j.stream = k → j.acc < i.acc → j.st = .dispatched ∨ j.st = .done ∨ j.st = .reported) ∧
      (∀ j ∈ s.ledger.items, j.stream = k → j.acc = i.acc → j = i) ∧ (∀ j ∈ s.ledger.items,
      j.stream = k → j.st = .dispatched → j.acc % 2 ^ (streamRec s k).dlog ≠ i.acc % 2 ^ (streamRec s k).dlog) ∧ i.durable = true ∧
      recorded s 0x04 i = false) ∧
    (∃ (r : Route) (v : Word) (s : State) (i : LItem), serves s r (callNo 0x1400 4) ∧ s.ledger.waits = [] ∧ i ∈ s.ledger.items ∧ i.st = .dispatched ∧
      i.stream = v.toNat % 256 ∧ i.acc % 2 ^ 24 = v.toNat / 256 % 2 ^ 24 ∧ (∀ j ∈ s.ledger.items,
      j.stream = i.stream → j.st = .dispatched → j.acc % 2 ^ 24 = i.acc % 2 ^ 24 → j = i) ∧ (streamRec s i.stream).src ≠ 0 ∧
      (streamRec s i.stream).consumer = (if routeWho r < 256 then pairOf (routeWho r) else 255) ∧ ledgerReady s (dispatchAddr s i) = 0 ∧
      cleanWords s (dispatchAddr s i + 24) 8) ∧
    (∃ (r : Route) (v : Word) (s : State), serves s r (callNo 0x1400 4) ∧ (∀ j ∈ s.ledger.items,
      j.st = .dispatched → j.stream = v.toNat % 256 → j.acc % 2 ^ 24 = v.toNat / 256 % 2 ^ 24 → (streamRec s j.stream).src = 0 ∨ (streamRec s j.stream).consumer ≠ (if routeWho r < 256 then pairOf (routeWho r) else 255))) :=
  ⟨⟨0, withItems [item0] (dramUp hostStream), item0, (by decide +kernel), (by decide +kernel), (by decide +kernel), (by decide +kernel),
    (by decide +kernel), (by decide +kernel),
    (by delta mirrorReady ledgerReady dramReady lockedOut targetsOf physKind dramSize; cases Config.m8i <;> decide +kernel), (by decide +kernel),
    (by decide +kernel), (by decide +kernel), (by decide +kernel)⟩,
   ⟨0, withItems [{ item0 with durable := true }] (dramUp hostStream), { item0 with durable := true }, (by decide +kernel), (by decide +kernel),
     (by decide +kernel), (by decide +kernel), (by decide +kernel), (by decide +kernel),
     (by delta mirrorReady ledgerReady dramReady lockedOut targetsOf physKind dramSize; cases Config.m8i <;> decide +kernel), (by decide +kernel),
     (by decide +kernel), (by decide +kernel)⟩,
   ⟨0, asSplit 3 (withItems [{ item0 with st := .accepted }, { item0 with st := .accepted, acc := 8 }] (dramUp hostStream)),
     { item0 with st := .accepted }, (by decide +kernel), (by decide +kernel), (by decide +kernel), (by decide +kernel), (by decide +kernel),
     (by decide +kernel), (by decide +kernel), (by decide +kernel), (by decide +kernel),
     (by delta ledgerReady dramReady lockedOut targetsOf physKind dramSize; cases Config.m8i <;> decide +kernel), inv_ok _ (by decide +kernel)⟩,
   ⟨0, withItems [{ item0 with st := .accepted, durable := true }] (dramUp hostStream), { item0 with st := .accepted, durable := true },
     (by decide +kernel), (by decide +kernel), (by decide +kernel), (by decide +kernel), (by decide +kernel), (by decide +kernel),
     (by decide +kernel), (by decide +kernel), (by decide +kernel), (by decide +kernel)⟩,
   ⟨.window 6, 0x700#32,
     okMem (fun m => { m with bytes := [⟨256*4+256*3+24,5#8⟩] }) (withItems [{ item0 with st := .dispatched }] (dramUp hostStream)),
     { item0 with st := .dispatched }, (by unfold serves; decide +kernel), (by decide +kernel), (by decide +kernel), (by decide +kernel),
     (by decide +kernel), (by decide +kernel), (by decide +kernel), (by decide +kernel), (by decide +kernel),
     (by delta ledgerReady dramReady lockedOut targetsOf physKind dramSize; cases Config.m8i <;> decide +kernel),
     (by unfold cleanWords; decide +kernel)⟩,
   ⟨.window 6, 0x700#32, hostStream, (by unfold serves; decide +kernel), (by decide +kernel)⟩⟩

theorem meets_ReportsLeaveInOrder :
    (∃ (k : Fin 256) (s : State) (i : LItem), i ∈ s.ledger.items ∧ i.stream = k ∧ i.st = .done ∧ i.sent = none ∧ s.ledger.waits = [] ∧
      (∀ j ∈ s.ledger.items, j.stream = k → j.st ≠ .reported → j ≠ i → i.acc < j.acc) ∧ (∀ l ∈ (getStream s k).lost, i.acc < l.1) ∧
      sourceRoom s k i.slot = true ∧ ((i.durable = true → durableRec s 0x05 i = true))) ∧
    (∃ (x : Origin) (k : Fin 256) (acc : BitVec 48) (s : State) (i : LItem), (streamRec s k).src = originSrc x ∧ (streamRec s k).srcid = originId x ∧
      i ∈ s.ledger.items ∧ i.stream = k ∧ i.acc = acc.toNat ∧ i.st = .done ∧ i.sent ≠ none ∧ (∀ j ∈ s.ledger.items,
      j.stream = k → j.acc = i.acc → j = i) ∧ Inv s) ∧
    (∃ (x : Origin) (k : Fin 256) (acc : BitVec 48) (s : State),
      ((streamRec s k).src ≠ originSrc x ∨ (streamRec s k).srcid ≠ originId x ∨ (∀ j ∈ s.ledger.items,
      j.stream = k → j.acc = acc.toNat → j.st ≠ .done ∨ j.sent = none))) ∧
    (∃ (k : Fin 256) (s : State) (i : LItem) (due : Nat), i ∈ s.ledger.items ∧ i.stream = k ∧ i.st = .done ∧ i.sent = some due ∧
      (∀ j ∈ s.ledger.items, j.stream = k → j.st ≠ .reported → j ≠ i → i.acc < j.acc) ∧ (∀ l ∈ (getStream s k).lost, i.acc < l.1) ∧
      (((streamRec s k).src = 1 ∧ due ≤ (getRing s 0).cycle ∧ ringCycle s 0 ≠ 0) ∨ ((streamRec s k).src = 2 ∧ due ≤ (getRing s 1).cycle ∧
      ringCycle s 1 ≠ 0) ∨ ((streamRec s k).src = 3 ∧ due ≤ s.up ∧ s.host.queue.length < 32))) :=
  ⟨⟨0, withItems [{ item0 with st := .done }, { item0 with acc := 8, st := .done }] hostStream, { item0 with st := .done }, (by decide +kernel),
    (by decide +kernel), (by decide +kernel), (by decide +kernel), (by decide +kernel), (by decide +kernel), (by decide +kernel),
    (by decide +kernel), (by decide +kernel)⟩,
   ⟨.host, 0, 7, withItems [{ item0 with st := .done, sent := some 9 }, { item0 with acc := 8, st := .done }] hostStream,
     { item0 with st := .done, sent := some 9 }, (by decide +kernel), (by decide +kernel), (by decide +kernel), (by decide +kernel),
     (by decide +kernel), (by decide +kernel), (by decide +kernel), (by decide +kernel), inv_ok _ (by decide +kernel)⟩,
   ⟨.host, 0, 7, hostStream, (by decide +kernel)⟩,
   ⟨0, withItems [{ item0 with st := .done, sent := some 0 }] hostStream, { item0 with st := .done, sent := some 0 }, 0, (by decide +kernel),
     (by decide +kernel), (by decide +kernel), (by decide +kernel), (by decide +kernel), (by decide +kernel), (by decide +kernel)⟩⟩

theorem meets_LostItemsAndStreamCommands :
    (∃ (k : Fin 256) (acc : BitVec 48) (s : State) (i : LItem), Inv s ∧ i ∈ s.ledger.items ∧ i.stream = k ∧ i.acc = acc.toNat ∧ itemOpen i = true ∧
      (∀ j ∈ s.ledger.items, j.stream = k → j.acc = i.acc → j = i) ∧ i.durable = false ∧ (∀ l ∈ (getStream s k).lost, l.1 ≠ i.acc)) ∧
    (∃ (k : Fin 256) (acc : BitVec 48) (s : State) (i : LItem), i ∈ s.ledger.items ∧ i.stream = k ∧ i.acc = acc.toNat ∧ itemOpen i = true ∧
      (∀ j ∈ s.ledger.items, j.stream = k → j.acc = i.acc → j = i) ∧ i.durable = true) ∧
    (∃ (r : Route) (k : Fin 256) (s : State), Inv s ∧ serves s r (callNo 0x1400 6) ∧ (getStream s k).lost ≠ [] ∧ (∀ i ∈ s.ledger.items,
      i.stream = k → i.st ≠ .held)) ∧
    (∃ (r : Route) (k : Fin 256) (s : State), Inv s ∧ serves s r (callNo 0x1400 6) ∧ inflightOn s k = 0) ∧
    (∃ (r : Route) (s : State), serves s r (callNo 0x1400 6)) ∧
    (∃ (r : Route) (l : List Byte) (s : State), serves s r cStreams ∧ routeNo r ≠ 0 ∧ archiveLow s = false ∧ l.length = 4096 ∧
      streamsCode s (maskStreams l) = 0) :=
  ⟨⟨0, 7, withItems [{ item0 with st := .accepted }, { item0 with acc := 8, st := .done }] hostStream, { item0 with st := .accepted },
    inv_ok _ (by decide +kernel), (by decide +kernel), (by decide +kernel), (by decide +kernel), (by decide +kernel), (by decide +kernel),
    (by decide +kernel), (by decide +kernel)⟩,
   ⟨0, 7, withItems [{ item0 with st := .accepted, durable := true }] hostStream, { item0 with st := .accepted, durable := true },
     (by decide +kernel), (by decide +kernel), (by decide +kernel), (by decide +kernel), (by decide +kernel), (by decide +kernel)⟩,
   ⟨.host, 0, setStream 0 { LStream.fresh with lost := [(3,1,0),(4,2,0)] } hostStream, inv_ok _ (by decide +kernel),
     (by unfold serves; decide +kernel), (by decide +kernel), (by decide +kernel)⟩,
   ⟨.host, 0, setStream 0 { LStream.fresh with n := some 3 } hostStream, inv_ok _ (by decide +kernel), (by unfold serves; decide +kernel),
     (by decide +kernel)⟩,
   ⟨.host, hostStream, (by unfold serves; decide +kernel)⟩,
   ⟨.host, List.replicate 4096 0#8, base, (by unfold serves; decide +kernel), (by decide +kernel), (by decide +kernel), List.length_replicate,
     (zeros_streams _ fun _ => rfl)⟩⟩

theorem meets_ArchiveKeepsTheJournal :
    (∃ (s : State), domGet s (.dev 9) = 0 ∧ programDue s = true ∧ s.arch.headUsed < 63) ∧
    (∃ (r : JRec) (l : List JRec) (s : State), s.arch.prog = r :: l ∧ s.arch.victim = none ∧ s.arch.weeding = true ∧ s.arch.st = 1 ∧ (∀ x ∈ r :: l,
      ∀ y ∈ s.arch.journal, x.seq ≠ y.seq) ∧ 8 < archiveFree { s with arch := { s.arch with journal := s.arch.journal ++ r :: l, prog := [] } }) ∧
    (∃ (b : Fin 4096) (s : State), b.val ∈ s.arch.erasing ∧ s.arch.victim ≠ some b.val ∧ s.arch.st = 1 ∧ 8 < archiveFree s ∧ (∀ y ∈ s.arch.journal,
      y.block ≠ b)) ∧
    (∃ (b : Fin 4096) (k : Nat) (ks : List Nat) (s : State), fwBlock s b = false ∧ inService s b = true ∧ s.arch.spares = k :: ks ∧ s.arch.head = b ∧
      b.val ∉ s.arch.erasing ∧ b.val ∉ s.arch.free ∧ k ∉ s.arch.free ∧ s.arch.victim ≠ some b.val ∧ (∀ y ∈ s.arch.journal, y.block ≠ b) ∧
      (∀ y ∈ s.arch.prog, y.block ≠ b)) ∧
    (∃ (s : State), s.boot.running = true ∧ stepDone s 5 = false ∧ deviceHeld s = false ∧ s.boot.stopped = false ∧ valGet s (callNo 0x1000 8) ≠ 1 ∧
      s.arch.st = 0 ∧ 8 < archiveFree s) ∧
    (∃ (s : State), s.boot.running = true ∧ stepDone s 5 = false ∧ deviceHeld s = false ∧ s.boot.stopped = false ∧ valGet s (callNo 0x1000 8) = 1 ∧
      s.arch.journal = [] ∧ s.arch.heads = [] ∧ s.arch.retired = [] ∧ s.arch.st = 0 ∧ s.ledger.items = []) ∧
    (∃ (r : Route) (s : State), serves s r (callNo 0x1300 4) ∧ s.arch.weeding = false ∧ weedGoal s true = 0 ∧ awake s (.dev 9)) ∧
    (∃ (s : State) (v : Nat), s.arch.weeding = false ∧ s.arch.st = 1 ∧ 10000 * archiveFree s / blocksInService s < valGet s (callNo 0x1300 3) ∧
      0 < weedGoal s false ∧ weedVictim s = some v) :=
  ⟨⟨{ archRun (fun a => { a with queue := [rec0 1] }) base with up := 400000 }, (by decide +kernel), (by decide +kernel), (by decide +kernel)⟩,
   ⟨rec0 1, [], archRun (fun a => { a with prog := [rec0 1], weeding := true }) base, (by decide +kernel), (by decide +kernel), (by decide +kernel),
     (by decide +kernel), (by decide +kernel), (by decide +kernel)⟩,
   ⟨9, archRun (fun a => { a with erasing := [9], free := a.free.erase 9 }) base, (by decide +kernel), (by decide +kernel), (by decide +kernel),
     (by decide +kernel), (by decide +kernel)⟩,
   ⟨0, 3600, [3601], archRun (fun a => { a with spares := [3600, 3601] }) base, (by decide +kernel), (by decide +kernel), (by decide +kernel),
     (by decide +kernel), (by decide +kernel), (by decide +kernel), (by decide +kernel), (by decide +kernel), (by decide +kernel),
     (by decide +kernel)⟩,
   ⟨{ valPut (callNo 0x1000 8) 3 base with boot := { base.boot with running := true }, arch := { base.arch with st := 0 } }, (by decide +kernel),
     (by decide +kernel), (by decide +kernel), (by decide +kernel), (by decide +kernel), (by decide +kernel), (by decide +kernel)⟩,
   ⟨valPut (callNo 0x1000 8) 1 { base with boot := { base.boot with running := true }, arch := { base.arch with st := 0 } }, (by decide +kernel),
     (by decide +kernel), (by decide +kernel), (by decide +kernel), (by decide +kernel), (by decide +kernel), (by decide +kernel),
     (by decide +kernel), (by decide +kernel), (by decide +kernel)⟩,
   ⟨.host, archRun (fun a => a) base, (by unfold serves; decide +kernel), (by decide +kernel), (by decide +kernel),
     (by unfold awake; decide +kernel)⟩,
   ⟨valPut (callNo 0x1300 3) 9999 (archRun (fun a => { a with nextSeq := 40, journal := (List.range 11).map fun n => { rec0 (n + 2) with key := n, block := n + 1 } }) base),
     1, (by decide +kernel), (by decide +kernel), (by decide +kernel), (by decide +kernel), (by decide +kernel)⟩⟩

theorem meets_CatalogueServesItsEntries :
    (∃ (r : Route) (call : BitVec 24) (s : State) (d : Desc) (l : List Byte), s.cat.ready = true ∧ routeClosed s r = false ∧ routeNo r ≠ 0 ∧
      descOf s call.toNat = some d ∧ d.acc ≠ 2 ∧ lcDenied s (routeNo r) false call.toNat = false ∧ valueBytes call.toNat s = (l, s)) ∧
    (∃ (call : BitVec 24) (v : Nat) (s : State) (d : Desc), s.cat.ready = true ∧ descOf s call.toNat = some d ∧ d.acc ≠ 2 ∧
      lcDenied s 0 false call.toNat = false ∧ shortType d.type = true ∧ shortRead call.toNat s = (v, s)) ∧
    (∃ (r : Route) (call : BitVec 24) (s : State), s.cat.ready = true ∧ routeClosed s r = false ∧ routeNo r ≠ 0 ∧ descOf s call.toNat = none) ∧
    (∃ (r : Route) (call : BitVec 24) (data : List Byte) (s : State) (u : State) (d : Desc) (v : Nat), serves s r call.toNat ∧ routeNo r ≠ 0 ∧
      deviceDesc call.toNat = some d ∧ shortType d.type = true ∧ d.acc ≠ 0 ∧ d.acc ≠ 4 ∧ ((d.acc = 3 → unitRuns s call.toNat = false)) ∧
      ((r = .debug → d.size ≤ 4)) ∧ data.length = d.size ∧ v = Nat.land (leNat data) (writeMask call.toNat) ∧ descRange s call.toNat d v = false ∧
      unitRange s call.toNat v = false ∧ ((d.jrn = true → archiveLow s = false)) ∧ applyShort (routeNo r) 256 call.toNat v none s = (0, u)) ∧
    (∃ (r : Route) (call : BitVec 24) (s : State) (d : Desc), serves s r call.toNat ∧ routeNo r ≠ 0 ∧ deviceDesc call.toNat = some d ∧
      shortType d.type = false ∧ d.acc ≠ 0 ∧ d.acc ≠ 4 ∧ ((d.acc = 3 → unitRuns s call.toNat = false)) ∧ (∀ g ∈ s.cat.segs, g.call ≠ call.toNat)) ∧
    (∃ (r : Route) (call : BitVec 24) (s : State) (d : Desc) (g : SegWrite), serves s r call.toNat ∧ routeNo r ≠ 0 ∧ deviceDesc call.toNat = some d ∧
      shortType d.type = false ∧ d.acc ≠ 0 ∧ d.acc ≠ 4 ∧ ((d.acc = 3 → unitRuns s call.toNat = false)) ∧ s.cat.segs = [g] ∧ g.call = call.toNat ∧
      g.route = routeNo r ∧ g.data ≠ []) ∧
    (∃ (r : Route) (call : BitVec 24) (data : List Byte) (s : State) (u : State) (d : Desc) (g : SegWrite), serves s r call.toNat ∧ routeNo r ≠ 0 ∧
      deviceDesc call.toNat = some d ∧ shortType d.type = false ∧ d.acc ≠ 0 ∧ d.acc ≠ 4 ∧ ((d.acc = 3 → unitRuns s call.toNat = false)) ∧
      s.cat.segs = [g] ∧ g.call = call.toNat ∧ g.route = routeNo r ∧ g.data ≠ [] ∧
      applyLong call.toNat (g.data ++ data) none { s with cat := { s.cat with segs := [] } } = (0, u) ∧
      (if d.type = 15 then (g.data ++ data).length = d.size else (g.data ++ data).length ≤ d.size) ∧
      longRange { s with cat := { s.cat with segs := [] } } call.toNat d (g.data ++ data) = false ∧ ((d.jrn = true → archiveLow s = false))) ∧
    (∃ (r : Route) (call : BitVec 24) (s : State) (d : Desc), s.cat.ready = true ∧ routeNo r ≠ 0 ∧ r ≠ .debug ∧ descOf s call.toNat = some d) ∧
    (∃ (call : BitVec 24) (s : State) (g : SegWrite), s.cat.segs.find? (fun y => y.call == call.toNat) = some g ∧ g.at_ + 400000000 < s.up) :=
  ⟨⟨.host, 0x110006, valPut (callNo 0x1100 6) 0x1234 base, dOf (valPut (callNo 0x1100 6) 0x1234 base) 0x110006,
    (valueBytes 0x110006 (valPut (callNo 0x1100 6) 0x1234 base)).1, (by decide +kernel), (by decide +kernel), (by decide +kernel),
    (by decide +kernel), (by decide +kernel), (by decide +kernel), (by decide +kernel)⟩,
   ⟨0x110006, 0x1234, valPut (callNo 0x1100 6) 0x1234 base, dOf (valPut (callNo 0x1100 6) 0x1234 base) 0x110006, (by decide +kernel),
     (by decide +kernel), (by decide +kernel), (by decide +kernel), (by decide +kernel), (by decide +kernel)⟩,
   ⟨.ringA, 0x0FFFFF, base, (by decide +kernel), (by decide +kernel), (by decide +kernel), (by decide +kernel)⟩,
   ⟨.host, 0x110006, [0x34#8,0x12#8,0#8,0#8], base, (applyShort (routeNo (.host)) 256 0x110006 (0x1234) none (base)).2, dOf (base) 0x110006, 0x1234,
     (by unfold serves; decide +kernel), (by decide +kernel), (by decide +kernel), (by decide +kernel), (by decide +kernel), (by decide +kernel),
     (by decide +kernel), (by decide +kernel), (by decide +kernel), (by decide +kernel), (by decide +kernel), (by decide +kernel),
     (by decide +kernel), (by decide +kernel)⟩,
   ⟨.host, (0x105005 : BitVec 24), base, dOf (base) 0x105005, (by unfold serves; decide +kernel), (by decide +kernel), (by decide +kernel),
     (by decide +kernel), (by decide +kernel), (by decide +kernel), (by decide +kernel), (by decide +kernel)⟩,
   ⟨.host, (0x105005 : BitVec 24), { base with cat := { base.cat with segs := [⟨0x105005,3,[7#8],0⟩] } },
     dOf ({ base with cat := { base.cat with segs := [⟨0x105005,3,[7#8],0⟩] } }) 0x105005, ⟨0x105005,3,[7#8],0⟩, (by unfold serves; decide +kernel),
     (by decide +kernel), (by decide +kernel), (by decide +kernel), (by decide +kernel), (by decide +kernel), (by decide +kernel),
     (by decide +kernel), (by decide +kernel), (by decide +kernel), (by decide +kernel)⟩,
   ⟨.host, 0x105004, [0#8,0#8], { base with cat := { base.cat with segs := [⟨0x105004,3,[7#8],0⟩] } },
     (applyLong 0x105004 [7#8,0#8,0#8] none base).2, dOf ({ base with cat := { base.cat with segs := [⟨0x105004,3,[7#8],0⟩] } }) 0x105004,
     ⟨0x105004,3,[7#8],0⟩, (by unfold serves; decide +kernel), (by decide +kernel), (by decide +kernel), (by decide +kernel), (by decide +kernel),
     (by decide +kernel), (by decide +kernel), (by decide +kernel), (by decide +kernel), (by decide +kernel), (by decide +kernel),
     (by decide +kernel), (by decide +kernel), (by decide +kernel), (by decide +kernel)⟩,
   ⟨.host, 0x110006, base, dOf (base) 0x110006, (by decide +kernel), (by decide +kernel), (by decide +kernel), (by decide +kernel)⟩,
   ⟨0x110006, { base with up := 400000001, cat := { base.cat with segs := [⟨0x110006,3,[7#8],0⟩] } }, ⟨0x110006,3,[7#8],0⟩, (by decide +kernel),
     (by decide +kernel)⟩⟩

theorem meets_RingCyclesRunAndAreDecided :
    (∃ (r : Fin 2) (s : State), Inv s ∧ ringRole s r = 1 ∧ (getRing s r).st ≠ 0 ∧ valGet s (cRing r 7) ≤ s.now ∧
      cycleStart s r (s.now - valGet s (cRing r 7)) = true ∧ linkUp s (outPort r) = true ∧ linkUp s (inPort r) = true ∧
      (∀ l ∈ (getRing s r).launched, l.at_ ≠ s.now)) ∧
    (∃ (r : Fin 2) (ts : Nat) (f : List Byte) (l : Launch) (s : State), Inv s ∧ noRestart s ∧ ringRole s r = 1 ∧ (getRing s r).launched = [l] ∧
      linkUp s (inPort r) = true ∧ ramnas s r f = true ∧ fcsGood f = true ∧ frameValid s r f = true ∧ frameCycle f = l.cycle ∧
      frameFlag f 5 = false ∧ frameFlag f 7 = false ∧ ts + f.length * byteTime s r ≤ l.due + 8000 ∧ firstBad f l.wkc (telsOf f) 0 = 0xFF ∧
      (∀ y ∈ telsOf f, y.svc ≠ 0x10) ∧ (getRing s r).st ≠ 4) ∧
    (∃ (r : Fin 2) (l : Launch) (ls : List Launch) (s : State), Inv s ∧ noRestart s ∧ ringRole s r = 1 ∧ (getRing s r).launched = l :: ls ∧
      l.due + 8000 ≤ s.now ∧ (getRing s r).st ≠ 4) ∧
    (∃ (r : Fin 2) (f : List Byte) (s : State), Inv s ∧ noRestart s ∧ ringRole s r = 2 ∧ ramnas s r f = true ∧ fcsGood f = true ∧
      frameValid s r f = true ∧ frameFlag f 5 = false ∧ nodeLoops s r = false ∧ frameFlag f 4 = (getRing s r).looped ∧ (∀ y ∈ telsOf f,
      y.svc ≠ 0x10) ∧ (getRing s r).st ≠ 4 ∧ valGet s (callNo 0x1110 3) = 0 ∧ s.boot.stopped = false) ∧
    (∃ (r : Fin 2) (y : NodeTime) (a : Nat) (s : State), Inv s ∧ noRestart s ∧ ringRole s r = 2 ∧ (getRing s r).time = some y ∧
      (getRing s r).arrived = some a ∧ a + y.clen + 8000 ≤ s.now ∧ (getRing s r).st ≠ 4 ∧ (getRing s r).fails + 1 < valGet s (cRing r 0x0B)) ∧
    (∃ (r : Fin 2) (f : List Byte) (s : State), Inv s ∧ ringRole s r ≠ 0 ∧ ramnas s r f = true ∧ fcsGood f = true) :=
  ⟨⟨0, linked { valPut (cRing 0 7) 1000 master0 with now := 63500 }, inv_ok _ (by decide +kernel), (by decide +kernel), (by decide +kernel),
    (by decide +kernel), (by decide +kernel), (by decide +kernel), (by decide +kernel), (by decide +kernel)⟩,
   ⟨0, 0,
     frame (linked2 (setRing 0 { (getRing master0 0) with launched := [⟨5,64,0,1000,[0x0101]⟩], fails := 2 } master0)) 0 0 1 5 1 (tel1.dropLast.dropLast ++ [1#8,1#8]),
     ⟨5,64,0,1000,[0x0101]⟩, linked2 (setRing 0 { (getRing master0 0) with launched := [⟨5,64,0,1000,[0x0101]⟩], fails := 2 } master0),
     inv_ok _ (by decide +kernel), noRestart_ok _ (by decide +kernel), (by decide +kernel), (by decide +kernel), (by decide +kernel),
     (by decide +kernel), (by decide +kernel), (by decide +kernel), (by decide +kernel), (by decide +kernel), (by decide +kernel),
     (by decide +kernel), (by decide +kernel), (by decide +kernel), (by decide +kernel)⟩,
   ⟨0, ⟨5, 64, 0, 100, [0x0101]⟩, [⟨6,64,0,100,[]⟩],
     { setRing 0 { (getRing master0 0) with launched := [⟨5, 64, 0, 100, [0x0101]⟩,⟨6,64,0,100,[]⟩], fails := 0 } (valPut (cRing 0 0x0B) 3 master0) with now := 8100 },
     inv_ok _ (by decide +kernel), noRestart_ok _ (by decide +kernel), (by decide +kernel), (by decide +kernel), (by decide +kernel),
     (by decide +kernel)⟩,
   ⟨0, frame (node0) 0 0 1 5 1 tel1, node0, inv_ok _ (by decide +kernel), noRestart_ok _ (by decide +kernel), (by decide +kernel),
     (by decide +kernel), (by decide +kernel), (by decide +kernel), (by decide +kernel), (by decide +kernel), (by decide +kernel),
     (by decide +kernel), (by decide +kernel), (by decide +kernel), (by decide +kernel)⟩,
   ⟨0, ⟨0, 62500, 0, 1⟩, 0, { valPut (cRing 0 0x0B) 3 node0 with now := 70500 }, inv_ok _ (by decide +kernel), noRestart_ok _ (by decide +kernel),
     (by decide +kernel), (by decide +kernel), (by decide +kernel), (by decide +kernel), (by decide +kernel), (by decide +kernel)⟩,
   ⟨0, frame (node0) 0 0 1 5 1 tel1, node0, inv_ok _ (by decide +kernel), (by decide +kernel), (by decide +kernel), (by decide +kernel)⟩⟩

theorem meets_SegmentsAreExchanged :
    (∃ (r : Fin 2) (a : Nat) (g : AcySeg) (s : State), Inv s ∧ ringRole s r = 1 ∧ (getRing s r).st ≠ 0 ∧ windowFits s r 64 = true ∧
      (getRing s r).scan = false ∧ pollOrder s r = [a] ∧ 0 < acycCount s r ∧ oldestSeg (getRing s r) a = some g ∧ a ≠ 0 ∧
      linkUp s (outPort r) = true ∧ overLimit s r g = false) ∧
    (∃ (r : Fin 2) (p : Fin 256) (xid : Fin 256) (d : List Byte) (s : State), Inv s ∧ p = ownAddr s r ∧ 0x40 ≤ fieldAt d 0 1 ∧ fieldAt d 0 1 ≤ 0x7F ∧
      oldestSeg (getRing s r) (fieldAt d 1 1) = none ∧ kvGet 0 (getRing s r).xidIn (fieldAt d 1 1) ≠ xid.val + 1 ∧ (getRing s r).rx.length < 64 ∧
      (getRing s r).staged = []) ∧
    (∃ (r : Fin 2) (p : Fin 256) (g : AcySeg) (s : State), Inv s ∧ oldestSeg (getRing s r) p = some g ∧ 0 < g.sends ∧ 0 < g.sentAt ∧
      ((ringRole s r = 1 ∨ g.sentAt + valGet s (cRing r 0x0D) ≤ (getRing s r).cycle + 1))) ∧
    (∃ (r : Fin 2) (who : Fin 257) (s : State), Inv s ∧ mayStage s r who = true ∧ 0 < stageFree (getRing s r) ∧
      (leNat ((List.range 1).map fun i => kvGet 0#8 (getRing s r).stage i) = 0x40)) ∧
    (∃ (s : State), Inv s) ∧
    (∃ (s : State), Inv s) ∧
    (∃ (n : Fin 256) (s : State), Inv s ∧ pairSplit (getPair s (pairOf n)) = true) ∧
    (∃ (n : Fin 256) (s : State), Inv s ∧ pairSplit (getPair s (pairOf n)) = false ∧ n.val % 2 = 0 ∧ inReplay (getPair s (pairOf n)) = false ∧
      s.mem.wipe = none ∧ (getPair s (pairOf n)).logN < 1408) :=
  ⟨⟨0, 3, seg0,
    linked2 { valPut (cRing 0 0x18) 1 (valPut (cTopo 0 1) 3 (setRing 0 { (getRing master0 0) with txq := [seg0], cycle := 2 } master0)) with now := 20000 },
    inv_ok _ (by decide +kernel), (by decide +kernel), (by decide +kernel), (by decide +kernel), (by decide +kernel), (by decide +kernel),
    (by decide +kernel), (by decide +kernel), (by decide +kernel), (by decide +kernel), (by decide +kernel)⟩,
   ⟨0, (Fin.ofNat 256 (ownAddr (node0) 0)), 9, [0x40#8,3#8,0#8,1#8,0#8,0#8,1#8,0#8, 0x55#8], node0, inv_ok _ (by decide +kernel),
     (by decide +kernel), (by decide +kernel), (by decide +kernel), (by decide +kernel), (by decide +kernel), (by decide +kernel),
     (by decide +kernel)⟩,
   ⟨0, 3, { seg0 with sends := 1, sentAt := 1 },
     valPut (cRing 0 0x0E) 2 (setRing 0 { (getRing master0 0) with txq := [{ seg0 with sends := 1, sentAt := 1 }] } master0),
     inv_ok _ (by decide +kernel), (by decide +kernel), (by decide +kernel), (by decide +kernel), (by decide +kernel)⟩,
   ⟨0, 0, valPut (cRing 0 0x0F) 0 <| setRing 0 { (getRing master0 0) with stage := [(0,0x40#8)] } master0, inv_ok _ (by decide +kernel),
     (by decide +kernel), (by decide +kernel), (by decide +kernel)⟩,
   ⟨setRing 0 { RingSt.off with rx := [[1#8],[2#8]] } base, inv_ok _ (by decide +kernel)⟩,
   ⟨setCap 16 ⟨[(0,true,0)],0,none⟩ base, inv_ok _ (by decide +kernel)⟩,
   ⟨0, asSplit 0 (setEng 0 { running with rq := ⟨[1#32,2#32],true,true⟩ } base), inv_ok _ (by decide +kernel), (by decide +kernel)⟩,
   ⟨0, asChecked 0 (setEng 0 { running with rq := ⟨[1#32,2#32],true,true⟩ } base), inv_ok _ (by decide +kernel), (by decide +kernel),
     (by decide +kernel), (by decide +kernel), (by decide +kernel), (by decide +kernel)⟩⟩

theorem meets_RingsScanBreakAndClose :
    (∃ (rt : Route) (r : Fin 2) (s : State), Inv s ∧ serves s rt (cRing r 0x20) ∧ awake s (.dev (Fin.ofNat 10 (2 * r))) ∧
      awake s (.dev (Fin.ofNat 10 (2 * r + 1))) ∧ ringRole s r = 1 ∧ (getRing s r).st ≠ 0 ∧ (getRing s r).looped = false) ∧
    (∃ (r : Fin 2) (f : List Byte) (p : Tel) (s : State), Inv s ∧ ringRole s r = 1 ∧ (getRing s r).scan = true ∧ (getRing s r).probeOut = true ∧
      ramnas s r f = true ∧ fcsGood f = true ∧ frameValid s r f = true ∧ frameFlag f 5 = true ∧ telsOf f = [p] ∧ p.svc = 0x30 ∧ frameHops f ≤ 64) ∧
    (∃ (q : Fin 4) (s : State), Inv s ∧ valGet s (cPort q 1) ≠ 0) ∧
    (∃ (q : Fin 4) (speed : Fin 3) (s : State), Inv s ∧ valGet s (cPort q 1) = 0 ∧ speed ≠ 0 ∧ valGet s (cPort q 2) ≠ speed) ∧
    (∃ (q : Fin 4) (s : State), Inv s ∧ ringRole s (portRing q) = 2 ∧ (getPort s q).loop = true ∧ linkUp s q = true ∧
      (getPort s q).upAt + 400000000 ≤ s.up) ∧
    (∃ (r : Fin 2) (f : List Byte) (s : State), Inv s ∧ ringRole s r = 1 ∧ (getRing s r).st ≠ 0 ∧ linkUp s (outPort r) = true ∧
      linkUp s (inPort r) = true ∧ ramnas s r f = true ∧ fcsGood f = true ∧ (getRing s r).looped = false) ∧
    (∃ (r : Fin 2) (s : State), Inv s ∧ (getRing s r).closeSent = true ∧ cycleStart s r s.now = true ∧ ringRole s r = 1 ∧
      (getRing s r).looped = true) ∧
    (∃ (r : Fin 2) (s : State), Inv s ∧ (getRing s r).closeSent = true ∧ cycleStart s r s.now = true ∧ ringRole s r = 2) ∧
    (∃ (r : Fin 2) (ds : List Nat) (s : State), Inv s ∧ ringRole s r ≠ 0 ∧ (getRing s r).st ≠ 0 ∧ ds.length = ringHops s r + 1 ∧ ringHops s r ≤ 64 ∧
      s.boot.stopped = false) :=
  ⟨⟨.host, 0, master0, inv_ok _ (by decide +kernel), (by unfold serves; decide +kernel), (by unfold awake; decide +kernel),
    (by unfold awake; decide +kernel), (by decide +kernel), (by decide +kernel), (by decide +kernel)⟩,
   ⟨0, probe (setRing 0 { (getRing master0 0) with scan := true, probeOut := true } master0) 2,
     ((telsOf (probe (setRing 0 { (getRing master0 0) with scan := true, probeOut := true } master0) 2)).headD ⟨0,0,0,0,0,0⟩),
     setRing 0 { (getRing master0 0) with scan := true, probeOut := true } master0, inv_ok _ (by decide +kernel), (by decide +kernel),
     (by decide +kernel), (by decide +kernel), (by decide +kernel), (by decide +kernel), (by decide +kernel), (by decide +kernel),
     (by decide +kernel), (by decide +kernel), (by decide +kernel)⟩,
   ⟨0, linked master0, inv_ok _ (by decide +kernel), (by decide +kernel)⟩,
   ⟨0, 1, base, inv_ok _ (by decide +kernel), (by decide +kernel), (by decide +kernel), (by decide +kernel)⟩,
   ⟨0, { linked (setPort 0 { PortSt.down with loop := true } node0) with up := 400000000 }, inv_ok _ (by decide +kernel), (by decide +kernel),
     (by decide +kernel), (by decide +kernel), (by decide +kernel)⟩,
   ⟨0, frame (linked master0) 0 0 1 5 3 tel1, linked master0, inv_ok _ (by decide +kernel), (by decide +kernel), (by decide +kernel),
     (by decide +kernel), (by decide +kernel), (by decide +kernel), (by decide +kernel), (by decide +kernel)⟩,
   ⟨0, { setRing 0 { (getRing master0 0) with closeSent := true, looped := true } (valPut (cRing 0 0x19) 3 master0) with now := 62500 },
     inv_ok _ (by decide +kernel), (by decide +kernel), (by decide +kernel), (by decide +kernel), (by decide +kernel)⟩,
   ⟨0, setRing 0 { (getRing node0 0) with closeSent := true } (setPort 0 { PortSt.down with loop := true } (linked node0)),
     inv_ok _ (by decide +kernel), (by decide +kernel), (by decide +kernel), (by decide +kernel)⟩,
   ⟨0, [100,200,300], valPut (cRing 0 0x18) 2 master0, inv_ok _ (by decide +kernel), (by decide +kernel), (by decide +kernel), (by decide +kernel),
     (by decide +kernel), (by decide +kernel)⟩⟩

theorem meets_RolesStopsAndPtp :
    (∃ (rt : Route) (r : Fin 2) (v : Byte) (s : State), Inv s ∧ serves s rt (cRing r 1) ∧ archiveLow s = false ∧
      awake s (.dev (Fin.ofNat 10 (2 * r))) ∧ awake s (.dev (Fin.ofNat 10 (2 * r + 1))) ∧ roleCode s r v.toNat = 0 ∧ v ≠ 0#8 ∧
      valGet s (callNo 0x1110 3) = 0) ∧
    (∃ (rt : Route) (r : Fin 2) (s : State), Inv s ∧ serves s rt (cRing r 1) ∧ archiveLow s = false ∧ awake s (.dev (Fin.ofNat 10 (2 * r))) ∧
      awake s (.dev (Fin.ofNat 10 (2 * r + 1))) ∧ valGet s (callNo 0x1110 3) = 0) ∧
    (∃ (s : State), Inv s ∧ s.pins.stopN = true ∧ s.boot.vin = true ∧ deviceHeld s = false ∧ valGet s (cRing 0 1) = 0 ∧ valGet s (cRing 1 1) = 0) ∧
    (∃ (rt : Route) (r : Fin 2) (s : State), Inv s ∧ serves s rt (cRing r 0x20) ∧ awake s (.dev (Fin.ofNat 10 (2 * r))) ∧
      awake s (.dev (Fin.ofNat 10 (2 * r + 1))) ∧ s.pins.stopN = true ∧ s.pins.stop = true ∧ s.boot.tamperStop = false) ∧
    (∃ (q : Fin 4) (s : State), Inv s ∧ masterPort s q = true ∧ linkUp s q = true ∧ ptpFit s (portRing q) ≠ 0) ∧
    (∃ (q : Fin 4) (s : State), Inv s ∧ ringRole s (portRing q) ≠ 0 ∧ linkUp s q = true ∧ ptpFit s (portRing q) ≠ 0) ∧
    (∃ (q : Fin 4) (n : Nat) (t1 : Nat) (t2 : Nat) (t4 : Nat) (s : State), Inv s ∧ (getPort s q).pdT1 = some t1 ∧ (getPort s q).pdT2 = some t2 ∧
      (getPort s q).pdT4 = some t4 ∧ (n + 1) % 65536 = (getPort s q).pdSeq) ∧
    (∃ (q : Fin 4) (s : State), Inv s ∧ masterPort s q = false) ∧
    (∃ (s : State), Inv s) :=
  ⟨⟨.host, 0, 1, valPut (cTel 0 0 1) (0xFF + 0x20 * 256 + 30 * 65536) (valPut (cRing 0 6) 1 base), inv_ok _ (by decide +kernel),
    (by unfold serves; decide +kernel), (by decide +kernel), (by unfold awake; decide +kernel), (by unfold awake; decide +kernel),
    (by decide +kernel), (by decide +kernel), (by decide +kernel)⟩,
   ⟨.host, 0, master0, inv_ok _ (by decide +kernel), (by unfold serves; decide +kernel), (by decide +kernel), (by unfold awake; decide +kernel),
     (by unfold awake; decide +kernel), (by decide +kernel)⟩,
   ⟨{ valPut (cTio 1 3) 1 (valPut (cTio 2 3) 2 base) with boot := { base.boot with vin := true, steps := 15 } }, inv_ok _ (by decide +kernel),
     (by decide +kernel), (by decide +kernel), (by decide +kernel), (by decide +kernel), (by decide +kernel)⟩,
   ⟨.host, 0, { master0 with pins := { base.pins with stop := true } }, inv_ok _ (by decide +kernel), (by unfold serves; decide +kernel),
     (by unfold awake; decide +kernel), (by unfold awake; decide +kernel), (by decide +kernel), (by decide +kernel), (by decide +kernel)⟩,
   ⟨1, { valPut (cPort 1 1) 2 (valPut (cRing 0 7) 0 master0) with now := 62500 - 8000 }, inv_ok _ (by decide +kernel), (by decide +kernel),
     (by decide +kernel), (by decide +kernel)⟩,
   ⟨1, { valPut (cPort 1 1) 2 (valPut (cRing 0 7) 0 master0) with now := 62500 - 8000 }, inv_ok _ (by decide +kernel), (by decide +kernel),
     (by decide +kernel), (by decide +kernel)⟩,
   ⟨1, 0, 10, 40, 200, setPort 1 { PortSt.down with pdT1 := some 10, pdT2 := some 40, pdT4 := some 200, pdSeq := 1 } base,
     inv_ok _ (by decide +kernel), (by decide +kernel), (by decide +kernel), (by decide +kernel), (by decide +kernel)⟩,
   ⟨1, base, inv_ok _ (by decide +kernel), (by decide +kernel)⟩,
   ⟨base, inv_ok _ (by decide +kernel)⟩⟩

theorem meets_CommonCommandCodes :
    (∃ (direct : Bool) (s : State), portAlive s = true ∧ s.boot.stage ≠ 8 ∧ ((direct = true → valGet s cHostAddr ≠ 0))) ∧
    (∃ (direct : Bool) (s : State), portAlive s = true ∧ s.boot.stage ≠ 8 ∧ ((direct = true → valGet s cHostAddr ≠ 0))) ∧
    (∃ (s : State), portAlive s = true) ∧
    (∃ (s : State), portAlive s = true ∧ valGet s cHostAddr = 0) ∧
    (∃ (s : State), portAlive s = true ∧ valGet s cHostAddr = 0) ∧
    (∃ (s : State), portAlive s = true ∧ valGet s cHostAddr ≠ 0) ∧
    (∃ (direct : Bool) (s : State), portAlive s = true ∧ s.boot.stage ≠ 8 ∧ ((direct = true → valGet s cHostAddr ≠ 0))) ∧
    (∃ (direct : Bool) (s : State), portAlive s = true ∧ s.boot.stage ≠ 8 ∧ ((direct = true → valGet s cHostAddr ≠ 0))) ∧
    (∃ (s : State), portServes s = true) ∧
    (∃ (s : State), portServes s = true) ∧
    (∃ (s : State), portServes s = true) ∧
    (∃ (s : State), portServes s = true) ∧
    (∃ (s : State), portServes s = true) ∧
    (∃ (s : State), portServes s = true) ∧
    (∃ (s : State), portAlive s = true ∧ s.boot.stage ≠ 8) ∧
    (∃ (direct : Bool) (a : Byte) (s : State), portAlive s = true ∧ s.boot.stage ≠ 8 ∧ ((direct = true → valGet s cHostAddr ≠ 0)) ∧ a = 1#8) ∧
    (∃ (direct : Bool) (s : State), portAlive s = true ∧ s.boot.stage ≠ 8 ∧ ((direct = true → valGet s cHostAddr ≠ 0))) :=
  ⟨⟨true, valPut (callNo 0x1500 3) 1 hostUp, (by decide +kernel), (by decide +kernel), (by decide +kernel)⟩,
   ⟨true, valPut cIbiEnable 1 { hostUp with host := { hostUp.host with ibi := some 1 } }, (by decide +kernel), (by decide +kernel),
     (by decide +kernel)⟩,
   ⟨hostUp, (by decide +kernel)⟩,
   ⟨(valPut cHostAddr 0 hostUp), (by decide +kernel), (by decide +kernel)⟩,
   ⟨(valPut cHostAddr 0 hostUp), (by decide +kernel), (by decide +kernel)⟩,
   ⟨hostUp, (by decide +kernel), (by decide +kernel)⟩,
   ⟨true, hostUp, (by decide +kernel), (by decide +kernel), (by decide +kernel)⟩,
   ⟨false, hostUp, (by decide +kernel), (by decide +kernel), (by decide +kernel)⟩,
   ⟨hostUp, (by decide +kernel)⟩,
   ⟨hostUp, (by decide +kernel)⟩,
   ⟨hostUp, (by decide +kernel)⟩,
   ⟨hostUp, (by decide +kernel)⟩,
   ⟨hostUp, (by decide +kernel)⟩,
   ⟨{ hostUp with host := { hostUp.host with ferr := true, queue := List.replicate 3 emptyF } }, (by decide +kernel)⟩,
   ⟨(valPut cHostAddr 0 hostUp), (by decide +kernel), (by decide +kernel)⟩,
   ⟨true, 1#8, { hostUp with host := { hostUp.host with mwl := 40, reqs := [emptyF] }, cat := { hostUp.cat with segs := [⟨0x110006,3,[7#8],0⟩] } },
     (by decide +kernel), (by decide +kernel), (by decide +kernel), rfl⟩,
   ⟨false, hostUp, (by decide +kernel), (by decide +kernel), (by decide +kernel)⟩⟩

theorem meets_HostFramesAndPins :
    (∃ (off : Word) (d : List Byte) (s : State), portServes s = true ∧ d.length ≤ min (s.host.mwl - 18) 256 ∧ unanswered s < 16 ∧ s.host.reqs = [] ∧
      s.host.queue.length < 32 ∧ s.boot.stage = 9 ∧ off.toNat + d.length ≤ 0x800000) ∧
    (∃ (n : Word) (s : State), portServes s = true ∧ 22 ≤ s.host.mwl ∧ unanswered s < 16 ∧ s.host.reqs = [] ∧ s.host.queue.length < 32 ∧
      n.toNat < 256 ∧ tileDom s (tileOf (queueOwner s n.toNat)) = 0 ∧ kvGet 0 s.power.entry (512 + tileOf (queueOwner s n.toNat)) = 0 ∧
      (getEng s (queueOwner s n.toNat)).rq.words.length < 64) ∧
    (∃ (b : List Byte) (s : State), portServes s = true ∧ frameError s b ≠ 0 ∧ (s.host.reqs = [] ∨ 32 ≤ s.host.queue.length)) ∧
    (∃ (b : List Byte) (s : State) (d : Desc) (l : List Byte), portServes s = true ∧ frameError s b = 0 ∧ fieldAt b 0 1 = 1 ∧ s.host.reqs = [] ∧
      s.host.queue.length < 32 ∧ s.cat.ready = true ∧ descOf s (fieldAt b 8 4) = some d ∧ d.acc ≠ 2 ∧ lcDenied s 3 false (fieldAt b 8 4) = false ∧
      valueBytes (fieldAt b 8 4) (bump (callNo 0x1500 8) 1 32 s) = (l, bump (callNo 0x1500 8) 1 32 s)) ∧
    (∃ (s : State) (f : HFrame) (fs : List HFrame), portServes s = true ∧ s.host.queue = f :: fs ∧ s.host.reqs = []) ∧
    (∃ (s : State), portServes s = true ∧ s.host.queue = []) ∧
    (∃ (s : State) (m : Nat), portServes s = true ∧ s.host.ibi = some m ∧ valGet s cIbiEnable = 1) ∧
    (∃ (s : State), s.cat.ready = true ∧ deviceHeld s = false ∧ 4 * valGet s (callNo 0x1510 5) ≤ s.now ∧ s.pins.syncEnd ≤ s.up ∧
      syncInstant s (s.now - 4 * valGet s (callNo 0x1510 5)) = true) ∧
    (∃ (r : Route) (p : Fin 16) (v : Byte) (s : State), Inv s ∧ serves s r (cTio p 1) ∧ archiveLow s = false ∧ v.toNat ≤ 3) ∧
    (∃ (s : State), s.pins.stopN = false ∧ s.boot.vin = true) :=
  ⟨⟨0#32, [1#8,2#8], { hostUp with boot := { hostUp.boot with hostImg := [9#8,9#8,9#8] } }, (by decide +kernel), (by decide +kernel),
    (by decide +kernel), (by decide +kernel), (by decide +kernel), (by decide +kernel), (by decide +kernel)⟩,
   ⟨0#32, asSplit 0 hostUp, (by decide +kernel), (by decide +kernel), (by decide +kernel), (by decide +kernel), (by decide +kernel),
     (by decide +kernel), (by decide +kernel), (by decide +kernel), (by decide +kernel)⟩,
   ⟨[], hostUp, (by decide +kernel), (by decide +kernel), (by decide +kernel)⟩,
   ⟨[1#8,5#8,0#8,0#8,0#8,0#8,0#8,0#8, 6#8,0#8,0x11#8,0#8, 0#8,0#8,0#8,0#8, 0x8F#8, 0x28#8], valPut (callNo 0x1100 6) 0x1234 hostUp,
     dOf (valPut (callNo 0x1100 6) 0x1234 hostUp) 0x110006, (valueBytes (fieldAt ([1#8,5#8,0#8,0#8,0#8,0#8,0#8,0#8, 6#8,0#8,0x11#8,0#8,
     0#8,0#8,0#8,0#8, 0x8F#8, 0x28#8]) 8 4) (valPut (callNo 0x1100 6) 0x1234 hostUp)).1, (by decide +kernel), (by decide +kernel),
     (by decide +kernel), (by decide +kernel), (by decide +kernel), (by decide +kernel), (by decide +kernel), (by decide +kernel),
     (by decide +kernel), (by decide +kernel)⟩,
   ⟨{ hostUp with host := { hostUp.host with queue := (emptyF) :: ([emptyF]) } }, emptyF, [emptyF], (by decide +kernel), (by decide +kernel),
     (by decide +kernel)⟩,
   ⟨hostUp, (by decide +kernel), (by decide +kernel)⟩,
   ⟨valPut cIbiEnable 1 { hostUp with host := { hostUp.host with ibi := some (3) } }, 3, (by decide +kernel), (by decide +kernel),
     (by decide +kernel)⟩,
   ⟨{ valPut (callNo 0x1510 4) 5 (valPut (callNo 0x1510 5) 25 (valPut (callNo 0x1510 3) 1 { hostUp with time := { hostUp.time with valid := true } })) with now := 4000000100 },
     (by decide +kernel), (by decide +kernel), (by decide +kernel), (by decide +kernel), (by decide +kernel)⟩,
   ⟨.host, 15, 0#8, setPin 15 { (getPin base 15) with pend := [⟨5,0,1#32,1#32⟩,⟨6,1,1#32,0#32⟩], drive := some true } base,
     inv_ok _ (by decide +kernel), (by unfold serves; decide +kernel), (by decide +kernel), (by decide +kernel)⟩,
   ⟨{ hostUp with pins := { hostUp.pins with stopN := false } }, (by decide +kernel), (by decide +kernel)⟩⟩

theorem meets_TestAccessPort :
    (∃ (s : State), s.tap.held = false) ∧
    (∃ (s : State), s.tap.held = false) ∧
    (∃ (s : State), s.tap.held = true) ∧
    (∃ (s : State), s.tap.held = false) ∧
    (∃ (s : State), s.tap.held = true ∧ s.boot.held = false ∧ s.boot.steps % 16 = 15) ∧
    (∃ (s : State), s.tap.held = false ∧ stepDone s 1 = true ∧ lifecycle s = 0) ∧
    (∃ (s : State), s.tap.held = false ∧ stepDone s 1 = true ∧ lifecycle s = 4) ∧
    (∃ (s : State), s.tap.held = false ∧ valGet s cDbgOpen = 1) ∧
    (∃ (s : State), valGet s cDbgOpen = 1 ∧ s.tap.lastAcc + valGet s (callNo 0x1510 0x0D) * 4000000 ≤ s.up) :=
  ⟨⟨hostUp, (by decide +kernel)⟩,
   ⟨hostUp, (by decide +kernel)⟩,
   ⟨{ hostUp with tap := { hostUp.tap with held := true } }, (by decide +kernel)⟩,
   ⟨hostUp, (by decide +kernel)⟩,
   ⟨{ hostUp with tap := { hostUp.tap with held := true } }, (by decide +kernel), (by decide +kernel), (by decide +kernel)⟩,
   ⟨{ hostUp with boot := { hostUp.boot with fuseLc := 0 } }, (by decide +kernel), (by decide +kernel), (by decide +kernel)⟩,
   ⟨{ hostUp with boot := { hostUp.boot with fuseLc := 4 } }, (by decide +kernel), (by decide +kernel), (by decide +kernel)⟩,
   ⟨dbgOpened hostUp, (by decide +kernel), (by decide +kernel)⟩,
   ⟨{ dbgOpened (valPut (callNo 0x1510 0x0D) 10 hostUp) with up := 40000000 }, (by decide +kernel), (by decide +kernel)⟩⟩

theorem meets_DebugAccesses :
    (∃ (a : BitVec 40) (s : State), s.tap.held = false ∧ valGet s cDbgOpen = 1 ∧ inMemory a.toNat ∧ physCode s false 257 a.toNat 4 = 0 ∧
      lockedOut s 257 (.phys a.toNat) 4 = false ∧ readyNow s a.toNat 4 ∧ cleanWords s a.toNat 4) ∧
    (∃ (a : BitVec 40) (s : State), Inv s ∧ s.tap.held = false ∧ valGet s cDbgOpen = 1 ∧ lifecycle s ≠ 2 ∧ inMemory a.toNat ∧
      physCode s true 257 a.toNat 4 = 0 ∧ lockedOut s 257 (.phys a.toNat) 4 = false ∧ readyNow s a.toNat 4 ∧ cleanWords s a.toNat 4) ∧
    (∃ (a : BitVec 40) (s : State), s.tap.held = false ∧ valGet s cDbgOpen = 1 ∧ lockedOut s 257 (.phys a.toNat) 4 = false) ∧
    (∃ (a : BitVec 40) (s : State) (d : Desc) (v : Nat), s.tap.held = false ∧ valGet s cDbgOpen = 1 ∧ s.cat.ready = true ∧ a.toNat < 2 ^ 24 ∧
      descOf s a.toNat = some d ∧ d.size ≤ 4 ∧ d.acc ≠ 2 ∧ shortType d.type = true ∧ v < 256 ^ d.size ∧ (∀ x,
      shortRead a.toNat { s with tap := x } = (v, { s with tap := x }))) ∧
    (∃ (a : BitVec 40) (v : Word) (s : State) (s1 : State) (u : State) (d : Desc) (w : Nat), s.tap.held = false ∧ valGet s cDbgOpen = 1 ∧
      lifecycle s ≠ 2 ∧ s.cat.ready = true ∧ a.toNat < 2 ^ 24 ∧ deviceDesc a.toNat = some d ∧ shortType d.type = true ∧ d.size ≤ 4 ∧ d.acc ≠ 0 ∧
      d.acc ≠ 4 ∧ s1 = { s with tap := { s.tap with lastAcc := s.up } } ∧ ((d.acc = 3 → unitRuns s1 a.toNat = false)) ∧
      w = Nat.land (v.toNat % 256 ^ d.size) (writeMask a.toNat) ∧ descRange s1 a.toNat d w = false ∧ unitRange s1 a.toNat w = false ∧
      ((d.jrn = true → archiveLow s1 = false)) ∧ applyShort 4 256 a.toNat w none s1 = (0, u)) ∧
    (∃ (a : BitVec 40) (n : Nat) (k : Nat) (s : State), s.tap.held = false ∧ valGet s cDbgOpen = 1 ∧ n < 256 ∧ itemKnown k = true ∧ k < 64 ∧
      a.toNat = n + 256 * k ∧ countsChecked (getPair s (pairOf n)) = false ∧ (shownState s n = .halted ∨ shownState s n = .debug) ∧
      awake s (.tile (Fin.ofNat 32 (tileOf n)))) ∧
    (∃ (a : BitVec 40) (n : Nat) (k : Nat) (s : State), Inv s ∧ s.tap.held = false ∧ valGet s cDbgOpen = 1 ∧ lifecycle s ≠ 2 ∧ n < 256 ∧ k < 24 ∧
      a.toNat = n + 256 * k ∧ countsChecked (getPair s (pairOf n)) = false ∧ (shownState s n = .halted ∨ shownState s n = .debug) ∧
      awake s (.tile (Fin.ofNat 32 (tileOf n)))) ∧
    (∃ (a : BitVec 40) (n : Nat) (k : Nat) (s : State), Inv s ∧ s.tap.held = false ∧ valGet s cDbgOpen = 1 ∧ lifecycle s ≠ 2 ∧ n < 256 ∧ k < 24 ∧
      a.toNat = n + 256 * k ∧ countsChecked (getPair s (pairOf n)) = true ∧
      (shownState s (mainOf (pairOf n)) = .halted ∨ shownState s (mainOf (pairOf n)) = .debug) ∧ awake s (.tile (Fin.ofNat 32 (tileOf n))) ∧
      (getPair s (pairOf n)).phase = .none ∧ s.mem.wipe = none ∧ (getPair s (pairOf n)).logN < 1407) ∧
    (∃ (s : State), s.tap.held = false ∧ valGet s cDbgOpen = 0) ∧
    (∃ (s : State), s.tap.held = false ∧ valGet s cDbgOpen = 1 ∧ s.tap.want = none) :=
  ⟨⟨BitVec.ofNat 40 paShelf, { dbgOpened (asSplit 0 hostUp) with mem := { hostUp.mem with bytes := [⟨paShelf,7#8⟩] } }, (by decide +kernel),
    (by decide +kernel), (Or.inr ⟨0, 0, by delta physKind dramSize; cases Config.m8i <;> rfl⟩),
    (by delta physCode physByteCode physKind dramSize; cases Config.m8i <;> decide +kernel),
    (by delta lockedOut targetsOf physKind dramSize; cases Config.m8i <;> decide +kernel),
    (by delta readyNow byteReady physKind dramSize; cases Config.m8i <;> decide +kernel), (by unfold cleanWords; decide +kernel)⟩,
   ⟨BitVec.ofNat 40 paShelf, { dbgOpened (asSplit 0 hostUp) with mem := { hostUp.mem with bytes := [⟨paShelf,7#8⟩] } }, inv_ok _ (by decide +kernel),
     (by decide +kernel), (by decide +kernel), (by decide +kernel), (Or.inr ⟨0, 0, by delta physKind dramSize; cases Config.m8i <;> rfl⟩),
     (by delta physCode physByteCode physKind dramSize; cases Config.m8i <;> decide +kernel),
     (by delta lockedOut targetsOf physKind dramSize; cases Config.m8i <;> decide +kernel),
     (by delta readyNow byteReady physKind dramSize; cases Config.m8i <;> decide +kernel), (by unfold cleanWords; decide +kernel)⟩,
   ⟨0xFFFFFFFFFC#40, dbgOpened hostUp, (by decide +kernel), (by decide +kernel),
     (by delta lockedOut targetsOf physKind dramSize; cases Config.m8i <;> decide +kernel)⟩,
   ⟨0x110006#40, dbgOpened (valPut (callNo 0x1100 6) 0x1234 hostUp), dOf (dbgOpened (valPut (callNo 0x1100 6) 0x1234 hostUp)) 0x110006, 0x1234,
     (by decide +kernel), (by decide +kernel), (by decide +kernel), (by decide +kernel), (by decide +kernel), (by decide +kernel),
     (by decide +kernel), (by decide +kernel), (by decide +kernel), (fun _ => rfl)⟩,
   ⟨0x110006#40, 0x1234#32, dbgOpened hostUp, _,
     (applyShort 4 256 0x110006 (0x1234) none { (dbgOpened hostUp) with tap := { (dbgOpened hostUp).tap with lastAcc := (dbgOpened hostUp).up } }).2,
     dOf (dbgOpened hostUp) 0x110006, 0x1234, (by decide +kernel), (by decide +kernel), (by decide +kernel), (by decide +kernel),
     (by decide +kernel), (by decide +kernel), (by decide +kernel), (by decide +kernel), (by decide +kernel), (by decide +kernel), rfl,
     (by decide +kernel), (by decide +kernel), (by decide +kernel), (by decide +kernel), (by decide +kernel), (by decide +kernel)⟩,
   ⟨BitVec.ofNat 40 ((0) + 256 * (1)), 0, 1, dbgOpened (asSplit 0 (setEng 0 { mv with st := .halted } hostUp)), (by decide +kernel),
     (by decide +kernel), (by decide +kernel), (by decide +kernel), (by decide +kernel), (by decide +kernel), (by decide +kernel),
     (by decide +kernel), (by unfold awake; decide +kernel)⟩,
   ⟨BitVec.ofNat 40 ((0) + 256 * (23)), 0, 23, dbgOpened (asSplit 0 (setEng 0 { mv with st := .halted } hostUp)), inv_ok _ (by decide +kernel),
     (by decide +kernel), (by decide +kernel), (by decide +kernel), (by decide +kernel), (by decide +kernel), (by decide +kernel),
     (by decide +kernel), (by decide +kernel), (by unfold awake; decide +kernel)⟩,
   ⟨BitVec.ofNat 40 ((0) + 256 * (23)), 0, 23,
     dbgOpened (setPair 0 { Pair.fresh with st := .debug, prev := .checked } (setEng 0 { mv with st := .debug } (setEng 1 { mv with st := .debug } hostUp))),
     inv_ok _ (by decide +kernel), (by decide +kernel), (by decide +kernel), (by decide +kernel), (by decide +kernel), (by decide +kernel),
     (by decide +kernel), (by decide +kernel), (by decide +kernel), (by unfold awake; decide +kernel), (by decide +kernel), (by decide +kernel),
     (by decide +kernel)⟩,
   ⟨hostUp, (by decide +kernel), (by decide +kernel)⟩,
   ⟨{ dbgOpened hostUp with tap := { hostUp.tap with status := 2, data := 77 } }, (by decide +kernel), (by decide +kernel), (by decide +kernel)⟩⟩

theorem meets_PaceAndThePowerLink :
    (∃ (k : Fin 8) (rates : List (BitVec 16)) (s : State), Inv s ∧ noJobs s ∧ railBusy s k = false ∧ s.power.linkLost = false ∧ s.power.slow = [] ∧
      (∀ i : Nat, i < 4 → (getTile s (4 * k + i)).dom = 0 ∧ valGet s (cTile (4 * k + i) 6) = 0) ∧
      paceTarget s k (railTiles s k (rates.map fun x => x.toNat)) ≤ valGet s (cVcore k 3)) ∧
    (∃ (k : Fin 8) (s : State), railBusy s k = false ∧ s.power.linkLost = false) ∧
    (∃ (k : Fin 8) (q : Fin 256) (s : State) (x : LinkReq), Inv s ∧ x ∈ s.power.reqs ∧ x.rail = k ∧ x.seq = q ∧ x.op = 1) ∧
    (∃ (k : Fin 8) (q : Fin 256) (s : State) (x : LinkReq), Inv s ∧ x ∈ s.power.reqs ∧ x.rail = k ∧ x.seq = q ∧ x.op ≠ 1) ∧
    (∃ (k : Fin 8) (s : State) (x : LinkReq), Inv s ∧ x ∈ s.power.reqs ∧ x.rail = k ∧ s.power.linkLost = false ∧ s.power.errRun < 7) ∧
    (∃ (k : Fin 8) (s : State) (x : LinkReq), Inv s ∧ x ∈ s.power.reqs ∧ x.rail = k ∧ s.power.linkLost = false ∧ s.power.errRun = 7) ∧
    (∃ (t : Fin 32) (s : State) (old : Nat) (at_ : Nat), Inv s ∧ s.svc.queue = [] ∧ s.svc.waiting = none ∧ s.svc.unloads = [] ∧
      s.power.asks = [(t.val, old, at_)] ∧ at_ + 1600000 ≤ s.up ∧ (getTile s t).waiting = []) :=
  ⟨⟨0, [], valPut (cVcore 0 3) 950 (valPut (cVcore 0 2) 600 base), inv_ok _ (by decide +kernel), noJobs_ok _ (by decide +kernel),
    (by decide +kernel), (by decide +kernel), (by decide +kernel), (by decide +kernel), (by decide +kernel)⟩,
   ⟨7, base, (by decide +kernel), (by decide +kernel)⟩,
   ⟨3, 9, withReqs [linkReq 1] base, linkReq 1, inv_ok _ (by decide +kernel), (by decide +kernel), (by decide +kernel), (by decide +kernel),
     (by decide +kernel)⟩,
   ⟨3, 9, withReqs [linkReq 3] base, linkReq 3, inv_ok _ (by decide +kernel), (by decide +kernel), (by decide +kernel), (by decide +kernel),
     (by decide +kernel)⟩,
   ⟨3, withReqs [linkReq 1] base, linkReq 1, inv_ok _ (by decide +kernel), (by decide +kernel), (by decide +kernel), (by decide +kernel),
     (by decide +kernel)⟩,
   ⟨3, { withReqs [linkReq 1] base with power := { (withReqs [linkReq 1] base).power with errRun := 7 } }, linkReq 1, inv_ok _ (by decide +kernel),
     (by decide +kernel), (by decide +kernel), (by decide +kernel), (by decide +kernel)⟩,
   ⟨5, { valPut (cTile 5 6) 16 base with up := 1600100, power := { base.power with asks := [(5,23,100)] } }, 23, 100, inv_ok _ (by decide +kernel),
     (by decide +kernel), (by decide +kernel), (by decide +kernel), (by decide +kernel), (by decide +kernel), (by decide +kernel)⟩⟩

theorem meets_DomainsSleepAndWake :
    (∃ (r : Route) (d : Dom) (s : State), serves s r (domCall d) ∧ domRefused s d false = false ∧ domGet s d = 0 ∧ entryGet s d = 0) ∧
    (∃ (r : Route) (d : Dom) (s : State), serves s r (domCall d) ∧ domRefused s d true = false ∧ entryGet s d = 0 ∧ Inv s ∧ (∀ k, d ≠ .tile k)) ∧
    (∃ (r : Route) (k : Fin 32) (s : State), serves s r (domCall (.tile k)) ∧ domRefused s (.tile k) true = false ∧ entryGet s (.tile k) = 0 ∧
      Inv s) ∧
    (∃ (r : Route) (d : Dom) (s : State), serves s r (domCall d) ∧ domGet s d = 1 ∧ entryGet s d = 0) ∧
    (∃ (r : Route) (d : Dom) (s : State), serves s r (domCall d) ∧ domGet s d = 2) ∧
    (∃ (d : Dom) (s : State), entryGet s d = 1 ∧ Inv s) ∧
    (∃ (d : Dom) (s : State), entryGet s d = 2 ∧ domKey d ∉ s.power.offNext ∧ domKey d ∉ s.power.wakeNext) ∧
    (∃ (d : Dom) (s : State), entryGet s d = 2 ∧ domKey d ∉ s.power.offNext ∧ domKey d ∈ s.power.wakeNext ∧ Inv s) ∧
    (∃ (d : Dom) (s : State), entryGet s d = 0 ∧ domGet s d = 1) ∧
    (∃ (d : Dom) (s : State), entryGet s d = 1) ∧
    (∃ (d : Dom) (s : State), entryGet s d = 2 ∧ domKey d ∉ s.power.wakeNext) ∧
    (∃ (k : Fin 32) (s : State), Inv s ∧ noJobs s ∧ (getTile s k).dom = 3 ∧ domKey (.tile k) ∉ s.power.filling ∧ (getTile s k).waiting = [] ∧
      domKey (.tile k) ∉ s.power.retNext ∧ s.ledger.waits = []) ∧
    (∃ (b : Fin 256) (s : State), Inv s ∧ noJobs s ∧ domGet s (.bank b) = 3 ∧ domKey (.bank b) ∈ s.power.filling ∧
      domKey (.bank b) ∉ s.power.retNext) ∧
    (∃ (d : Dom) (s : State), idleSetting s d ≠ 0 ∧ domIdle s d = true ∧ domRefused s d false = false ∧ domGet s d = 0 ∧ entryGet s d = 0) :=
  ⟨⟨.host, .tile 31, base, (by unfold serves; decide +kernel), (by decide +kernel), (by decide +kernel), (by decide +kernel)⟩,
   ⟨.host, .bank 255, { base with mem := { base.mem with bytes := [⟨paShelf,7#8⟩,⟨paShelf+65536,8#8⟩] } }, (by unfold serves; decide +kernel),
     (by decide +kernel), (by decide +kernel), inv_ok _ (by decide +kernel), (fun k h => by cases h)⟩,
   ⟨.host, 31, { base with mem := { base.mem with bytes := [⟨paShelf,7#8⟩,⟨paShelf+65536,8#8⟩] } }, (by unfold serves; decide +kernel),
     (by decide +kernel), (by decide +kernel), inv_ok _ (by decide +kernel)⟩,
   ⟨.host, .tile 31, domPut (.tile 31) 1 base, (by unfold serves; decide +kernel), (by decide +kernel), (by decide +kernel)⟩,
   ⟨.host, .tile 31, domPut (.tile 31) 2 base, (by unfold serves; decide +kernel), (by decide +kernel)⟩,
   ⟨.tile 31, entryPut (.tile 31) 1 base, (by decide +kernel), inv_ok _ (by decide +kernel)⟩,
   ⟨.tile 31, entryPut (.tile 31) 2 base, (by decide +kernel), (by decide +kernel), (by decide +kernel)⟩,
   ⟨.tile 31, entryPut (.tile 31) 2 { base with power := { base.power with wakeNext := [domKey (.tile 31)] } }, (by decide +kernel),
     (by decide +kernel), (by decide +kernel), inv_ok _ (by decide +kernel)⟩,
   ⟨.tile 31, domPut (.tile 31) 1 base, (by decide +kernel), (by decide +kernel)⟩,
   ⟨.tile 31, entryPut (.tile 31) 1 base, (by decide +kernel)⟩,
   ⟨.tile 31, entryPut (.tile 31) 2 base, (by decide +kernel), (by decide +kernel)⟩,
   ⟨31, domPut (.tile 31) 3 base, inv_ok _ (by decide +kernel), noJobs_ok _ (by decide +kernel), (by decide +kernel), (by decide +kernel),
     (by decide +kernel), (by decide +kernel), (by decide +kernel)⟩,
   ⟨255, domPut (.bank 255) 3 { base with power := { base.power with filling := [domKey (.bank 255)] } }, inv_ok _ (by decide +kernel),
     noJobs_ok _ (by decide +kernel), (by decide +kernel), (by decide +kernel), (by decide +kernel)⟩,
   ⟨.tile 3, valPut (cTile 3 3) 1 base, (by decide +kernel), (by decide +kernel), (by decide +kernel), (by decide +kernel), (by decide +kernel)⟩⟩

theorem meets_SupplyFaultsAndRatings :
    (∃ (p : Fin 13) (s : State), p ≠ 0 ∧ s.power.failed = []) ∧
    (∃ (p : Fin 13) (s : State), p ≠ 0 ∧ Inv s ∧ s.power.failed ≠ [] ∧ p.val ∉ s.power.failed) ∧
    (∃ (w : Fin 34) (s : State), Inv s ∧ w.val ∉ s.power.broken ∧ promiseBit s 6 = true) ∧
    (∃ (w : Fin 34) (s : State), Inv s ∧ s.power.broken = [w.val] ∧ s.power.slow = [] ∧ promiseBit s 6 = false ∧ 6 ∈ s.log.lapsed ∧
      s.boot.stopped = false) ∧
    (∃ (s : State), Inv s) ∧
    (∃ (s : State), Inv s) :=
  ⟨⟨1, base, (by decide +kernel), (by decide +kernel)⟩,
   ⟨1, { base with power := { base.power with failed := [2] } }, (by decide +kernel), inv_ok _ (by decide +kernel), (by decide +kernel),
     (by decide +kernel)⟩,
   ⟨0, putPromise 6 true base, inv_ok _ (by decide +kernel), (by decide +kernel), (by decide +kernel)⟩,
   ⟨33, putPromise 6 false { base with power := { base.power with broken := [33] }, log := { base.log with lapsed := [6] } },
     inv_ok _ (by decide +kernel), (by decide +kernel), (by decide +kernel), (by decide +kernel), (by decide +kernel), (by decide +kernel)⟩,
   ⟨base, inv_ok _ (by decide +kernel)⟩,
   ⟨asSplit 0 (setEng 0 mv base), inv_ok _ (by decide +kernel)⟩⟩

theorem meets_StartUpRunsInOrder :
    (∃ (s : State), s.boot.vin = false) ∧
    (∃ (s : State), s.boot.vin = true ∧ stepDone s 0 = false) ∧
    (∃ (s : State), Inv s ∧ stepDone s 0 = true ∧ stepDone s 1 = false) ∧
    (∃ (s : State), stepDone s 1 = true ∧ stepDone s 2 = false ∧ s.boot.fuseLc ≠ 4) ∧
    (∃ (m : Fin 128) (s : State), Inv s ∧ stepDone s 1 = true ∧ stepDone s 2 = false ∧ s.boot.fuseLc ≠ 4 ∧ (getPair s m).st ≠ .fused) ∧
    (∃ (s : State), stepDone s 2 = true ∧ stepDone s 3 = false) ∧
    (∃ (s : State), s.boot.stage = 5 ∧ stepDone s 3 = true ∧ stepDone s 4 = false ∧ deviceHeld s = false ∧ fwReason s s.boot.slot0 = 0 ∧
      fwReason s s.boot.slot1 = 0 ∧ fieldAt s.boot.slot1 4 4 ≤ fieldAt s.boot.slot0 4 4) ∧
    (∃ (s : State), s.boot.stage = 5 ∧ stepDone s 3 = true ∧ deviceHeld s = false ∧ fwReason s s.boot.slot0 ≠ 0 ∧ fwReason s s.boot.slot1 ≠ 0) ∧
    (∃ (s : State), s.boot.stage = 9 ∧ s.boot.hostEnd = true ∧ stepDone s 3 = true ∧ stepDone s 4 = false ∧ deviceHeld s = false ∧
      fwReason s s.boot.hostImg = 0) ∧
    (∃ (s : State), s.boot.stage = 9 ∧ s.boot.hostEnd = true ∧ stepDone s 3 = true ∧ deviceHeld s = false ∧ fwReason s s.boot.hostImg ≠ 0) ∧
    (∃ (s : State), s.boot.running = true ∧ stepDone s 5 = true ∧ s.cat.ready = false ∧ deviceHeld s = false ∧ valGet s (callNo 0x1900 8) = 1 ∧
      valGet s (callNo 0x1000 8) ≠ 1 ∧ noJobs s ∧ s.pins.stopN = true ∧ s.pins.stop = false ∧ (∀ m : Nat, m < 128 → autoId s m = 0) ∧
      valGet s (cRing 0 1) = 0 ∧ valGet s (cRing 1 1) = 0) :=
  ⟨⟨{ fresh with boot := { fresh.boot with vin := false } }, (by decide +kernel)⟩,
   ⟨{ fresh with boot := { fresh.boot with vin := true, steps := 0 } }, (by decide +kernel), (by decide +kernel)⟩,
   ⟨{ fresh with boot := { fresh.boot with vin := true, steps := 1, fusedEng := [] } }, inv_ok _ (by decide +kernel), (by decide +kernel),
     (by decide +kernel)⟩,
   ⟨{ fresh with boot := { fresh.boot with vin := true, steps := 3 } }, (by decide +kernel), (by decide +kernel), (by decide +kernel)⟩,
   ⟨127, { fresh with boot := { fresh.boot with vin := true, steps := 3 } }, inv_ok _ (by decide +kernel), (by decide +kernel), (by decide +kernel),
     (by decide +kernel), (by decide +kernel)⟩,
   ⟨{ { fresh with boot := { fresh.boot with vin := true, steps := 7 } } with mem := { MemSt.reset with bytes := [⟨paShelf,7#8⟩] } },
     (by decide +kernel), (by decide +kernel)⟩,
   ⟨{ fresh with boot := { fresh.boot with vin := true, held := false, steps := 15, stage := 5, slot0 := fwImg 3, slot1 := fwImg 2 } },
     (by decide +kernel), (by decide +kernel), (by decide +kernel), (by decide +kernel), (by decide +kernel), (by decide +kernel),
     (by decide +kernel)⟩,
   ⟨{ fresh with boot := { fresh.boot with vin := true, held := false, steps := 15, stage := 5, slot0 := [], slot1 := (fwImg 3).dropLast } },
     (by decide +kernel), (by decide +kernel), (by decide +kernel), (by decide +kernel), (by decide +kernel)⟩,
   ⟨{ fresh with boot := { fresh.boot with vin := true, held := false, steps := 15, stage := 9, hostEnd := true, hostImg := fwImg 3 } },
     (by decide +kernel), (by decide +kernel), (by decide +kernel), (by decide +kernel), (by decide +kernel), (by decide +kernel)⟩,
   ⟨{ fresh with boot := { fresh.boot with vin := true, held := false, steps := 15, stage := 9, hostEnd := true, hostImg := [] } },
     (by decide +kernel), (by decide +kernel), (by decide +kernel), (by decide +kernel), (by decide +kernel)⟩,
   ⟨{ valPut (callNo 0x1000 8) 2 (valPut (callNo 0x1900 8) 1 ({ fresh with boot := { fresh.boot with vin := true, held := false, steps := 63, stage := 6, running := true } })) with up := 9000000 },
     (by decide +kernel), (by decide +kernel), (by decide +kernel), (by decide +kernel), (by decide +kernel), (by decide +kernel),
     noJobs_ok _ (by decide +kernel), (by decide +kernel), (by decide +kernel), (by decide +kernel), (by decide +kernel), (by decide +kernel)⟩⟩

theorem meets_ResetsOfTheDevice :
    (∃ (s : State), Inv s ∧ s.boot.held = false) ∧
    (∃ (r : Route) (s : State), Inv s ∧ serves s r (callNo 0x1000 9)) ∧
    (∃ (s : State), Inv s ∧ s.boot.running = true) ∧
    (∃ (s : State), s.boot.held = true ∧ s.boot.steps % 16 = 15) :=
  ⟨⟨asSplit 0 (setEng 0 mv hostUp), inv_ok _ (by decide +kernel), (by decide +kernel)⟩,
   ⟨.host, asSplit 0 (setEng 0 mv hostUp), inv_ok _ (by decide +kernel), (by unfold serves; decide +kernel)⟩,
   ⟨asSplit 0 (setEng 0 mv { hostUp with boot := { hostUp.boot with running := true } }), inv_ok _ (by decide +kernel), (by decide +kernel)⟩,
   ⟨{ hostUp with boot := { hostUp.boot with held := true } }, (by decide +kernel), (by decide +kernel)⟩⟩

theorem meets_LifeCycleCommands :
    (∃ (r : Route) (x : LcFields) (s : State), serves s r (callNo 0x1030 7) ∧ routeNo r ≠ 0 ∧ lifecycle s = 0 ∧
      lcCode s (lcBytes 1 x.value.toNat x.nonce x.serial x.sig x.resv) = 0) ∧
    (∃ (r : Route) (x : LcFields) (s : State), serves s r (callNo 0x1030 7) ∧ routeNo r ≠ 0 ∧ (lifecycle s = 1 ∨ lifecycle s = 3) ∧
      lcCode s (lcBytes 2 x.value.toNat x.nonce x.serial x.sig x.resv) = 0) ∧
    (∃ (r : Route) (x : LcFields) (s : State), serves s r (callNo 0x1030 7) ∧ routeNo r ≠ 0 ∧ lifecycle s = 2 ∧
      lcCode s (lcBytes 3 x.value.toNat x.nonce x.serial x.sig x.resv) = 0) ∧
    (∃ (r : Route) (x : LcFields) (s : State), serves s r (callNo 0x1030 7) ∧ routeNo r ≠ 0 ∧ lifecycle s ≠ 4 ∧
      lcCode s (lcBytes 4 x.value.toNat x.nonce x.serial x.sig x.resv) = 0) ∧
    (∃ (r : Route) (x : LcFields) (s : State), serves s r (callNo 0x1030 7) ∧ routeNo r ≠ 0 ∧
      lcCode s (lcBytes 5 x.value.toNat x.nonce x.serial x.sig x.resv) = 0) ∧
    (∃ (s : State) (old : Nat) (dst : Nat), s.boot.lcPending = some (old, dst) ∧ ((dst = 2 ∨ dst = 3 → entryWaits s (callNo 0x1000 7) = false)) ∧
      dst < 5) ∧
    (∃ (s : State) (old : Nat) (dst : Nat), (s.boot.lcPending = none ∨ (s.boot.lcPending = some (old, dst) ∧ (dst = 2 ∨ dst = 3) ∧
      entryWaits s (callNo 0x1000 7) = true))) :=
  ⟨⟨.host, lcX 1 0, lcState 0, (by unfold serves; decide +kernel), (by decide +kernel), (by decide +kernel), (by decide +kernel)⟩,
   ⟨.host, lcX 2 0, lcState 1, (by unfold serves; decide +kernel), (by decide +kernel), (by decide +kernel), (by decide +kernel)⟩,
   ⟨.host, lcX 3 0, valPut (callNo 0x1000 7) 2 (lcStateK 3 1), (by unfold serves; decide +kernel), (by decide +kernel), (by decide +kernel),
     (by decide +kernel)⟩,
   ⟨.host, lcX 4 0, lcState 0, (by unfold serves; decide +kernel), (by decide +kernel), (by decide +kernel), (by decide +kernel)⟩,
   ⟨.host, lcX 5 64, lcState 0, (by unfold serves; decide +kernel), (by decide +kernel), (by decide +kernel)⟩,
   ⟨dbgOpened { lcState 0 with boot := { (lcState 0).boot with lcPending := some (0, 1), slot0 := [1#8] } }, 0, 1, (by decide +kernel),
     (by decide +kernel), (by decide +kernel)⟩,
   ⟨base, 0, 0, (by decide +kernel)⟩⟩

theorem meets_TamperIsAnswered :
    (∃ (s : State), Inv s ∧ stepDone s 1 = true ∧ valGet s (callNo 0x1040 2) = 0) ∧
    (∃ (s : State), Inv s ∧ stepDone s 1 = true ∧ valGet s (callNo 0x1040 2) = 1) ∧
    (∃ (r : Route) (s : State), serves s r (callNo 0x1040 1)) :=
  ⟨⟨{ hostUp with now := 77 }, inv_ok _ (by decide +kernel), (by decide +kernel), (by decide +kernel)⟩,
   ⟨valPut (callNo 0x1040 2) 1 (asSplit 0 (setEng 0 mv hostUp)), inv_ok _ (by decide +kernel), (by decide +kernel), (by decide +kernel)⟩,
   ⟨.host, valPut (callNo 0x1040 1) 7 base, (by unfold serves; decide +kernel)⟩⟩

theorem meets_ServiceJobs :
    (∃ (r : Route) (x : SvcFields) (s : State) (s2 : State) (s3 : State) (b : List Byte) (o : Nat) (h : Nat), Inv s ∧ svcFree s r 1 x ∧
      (x.source.toNat ≤ 7 ∨ x.source.toNat = 255) ∧ b = loadImage (atLoader 1 x s) (svcOf 1 x) ∧ h = (if x.half then 1 else 0) ∧
      o = ownerOf s x.subject h ∧ b ≠ [] ∧ fhdrBad b = none ∧ (fhdr b).length ≤ b.length ∧ fsigBad (atLoader 1 x s) b = false ∧
      fdigestBad b = false ∧ prepare o (fsects b (fhdr b)) (atLoader 1 x s) = (true, s2) ∧ declBad b (fhdr b) = false ∧ declPace b (fhdr b) ∈ [16,
      23, 30, 36] ∧ confirmAsk (ownerTile o) (declPace b (fhdr b)) s2 = (true, s3) ∧ loadRefusal s3 x.job o x.base x.bias.toNat h b = none) ∧
    (∃ (r : Route) (x : SvcFields) (s : State), Inv s ∧ svcFree s r 1 x ∧ x.source.toNat ≤ 7 ∧ kvGet [] s.svc.stages x.source.toNat = []) ∧
    (∃ (r : Route) (x : SvcFields) (s : State) (f : Folio), Inv s ∧ svcFree s r 2 x ∧ (∀ j : Nat, (getJob s j).st ≠ 3) ∧ pairCode s x.subject = 0 ∧
      s.svc.folios.find? (fun y => y.owner == x.subject.val) = some f ∧ (∀ y ∈ s.svc.folios, y.owner ≠ 128 + 2 * x.subject.val ∧
      y.owner ≠ 129 + 2 * x.subject.val) ∧ (∀ e ∈ s.cat.folio, ∀ n : Nat, e.call ≠ cEng n 0x0B)) ∧
    (∃ (r : Route) (x : SvcFields) (s : State), Inv s ∧ svcFree s r 3 x ∧ x.source.toNat ≤ 7 ∧ kvGet [] s.svc.stages x.source.toNat ≠ [] ∧
      archiveLow s = false) ∧
    (∃ (r : Route) (x : SvcFields) (s : State), Inv s ∧ svcFree s r 4 x ∧ kvGet [] s.svc.stored x.folio.toNat ≠ [] ∧ (∀ m : Nat,
      m < 128 → autoId s m ≠ x.folio.toNat) ∧ archiveLow s = false) ∧
    (∃ (r : Route) (x : SvcFields) (s : State), Inv s ∧ svcFree s r 5 x ∧ s.now + 400000 ≤ x.at_.toNat ∧
      planBad (atLoader 5 x s) x.job (longGet s (callNo 0x1050 5)) = none ∧ (∀ m ∈ planIn (longGet s (callNo 0x1050 5)), tileDom s (pairTile m) = 0 ∧
      valGet s (cTile (pairTile m) 6) = 0)) ∧
    (∃ (j : Fin 16) (s : State), Inv s ∧ (getJob s j).st = 3 ∧ (getJob s j).cmd.cmd = 5 ∧ (getJob s j).checked = false ∧
      markFrom s (getJob s j).at_ ≠ 0 ∧ markFrom s (getJob s j).at_ ≤ s.now + 80000 ∧ planBad s j (getJob s j).plan = none) ∧
    (∃ (r : Route) (x : SvcFields) (s : State), Inv s ∧ svcFree s r 6 x ∧ x.subject.val % 16 ≠ x.job ∧ (getJob s (x.subject.val % 16)).st = 3 ∧
      (getJob s (x.subject.val % 16)).cmd.cmd = 1) ∧
    (∃ (r : Route) (x : SvcFields) (s : State), Inv s ∧ svcFree s r 10 x ∧ valGet s (callNo 0x1030 2) = 0) ∧
    (∃ (r : Route) (x : SvcFields) (s : State) (d : List Byte), Inv s ∧ svcFree s r 11 x ∧ s.svc.fw = some ⟨1, d⟩ ∧ fwReason s d = 0) :=
  ⟨⟨.host, svcX, withStage folioImg (setTile 0 { Tile.on with paceOk := true } (valPut (cTile 0 6) 16 periodic)),
    (prepare 0 [] (atLoader 1 (svcX) (withStage folioImg (setTile 0 { Tile.on with paceOk := true } (valPut (cTile 0 6) 16 periodic))))).2,
    (confirmAsk 0 16 ((prepare 0 [] (atLoader 1 (svcX) (withStage folioImg (setTile 0 { Tile.on with paceOk := true } (valPut (cTile 0 6) 16 periodic))))).2)).2,
    folioImg, 0, 0, inv_ok _ (by decide +kernel), (by unfold svcFree serves; decide +kernel), (by decide +kernel), (by decide +kernel),
    (by decide +kernel), (by decide +kernel), (by decide +kernel), (by decide +kernel), (by decide +kernel), (by decide +kernel),
    (by decide +kernel), (by decide +kernel), (by decide +kernel), (by decide +kernel), (by decide +kernel), (by decide +kernel)⟩,
   ⟨.host, svcX, base, inv_ok _ (by decide +kernel), (by unfold svcFree serves; decide +kernel), (by decide +kernel), (by decide +kernel)⟩,
   ⟨.host, svcX, putPromise 2 true (withFolio (quietFolio 0 5) base), quietFolio 0 5, inv_ok _ (by decide +kernel),
     (by unfold svcFree serves; decide +kernel), (fun k => kvGet_all (fun x : Job => x.st ≠ 3) (by decide) (by decide +kernel) k),
     (by decide +kernel), (by decide +kernel), (by decide +kernel), (fun e he => nomatch he)⟩,
   ⟨.host, svcX, withStage [1#8] base, inv_ok _ (by decide +kernel), (by unfold svcFree serves; decide +kernel), (by decide +kernel),
     (by decide +kernel), (by decide +kernel)⟩,
   ⟨.host, svcX, { base with svc := { base.svc with stored := kvSet [] base.svc.stored 7 [1#8] } }, inv_ok _ (by decide +kernel),
     (by unfold svcFree serves; decide +kernel), (by decide +kernel), (by decide +kernel), (by decide +kernel)⟩,
   ⟨.host, { svcX with at_ := 500000#64 }, longPut (callNo 0x1050 5) planB (asChecked 0 (withFolio (⟨1,0,7,0,0,16,0,[],[],[]⟩ : Folio) base)),
     inv_ok _ (by decide +kernel), (by unfold svcFree serves; decide +kernel), (by decide +kernel), (by decide +kernel), (by decide +kernel)⟩,
   ⟨2,
     setJob 2 { Job.free with st := 3, cmd := svcOf 5 svcX, at_ := 62500, plan := planB } (asChecked 0 (withFolio (⟨1,0,7,0,0,16,0,[],[],[]⟩ : Folio) periodic)),
     inv_ok _ (by decide +kernel), (by decide +kernel), (by decide +kernel), (by decide +kernel), (by decide +kernel), (by decide +kernel),
     (by decide +kernel)⟩,
   ⟨.host, svcX, setJob 0 { Job.free with st := 3, cmd := svcOf 1 svcX } base, inv_ok _ (by decide +kernel),
     (by unfold svcFree serves; decide +kernel), (by decide +kernel), (by decide +kernel), (by decide +kernel)⟩,
   ⟨.host, svcX, valPut (callNo 0x1030 2) 0 base, inv_ok _ (by decide +kernel), (by unfold svcFree serves; decide +kernel), (by decide +kernel)⟩,
   ⟨.host, svcX, { base with svc := { base.svc with fw := some ⟨1, fwImg 4⟩ } }, fwImg 4, inv_ok _ (by decide +kernel),
     (by unfold svcFree serves; decide +kernel), (by decide +kernel), (by decide +kernel)⟩⟩

theorem meets_TestsCalibrationAndRepair :
    (∃ (r : Route) (x : SvcFields) (s : State), Inv s ∧ svcFree s r 7 x ∧ (∀ j : Nat, (getJob s j).st ≠ 3) ∧ (getPair s x.subject).st = .idle) ∧
    (∃ (r : Route) (x : SvcFields) (s : State), Inv s ∧ svcFree s r 7 x ∧ (∀ j : Nat, (getJob s j).st ≠ 3) ∧ (getPair s x.subject).st = .idle) ∧
    (∃ (r : Route) (x : SvcFields) (s : State), Inv s ∧ svcFree s r 8 x ∧ x.subject.val < 32 ∧ tileDom s x.subject = 0) ∧
    (∃ (k : Fin 32) (c : Int) (s : State), Inv s ∧ tileDom s k = 0 ∧ 300 ≤ (c - (getTile s k).calTemp).natAbs) ∧
    (∃ (r : Route) (x : SvcFields) (s : State), Inv s ∧ svcFree s r 9 x ∧ (getPair s x.subject).st = .out ∧ archiveLow s = false) ∧
    (∃ (r : Route) (x : SvcFields) (s : State), Inv s ∧ svcFree s r 12 x ∧ lifecycle s = 1) ∧
    (∃ (r : Route) (d : List Byte) (s : State), serves s r (callNo 0x1050 4) ∧ routeNo r ≠ 0 ∧ d.length ≤ 4096 ∧ valGet s (callNo 0x1050 2) ≤ 7 ∧
      valGet s (callNo 0x1050 3) + d.length ≤ 0x100000 ∧ stageLocked s (valGet s (callNo 0x1050 2)) = false) :=
  ⟨⟨.host, svcX, base, inv_ok _ (by decide +kernel), (by unfold svcFree serves; decide +kernel),
    (fun k => kvGet_all (fun x : Job => x.st ≠ 3) (by decide) (by decide +kernel) k), (by decide +kernel)⟩,
   ⟨.host, svcX, base, inv_ok _ (by decide +kernel), (by unfold svcFree serves; decide +kernel),
     (fun k => kvGet_all (fun x : Job => x.st ≠ 3) (by decide) (by decide +kernel) k), (by decide +kernel)⟩,
   ⟨.host, svcX, base, inv_ok _ (by decide +kernel), (by unfold svcFree serves; decide +kernel), (by decide +kernel), (by decide +kernel)⟩,
   ⟨31, -300, base, inv_ok _ (by decide +kernel), (by decide +kernel), (by decide +kernel)⟩,
   ⟨.host, svcX, setPair 0 { Pair.fresh with st := .out } base, inv_ok _ (by decide +kernel), (by unfold svcFree serves; decide +kernel),
     (by decide +kernel), (by decide +kernel)⟩,
   ⟨.host, svcX, longPut cRepairPairs [5#8] (lcState 1), inv_ok _ (by decide +kernel), (by unfold svcFree serves; decide +kernel),
     (by decide +kernel)⟩,
   ⟨.host, [1#8,2#8], valPut (callNo 0x1050 3) 3 (withStage [9#8] base), (by unfold serves; decide +kernel), (by decide +kernel),
     (by decide +kernel), (by decide +kernel), (by decide +kernel), (by decide +kernel)⟩⟩

theorem meets_AnEmptyQueueLetsTimePass :
    ∃ (s : State), s.pending = [] :=
  ⟨base, (by decide +kernel)⟩

theorem meets_SumsAndDifferencesNeverTrap :
    ∃ (n : Fin 256) (l : Nat) (r : Nat) (d : Nat) (c : Bool) (s : State), alone s n ∧ noMerge s n ∧ s.svc.unloads = [] ∧ bundleNext s n = true ∧
      (getEng s n).cmd = 0 ∧ BundleNext (getEng s n) [⟨r, d⟩] ∧ r < 24 ∧ (d = 25 ∨ d = 26 ∨ d = 30 ∨ d = 31) ∧
      (getEng s n).pos = { Pos.start (getEng s n).pos.pc with lastpc := l, cntOwn := c } :=
  ⟨0, 0, 1, 25, false, asSplit 0 (setEng 0 { mv with pmem := [(0, packBundle (64 + 25) 0x3000 0x3000 0x3000)] } base),
    (by unfold alone; decide +kernel), (by unfold noMerge; decide +kernel), (by decide +kernel), (by decide +kernel), (by decide +kernel),
    bundleNext_ok _ _ (by decide +kernel), (by decide +kernel), (by decide +kernel), (by decide +kernel)⟩

theorem meets_ShiftsRotatesAndCounts :
    (∃ (opl : Word), opCode opl ≤ 4) ∧
    (∃ (opl : Word) (b : Word), opCode opl ≤ 1 ∧ 32 ≤ b.toNat % 64) ∧
    (∃ (opl : Word) (b : Word), opCode opl = 2 ∧ 31 ≤ b.toNat % 64) ∧
    (∃ (opl : Word), (opCode opl = 3 ∨ opCode opl = 4)) ∧
    (∃ (opl : Word) (b : Word), opCode opl ≤ 4 ∧ b.toNat % 64 = 0) ∧
    (∃ (opl : Word) (b : Word) (k : Nat), opCode opl = 0 ∧ b.toNat % 64 < 32 ∧ k < 32) ∧
    (∃ (opl : Word), opCode opl = 1) ∧
    (∃ (opl : Word) (k : Nat), opCode opl = 2 ∧ k < 32) ∧
    (∃ (opl : Word) (k : Nat), opCode opl = 3 ∧ k < 32) ∧
    (∃ (opl : Word) (k : Nat), opCode opl = 4 ∧ k < 32) ∧
    (∃ (opl : Word), opCode opl = 11) ∧
    (∃ (opl : Word), opCode opl = 12) ∧
    (∃ (opl : Word), opCode opl = 13) :=
  ⟨⟨BitVec.ofNat 32 0, (by decide +kernel)⟩,
   ⟨BitVec.ofNat 32 1, 40#32, (by decide +kernel), (by decide +kernel)⟩,
   ⟨BitVec.ofNat 32 2, 31#32, (by decide +kernel), (by decide +kernel)⟩,
   ⟨BitVec.ofNat 32 3, (by decide +kernel)⟩,
   ⟨BitVec.ofNat 32 4, 64#32, (by decide +kernel), (by decide +kernel)⟩,
   ⟨BitVec.ofNat 32 0, 2#32, 3, (by decide +kernel), (by decide +kernel), (by decide +kernel)⟩,
   ⟨BitVec.ofNat 32 1, (by decide +kernel)⟩,
   ⟨BitVec.ofNat 32 2, 3, (by decide +kernel), (by decide +kernel)⟩,
   ⟨BitVec.ofNat 32 3, 3, (by decide +kernel), (by decide +kernel)⟩,
   ⟨BitVec.ofNat 32 4, 3, (by decide +kernel), (by decide +kernel)⟩,
   ⟨BitVec.ofNat 32 11, (by decide +kernel)⟩,
   ⟨BitVec.ofNat 32 12, (by decide +kernel)⟩,
   ⟨BitVec.ofNat 32 13, (by decide +kernel)⟩⟩

theorem meets_SwapActsOnEachWord :
    ∃ (v : Nat) (i : Nat), v < 2 ^ 64 ∧ i < 8 :=
  ⟨0x0102030405060708, 0, (by decide +kernel), (by decide +kernel)⟩

theorem meets_EveryStepKeepsTheInvariant : ∃ (s t : State), Inv s ∧ step s = .next t := ⟨State.reset, tick State.reset, inv_ok _ (by decide +kernel), rfl⟩
theorem meets_NoStepUndoesWhatLasts : ∃ (s t : State), step s = .next t ∧ Retired s ∧ s.boot.fusedEng ≠ [] ∧ s.pending ≠ [] :=
  ⟨{ lcState 4 with boot := { (lcState 4).boot with fusedEng := [6] }, pending := [.idcode] }, _, rfl, ⟨rfl, rfl⟩, by decide, by decide⟩

end Sys2Proof.Tests
end

/-! Proofs of the bit-field unit: R93 and R95 from one equation for each operation code. -/

namespace Sys2Proof.Machine

section BitFieldUnit

variable {opl a b b' : Word} {k n : Nat}

/-! ### What each operation code selects (Table 05-9) -/

theorem bfuResult_sll (h : opCode opl = 0) : bfuResult opl a b = a <<< (b.toNat % 64) := by simp only [bfuResult, h]
theorem bfuResult_srl (h : opCode opl = 1) : bfuResult opl a b = a >>> (b.toNat % 64) := by simp only [bfuResult, h]
theorem bfuResult_sra (h : opCode opl = 2) : bfuResult opl a b = a.sshiftRight (b.toNat % 64) := by simp only [bfuResult, h]
theorem bfuResult_rol (h : opCode opl = 3) : bfuResult opl a b = rotL a (b.toNat % 64) := by simp only [bfuResult, h]
theorem bfuResult_ror (h : opCode opl = 4) : bfuResult opl a b = rotL a (32 - b.toNat % 64 % 32) := by simp only [bfuResult, h]
theorem bfuResult_clz (h : opCode opl = 11) : bfuResult opl a b = BitVec.ofNat 32 (leadZeros a.toNat 32) := by simp only [bfuResult, h]
theorem bfuResult_ctz (h : opCode opl = 12) : bfuResult opl a b = BitVec.ofNat 32 (trailZeros a.toNat 0 32) := by simp only [bfuResult, h]
theorem bfuResult_popc (h : opCode opl = 13) : bfuResult opl a b = BitVec.ofNat 32 (onesIn a.toNat 32) := by simp only [bfuResult, h]

/-- The five operations that move bits by an amount: SLL, SRL, SRA, ROL, ROR. -/
theorem shift_codes (h : opCode opl ≤ 4) : opCode opl = 0 ∨ opCode opl = 1 ∨ opCode opl = 2 ∨ opCode opl = 3 ∨ opCode opl = 4 := by omega

/-! ### The amount (R93) -/

theorem toNat_and_low6 (b : Word) : (b &&& 63#32).toNat = b.toNat % 64 := by
  rw [BitVec.toNat_and]; exact Nat.and_two_pow_sub_one_eq_mod b.toNat 6

theorem toNat_and_low5 (b : Word) : (b &&& 31#32).toNat = b.toNat % 32 := by
  rw [BitVec.toNat_and]; exact Nat.and_two_pow_sub_one_eq_mod b.toNat 5

/-- Shifts and rotates read B only through its amount B[5:0]. -/
theorem bfuResult_congr_amount (h : opCode opl ≤ 4) (hb : b.toNat % 64 = b'.toNat % 64) : bfuResult opl a b = bfuResult opl a b' := by
  obtain h | h | h | h | h := shift_codes h
  · rw [bfuResult_sll h, bfuResult_sll h, hb]
  · rw [bfuResult_srl h, bfuResult_srl h, hb]
  · rw [bfuResult_sra h, bfuResult_sra h, hb]
  · rw [bfuResult_rol h, bfuResult_rol h, hb]
  · rw [bfuResult_ror h, bfuResult_ror h, hb]

theorem rotL_congr {m : Nat} (h : n % 32 = m % 32) : rotL a n = rotL a m := by unfold rotL; rw [h]

/-- Rotates read the amount mod 32. -/
theorem bfuResult_congr_rotate (h : opCode opl = 3 ∨ opCode opl = 4) (hb : b.toNat % 32 = b'.toNat % 32) :
    bfuResult opl a b = bfuResult opl a b' := by
  have hm : b.toNat % 64 % 32 = b'.toNat % 64 % 32 := by omega
  obtain h | h := h
  · rw [bfuResult_rol h, bfuResult_rol h, rotL_congr hm]
  · rw [bfuResult_ror h, bfuResult_ror h, hm]

/-! ### Bits of a rotated word, and of an arithmetic shift -/

/-- Rotating left by `n` brings bit `k + n` from bit `k`, both mod 32. -/
theorem getLsbD_rotL (hk : k < 32) : (rotL a n).getLsbD k = a.getLsbD ((k + (32 - n % 32)) % 32) := by
  have hn : n % 32 < 32 := Nat.mod_lt _ (by omega)
  rw [rotL, BitVec.getLsbD_rotateLeft, Nat.mod_mod]
  by_cases h : k < n % 32
  · simp only [h, decide_true, cond_true]
    congr 1; omega
  · simp only [h, decide_false, cond_false, hk, decide_true, Bool.true_and]
    congr 1; omega

theorem rotL_eq_self (h : n % 32 = 0) : rotL a n = a :=
  BitVec.eq_of_getLsbD_eq fun k hk => by
    rw [getLsbD_rotL hk, h]
    congr 1; omega

theorem getLsbD_sra (h : opCode opl = 2) (hk : k < 32) :
    (bfuResult opl a b).getLsbD k = if k + b.toNat % 64 < 32 then a.getLsbD (k + b.toNat % 64) else a.getLsbD 31 := by
  have hk' : ¬ 32 ≤ k := by omega
  rw [bfuResult_sra h, BitVec.getLsbD_sshiftRight, BitVec.msb_eq_getLsbD_last, Nat.add_comm]
  simp [hk']

/-! ### The amounts 0, and 31 and above -/

theorem bfuResult_amount_zero (h : opCode opl ≤ 4) (hb : b.toNat % 64 = 0) : bfuResult opl a b = a := by
  obtain h | h | h | h | h := shift_codes h
  · rw [bfuResult_sll h, hb, BitVec.shiftLeft_zero]
  · rw [bfuResult_srl h, hb, BitVec.ushiftRight_zero]
  · rw [bfuResult_sra h, hb, BitVec.sshiftRight_zero]
  · rw [bfuResult_rol h, rotL_eq_self (by omega)]
  · rw [bfuResult_ror h, rotL_eq_self (by omega)]

theorem logicalShift_past_word (h : opCode opl ≤ 1) (hb : 32 ≤ b.toNat % 64) : bfuResult opl a b = 0#32 := by
  obtain h | h : opCode opl = 0 ∨ opCode opl = 1 := by omega
  · rw [bfuResult_sll h, BitVec.shiftLeft_eq_zero hb]
  · rw [bfuResult_srl h, BitVec.ushiftRight_eq_zero hb]

theorem sra_past_sign (h : opCode opl = 2) (hb : 31 ≤ b.toNat % 64) :
    bfuResult opl a b = if a.getLsbD 31 then 0xFFFFFFFF#32 else 0#32 :=
  BitVec.eq_of_getLsbD_eq fun k hk => by
    have sign : (bfuResult opl a b).getLsbD k = a.getLsbD 31 := by
      rw [getLsbD_sra h hk]
      split
      · congr 1; omega
      · rfl
    rw [sign]
    split
    · next h1 => rw [h1, show (0xFFFFFFFF#32 : Word) = BitVec.allOnes 32 from rfl, BitVec.getLsbD_allOnes, decide_eq_true hk]
    · next h1 => rw [BitVec.getLsbD_zero, Bool.of_not_eq_true h1]

/-! ### Counts (R95) -/

theorem leadZeros_le (v : Nat) : ∀ n, leadZeros v n ≤ n
  | 0 => Nat.le_refl 0
  | n + 1 => by
    have ih := leadZeros_le v n
    unfold leadZeros
    split <;> omega

/-- The bits that CLZ counts are 0. -/
theorem testBit_of_leadZeros {v i : Nat} : ∀ {n}, n - leadZeros v n ≤ i → i < n → v.testBit i = false
  | n + 1, h, hi => by
    have le := leadZeros_le v n
    unfold leadZeros at h
    split at h
    · omega
    · next hn =>
      by_cases e : i = n
      · rw [e]; exact Bool.of_not_eq_true hn
      · exact testBit_of_leadZeros (n := n) (by omega) (by omega)

/-- The bit at which CLZ stops counting is 1. -/
theorem testBit_at_leadZeros {v : Nat} : ∀ {n}, leadZeros v n < n → v.testBit (n - 1 - leadZeros v n) = true
  | n + 1, h => by
    unfold leadZeros at h ⊢
    split
    · next hn => simpa using hn
    · next hn =>
      rw [if_neg hn] at h
      have ih := testBit_at_leadZeros (v := v) (n := n) (by omega)
      rwa [show n + 1 - 1 - (1 + leadZeros v n) = n - 1 - leadZeros v n by omega]

theorem toNat_lt_of_leadZeros (a : Word) : a.toNat < 2 ^ (32 - leadZeros a.toNat 32) :=
  Nat.lt_pow_two_of_testBit _ fun i hi => by
    by_cases h : i < 32
    · exact testBit_of_leadZeros hi h
    · rw [BitVec.testBit_toNat]; exact BitVec.getLsbD_of_ge a i (by omega)

theorem leadZeros_lt_of_ne_zero (h : a ≠ 0#32) : leadZeros a.toNat 32 < 32 := by
  have le := leadZeros_le a.toNat 32
  have lt := toNat_lt_of_leadZeros a
  refine Nat.lt_of_le_of_ne le fun e => h (BitVec.eq_of_toNat_eq ?_)
  rw [e] at lt
  simpa using lt

theorem trailZeros_le (v : Nat) : ∀ n i, trailZeros v i n ≤ n
  | 0, _ => Nat.le_refl 0
  | n + 1, i => by
    have ih := trailZeros_le v n (i + 1)
    unfold trailZeros
    split <;> omega

/-- The bits that CTZ counts are 0. -/
theorem testBit_of_trailZeros {v j : Nat} : ∀ {n i}, i ≤ j → j < i + trailZeros v i n → v.testBit j = false
  | 0, i, hi, h => by unfold trailZeros at h; omega
  | n + 1, i, hi, h => by
    unfold trailZeros at h
    split at h
    · omega
    · next hn =>
      by_cases e : j = i
      · rw [e]; exact Bool.of_not_eq_true hn
      · exact testBit_of_trailZeros (n := n) (i := i + 1) (by omega) (by omega)

/-- The bit at which CTZ stops counting is 1. -/
theorem testBit_at_trailZeros {v : Nat} : ∀ {n i}, trailZeros v i n < n → v.testBit (i + trailZeros v i n) = true
  | n + 1, i, h => by
    unfold trailZeros at h ⊢
    split
    · next hn => exact hn
    · next hn =>
      rw [if_neg hn] at h
      have ih := testBit_at_trailZeros (v := v) (n := n) (i := i + 1) (by omega)
      rwa [← Nat.add_assoc]

theorem getLsbD_of_trailZeros (h : k < trailZeros a.toNat 0 32) : a.getLsbD k = false := by
  rw [← BitVec.testBit_toNat]
  exact testBit_of_trailZeros (n := 32) (Nat.zero_le k) (by omega)

theorem trailZeros_lt_of_ne_zero (h : a ≠ 0#32) : trailZeros a.toNat 0 32 < 32 := by
  refine Nat.lt_of_le_of_ne (trailZeros_le a.toNat 32 0) fun e => h (BitVec.eq_of_getLsbD_eq fun k hk => ?_)
  rw [getLsbD_of_trailZeros (by omega), BitVec.getLsbD_zero]

/-- POPC counts the positions that hold a 1. -/
theorem onesIn_eq_length (v : Nat) : ∀ n, onesIn v n = ((List.range n).filter fun k => v.testBit k).length
  | 0 => rfl
  | n + 1 => by
    rw [List.range_succ, List.filter_append, List.length_append, ← onesIn_eq_length v n, onesIn, Nat.add_comm]
    cases h : v.testBit n <;> simp [h]

theorem onesIn_le (v n : Nat) : onesIn v n ≤ n := by
  rw [onesIn_eq_length]
  simpa using List.length_filter_le (fun k => v.testBit k) (List.range n)

/-- A count of at most 32 bits fits its result. -/
theorem toNat_ofNat_count (h : n ≤ 32) : (BitVec.ofNat 32 n).toNat = n := by
  rw [BitVec.toNat_ofNat]; omega

theorem toNat_clz (h : opCode opl = 11) : (bfuResult opl a b).toNat = leadZeros a.toNat 32 := by
  rw [bfuResult_clz h, toNat_ofNat_count (leadZeros_le _ _)]

theorem toNat_ctz (h : opCode opl = 12) : (bfuResult opl a b).toNat = trailZeros a.toNat 0 32 := by
  rw [bfuResult_ctz h, toNat_ofNat_count (trailZeros_le _ _ _)]

theorem toNat_popc (h : opCode opl = 13) : (bfuResult opl a b).toNat = onesIn a.toNat 32 := by
  rw [bfuResult_popc h, toNat_ofNat_count (onesIn_le _ _)]

end BitFieldUnit

/-- Settles O57: each clause from the equation of its operation code; the counts by induction on the bits that remain. -/
theorem shiftsRotatesAndCounts : Obligations.ShiftsRotatesAndCounts := by
  unfold Obligations.ShiftsRotatesAndCounts
  refine ⟨fun opl a b h => ?amount, fun opl a b => logicalShift_past_word, fun opl a b => sra_past_sign, fun opl a b h => ?rotate,
    fun opl a b => bfuResult_amount_zero, fun opl a b k h hb hk => ?sll, fun opl a b k h => ?srl, fun opl a b k => getLsbD_sra,
    fun opl a b k h hk => ?rol, fun opl a b k h hk => ?ror, fun opl a b h => ?clz, fun opl a b h => ?ctz, fun opl a b h => ?popc⟩
  case amount => exact bfuResult_congr_amount h (by rw [toNat_and_low6, Nat.mod_mod])
  case rotate => exact bfuResult_congr_rotate h (by rw [toNat_and_low5, Nat.mod_mod])
  case sll =>
    rw [bfuResult_sll h, BitVec.getLsbD_shiftLeft, decide_eq_true hk, Bool.true_and, ← decide_not]
    simp only [Nat.not_lt]
  case srl => rw [bfuResult_srl h, BitVec.getLsbD_ushiftRight, Nat.add_comm]
  case rol =>
    rw [bfuResult_rol h, getLsbD_rotL (Nat.mod_lt _ (by omega))]
    congr 1; omega
  case ror =>
    rw [bfuResult_ror h, getLsbD_rotL hk]
    congr 1; omega
  case clz =>
    rw [toNat_clz h]
    refine ⟨leadZeros_le _ _, toNat_lt_of_leadZeros a, fun ha => ?_, fun ha => by rw [ha]; rfl⟩
    have lt := leadZeros_lt_of_ne_zero ha
    exact ⟨lt, BitVec.testBit_toNat a ▸ testBit_at_leadZeros lt⟩
  case ctz =>
    rw [toNat_ctz h]
    refine ⟨fun k => getLsbD_of_trailZeros, fun ha => ?_, fun ha => by rw [ha]; rfl⟩
    have lt := trailZeros_lt_of_ne_zero ha
    have one := testBit_at_trailZeros lt
    rw [Nat.zero_add, BitVec.testBit_toNat] at one
    exact ⟨lt, one⟩
  case popc =>
    rw [toNat_popc h, onesIn_eq_length]
    simp only [BitVec.testBit_toNat]

end Sys2Proof.Machine

/-! Proofs of the sums and differences of alu0 and alu1 (R84): what the add and sub triggers leave in a unit, what a bundle without an
effect outside its engine does, and what the step of an engine of a split pair leaves as it was. -/

namespace Sys2Proof.Machine

/-! ### The add and sub triggers -/

section AluTriggers

variable {e : Engine} {lat : Latches} {vs : List (Nat × Word)} {v : Word} {precise first : Bool}

theorem unitEffect_alu0_add (h : moved vs 25 = some v) : (unitEffect e lat vs precise first).res.alu0q = v + lat.alu0o := by
  simp only [unitEffect, h]

theorem unitEffect_alu0_sub (h0 : moved vs 25 = none) (h : moved vs 26 = some v) :
    (unitEffect e lat vs precise first).res.alu0q = v - lat.alu0o := by
  simp only [unitEffect, h0, h]

theorem unitEffect_alu1_add (h : moved vs 30 = some v) : (unitEffect e lat vs precise first).res.alu1q = v + lat.alu1o := by
  simp only [unitEffect, h]

theorem unitEffect_alu1_sub (h0 : moved vs 30 = none) (h : moved vs 31 = some v) :
    (unitEffect e lat vs precise first).res.alu1q = v - lat.alu1o := by
  simp only [unitEffect, h0, h]

/-- Only alu0.x, alu1.x and fpu.x raise arithmetic traps. -/
theorem unitEffect_traps (h0 : moved vs 27 = none) (h1 : moved vs 32 = none) (h2 : moved vs 42 = none) :
    (unitEffect e lat vs precise first).traps = e.traps := by
  simp only [unitEffect, h0, h1, h2, Option.map_none, List.append_nil]

end AluTriggers

/-! ### Values that go to no other socket -/

/-- Every value goes to a general register or to the add or sub trigger of alu0 or alu1. -/
def OnlySums (vs : List (Nat × Word)) : Prop := ∀ p ∈ vs, p.1 < 24 ∨ p.1 = 25 ∨ p.1 = 26 ∨ p.1 = 30 ∨ p.1 = 31

section OnlySums

variable {vs : List (Nat × Word)}

theorem moved_eq_none {d : Nat} (h : ∀ p ∈ vs, p.1 ≠ d) : moved vs d = none := by
  rw [moved, Option.map_eq_none_iff, List.find?_eq_none]
  intro p hp
  simpa using h p hp

theorem OnlySums.moved_none (h : OnlySums vs) {d : Nat} (hd : 32 ≤ d ∨ d = 27) : moved vs d = none :=
  moved_eq_none fun p hp => by have := h p hp; omega

theorem OnlySums.cuMove_none (h : OnlySums vs) : cuMove vs = none := by
  rw [cuMove, List.find?_eq_none]
  intro p hp
  have := h p hp
  simp only [Bool.and_eq_true, decide_eq_true_eq]
  omega

theorem writeLatch_eq_self {l : Latches} {d : Nat} {v : Word} (h : d < 24 ∨ d = 25 ∨ d = 26 ∨ d = 30 ∨ d = 31) : writeLatch l d v = l := by
  unfold writeLatch
  split
  case h_17 => rfl
  all_goals omega

theorem OnlySums.writeLatches_eq (h : OnlySums vs) (l : Latches) : writeLatches l vs = l := by
  induction vs with
  | nil => rfl
  | cons p ps ih =>
    change writeLatches (writeLatch l p.1 p.2) ps = l
    rw [writeLatch_eq_self (h p List.mem_cons_self)]
    exact ih fun q hq => h q (List.mem_cons_of_mem p hq)

/-- Nothing is at fault in a bundle that is read without error, has no clash and no reserved source, does not read lsu.q and moves its
values only to such sockets. -/
theorem OnlySums.issueFault_eq_zero (h : OnlySums vs) {e : Engine} {i : Inp} {b : Bundle} {ms : List Move} {lat : Latches} {ld st : AccRes}
    (hc : anyClash ms = false) (hr : namesReserved b = false) (hq : (ms.any fun m => m.src == 31) = false) :
    issueFault e i b false ms vs lat ld st = 0 := by
  cases hp : st.place <;> simp [issueFault, hc, hr, hq, h.cuMove_none, h.moved_none, hp, minCode]

end OnlySums

/-! ### An issued bundle without an effect outside its engine -/

/-- A step issues one bundle and gives engine `e`: no store or send, no activation, no refusal, no late wait, no control effect. -/
structure QuietIssue (o : IssueOut) (e : Engine) : Prop where
  eng : o.eng = e
  outs : o.outs = []
  heavy : o.heavy = 0
  refused : o.refused = 0
  late : o.late = false
  mark : o.mark = false
  restart : o.restart = false
  issued : o.issued = true
  stalled : o.stalled = false
  extra : o.extra = 0

/-- A position at bundle `a` with nothing active, after the bundle at `l`. -/
def standing (a l : Nat) (c : Bool) : Pos := { Pos.start a with lastpc := l, cntOwn := c }

theorem advance_standing (a l : Nat) (c : Bool) (b : Bundle) (m : Bool) : advance (standing a l c) b m = standing (a + 1) a c := rfl

/-- With no operation in flight nothing lands. -/
theorem tickPipes_eq_self {e : Engine} (hm : e.mulP = []) (hf : e.fpuP = []) : tickPipes e = e := by
  obtain ⟨⟩ := e
  simp only at hm hf
  subst hm hf
  rfl

theorem tickTraps_eq_self {e : Engine} (h : e.traps = []) : tickTraps e = e := by rw [tickTraps, h, List.map_nil, ← h]

theorem judgeWait_eq_self {i : Inp} {e : Engine} (h : e.pos.arm = none) : judgeWait i e = (e, none) := by rw [judgeWait, h]

theorem boundaryDue_eq_nil {e : Engine} (ht : e.traps = []) (hl : e.pos.late = none) (hk : e.exc.keep = []) : boundaryDue e = [] := by
  simp [boundaryDue, ht, hl, hk]

/-- With nothing pending, the end of a bundle counts its step and does nothing else. -/
theorem endBundle_standing {i : Inp} {e : Engine} {a l : Nat} {c : Bool} (hpos : e.pos = standing a l c) (ha : a ≠ 8192) (ht : e.traps = [])
    (hd : e.exc.due = []) (hk : e.exc.keep = []) (hf : e.exc.fresh = none) (hr : e.exc.rfe = false) :
    endBundle i e = ⟨addSteps 1 e, false, none, false, false, 0⟩ := by
  have arm : (addSteps 1 e).pos.arm = none := by rw [show (addSteps 1 e).pos = e.pos from rfl, hpos]; rfl
  have due : boundaryDue (addSteps 1 e) = [] := boundaryDue_eq_nil ht (by rw [show (addSteps 1 e).pos = e.pos from rfl, hpos]; rfl) hk
  rw [endBundle, tickTraps_eq_self ht]
  simp only [judgeWait_eq_self arm, due]
  simp [addSteps, hpos, standing, Pos.start, applyCtl, ha, hd, hk, hf, hr, ht]

/-! ### A bundle of sums and register moves -/

/-- The values of the moves `ms` whose sources are general registers, by destination. -/
def regReads (e : Engine) (ms : List Move) : List (Nat × Word) := ms.map fun m => (m.dst, kvGet 0#32 e.g m.src)

/-- What the moves of `OnlySums` leave in the units: the q of alu0 and of alu1, where one of their triggers is moved to. -/
def sumResults (e : Engine) (vs : List (Nat × Word)) : Results := (unitEffect e e.lat vs e.exc.precise (isFirst e.exc)).res

/-- The engine after a bundle that makes the moves `ms` from general registers to sockets of `OnlySums`. -/
def afterSums (e : Engine) (ms : List Move) : Engine :=
  { addSteps 1 e with
    res := sumResults e (regReads e ms)
    g := writeRegs e.g (regReads e ms)
    pos := standing (e.pos.pc + 1) e.pos.pc e.pos.cntOwn }

theorem srcValue_reg {e : Engine} {i : Inp} {lit : Word} {k : Nat} (h : k < 24) : srcValue e i lit k = kvGet 0#32 e.g k := by
  unfold srcValue
  exact if_pos h

theorem map_srcValue_eq_regReads {e : Engine} {i : Inp} {lit : Word} {ms : List Move} (h : ∀ m ∈ ms, m.src < 24) :
    (ms.map fun m => (m.dst, srcValue e i lit m.src)) = regReads e ms :=
  List.map_congr_left fun m hm => by rw [srcValue_reg (h m hm)]

theorem any_src_eq_false {ms : List Move} {k : Nat} (h : ∀ m ∈ ms, m.src < 24) (hk : 24 ≤ k) : (ms.any fun m => m.src == k) = false := by
  rw [List.any_eq_false]
  intro m hm
  have := h m hm
  simp only [beq_iff_eq]
  omega

/-- A bundle that takes nothing from the receive queue leaves it as it is. -/
theorem readRq_eq_self (q : RecvQ) : readRq q false false = q := by simp [readRq]

theorem OnlySums.lsuEffect_eq {vs : List (Nat × Word)} (h : OnlySums vs) (e : Engine) (i : Inp) (lat : Latches) (g : Kv Word) (ld st : AccRes) :
    lsuEffect e i lat vs g ld st = (e, 0, [], []) := by
  simp [lsuEffect, h.moved_none]

theorem OnlySums.waitEffect_eq {vs : List (Nat × Word)} (h : OnlySums vs) (e : Engine) (i : Inp) (lat : Latches) (a : Nat) (first : Bool) :
    waitEffect e i lat vs a first = e := by
  simp [waitEffect, h.moved_none]

/-- The units of an engine take nothing but results from sums and differences: no operation in flight and no trap. -/
theorem OnlySums.unitEffect_eq {vs : List (Nat × Word)} (h : OnlySums vs) (e : Engine) :
    unitEffect e e.lat vs e.exc.precise (isFirst e.exc) = { e with res := sumResults e vs } := by
  simp only [sumResults, unitEffect, h.moved_none (d := 27), h.moved_none (d := 32), h.moved_none (d := 38), h.moved_none (d := 42),
    Option.map_none, List.append_nil, Nat.reduceLeDiff, true_or, or_true]

theorem cuEffect_none (e : Engine) (p : Pos) : cuEffect e p none = ({ e with pos := p }, []) := rfl

theorem issueBundle_sums {i : Inp} {acc : AccFn} {e : Engine} {ms : List Move} {a l : Nat} {c : Bool} (hn : BundleNext e ms)
    (hpos : e.pos = standing a l c) (hsrc : ∀ m ∈ ms, m.src < 24) (hs : OnlySums (regReads e ms)) :
    QuietIssue (issueBundle i acc e) (afterSums e ms) := by
  obtain ⟨w, hfetch, hms, hclash, hres⟩ := hn.bundle
  have hheld : { e with heldLsu := false } = e := by rw [← hn.held]
  have reads : ∀ k, 24 ≤ k → (ms.any fun m => m.src == k) = false := fun k => any_src_eq_false hsrc
  have moves : ∀ d, 32 ≤ d → moved (regReads e ms) d = none := fun d hd => hs.moved_none (.inl hd)
  have hrel : e.pos.relLim = none := by rw [hpos]; rfl
  have hadv : ∀ m, advance { e.pos with relLim := none } w m = standing (e.pos.pc + 1) e.pos.pc e.pos.cntOwn := by
    intro m
    rw [hpos]
    exact advance_standing a l c w m
  have hend : ∀ e' : Engine, e'.pos = standing (e.pos.pc + 1) e.pos.pc e.pos.cntOwn → e'.traps = e.traps → e'.exc = e.exc →
      endBundle i e' = ⟨addSteps 1 e', false, none, false, false, 0⟩ := by
    intro e' hp ht hx
    have hpc := hn.pc
    exact endBundle_standing hp (by omega) (ht.trans hn.traps) (hx ▸ hn.due) (hx ▸ hn.keep) (hx ▸ hn.fresh) (hx ▸ hn.rfe)
  unfold issueBundle
  simp only [tickPipes_eq_self hn.mulP hn.fpuP, hfetch, hms, map_srcValue_eq_regReads hsrc, hs.writeLatches_eq, hheld,
    reads 31 (by omega), reads 37 (by omega), reads 38 (by omega), moves 38 (by omega), moves 42 (by omega), moves 61 (by omega),
    moves 62 (by omega), hs.issueFault_eq_zero hclash hres (reads 31 (by omega)), hs.unitEffect_eq, hs.lsuEffect_eq, hs.waitEffect_eq,
    hs.cuMove_none, readRq_eq_self, hrel, hadv, cuEffect_none, hend, Bool.and_false, Bool.false_and, Bool.false_eq_true, if_false, ne_eq,
    not_true_eq_false, Option.isSome_none, and_false]
  constructor <;> rfl

/-! ### The step of an engine of a split pair -/

section SplitStep

variable {s : State} {n q k : Nat} {e : Engine} {mark : Bool}

theorem inReplay_eq_false {p : Pair} (h : p.phase = .none) : inReplay p = false := by rw [inReplay, h]

theorem pairSplit_eq_true {p : Pair} (h : p.st = .split) : pairSplit p = true := by rw [pairSplit, h]; rfl

theorem countsChecked_eq_false {p : Pair} (h : p.st = .split) : countsChecked p = false := by rw [countsChecked, h]

/-- Outside a replay with no parcel upset, the bundle issues from the state as it stands. -/
theorem exec_bundleIssue {n : Fin 256} (ha : alone s n) :
    exec (.bundleIssue n ⟨q, 0⟩) s = .next (unloadHalted (bundleIssue n q s)) := by
  have replay : replayDebug itemWrite (pairOf n) s = s := by simp [replayDebug, inReplay_eq_false ha.2]
  change Host.Outcome.next (unloadHalted (bundleIssue n q (upsetParcels n 0 (replayDebug itemWrite (pairOf n) s)))) = _
  rw [replay]
  rfl

theorem unloadHalted_eq_self (h : s.svc.unloads = []) : unloadHalted s = s := by
  simp only [unloadHalted, h, List.filter_nil, List.foldl_nil]
  rw [← h]

theorem pairAfter_eq_self {m : Nat} (h : (getPair s m).st = .split) : pairAfter m s = s := by
  rw [pairAfter, if_pos (.inl (countsChecked_eq_false h))]

theorem mergeAfter_eq_self {m : Nat} (h : (getPair s m).cmdDue = false) : mergeAfter m s = s := by
  simp [mergeAfter, h]

theorem issueStep_eq_issueBundle {i : Inp} {acc : AccFn} (hi : e.pos.ins = 0) (hk : e.pos.kill = 0) : issueStep i acc e = issueBundle i acc e := by
  simp [issueStep, hi, hk]

theorem applyEngCmd_eq_self (hi : (getEng s n).pos.ins = 0) (hr : (getEng s n).exc.rfe = false) (hc : (getEng s n).cmd = 0) :
    applyEngCmd n s = s := by
  simp [applyEngCmd, hi, hr, hc]

theorem splitSteps_eq : splitSteps n k mark s = { s with pair := (splitSteps n k mark s).pair } := by
  unfold splitSteps
  split <;> rfl

theorem getEng_splitSteps (i : Nat) : getEng (splitSteps n k mark s) i = getEng s i := by rw [splitSteps_eq]; rfl

theorem getEng_splitSteps_setEng (h : e.st ≠ .halted) : getEng (splitSteps n k mark (setEng n e s)) n = e := by
  rw [getEng_splitSteps, getEng_setEng_same fun hf => h (congrArg Engine.st hf)]

theorem splitSteps_cat : (splitSteps n k mark s).cat = s.cat := by rw [splitSteps_eq]

theorem getPair_splitSteps_other {i : Nat} (h : i ≠ pairOf n) : getPair (splitSteps n k mark s) i = getPair s i := by
  unfold splitSteps
  split
  · exact getPair_setPair_other h
  · rfl

theorem getPair_splitSteps (hs : (getPair s (pairOf n)).st = .split) (hm : noMerge s n) :
    getPair (splitSteps n k mark s) (pairOf n) =
      if n % 2 = 0 then { getPair s (pairOf n) with sinceCap := (getPair s (pairOf n)).sinceCap + k, capDue := false } else getPair s (pairOf n) := by
  have even : n = mainOf (pairOf n) ↔ n % 2 = 0 := by unfold mainOf pairOf; omega
  have waits : mergeWaits (getPair s (pairOf n)) = false := by rw [mergeWaits, show (getPair s (pairOf n)).cmdDue = false from hm, Bool.and_false]
  simp only [splitSteps, even]
  split
  · rw [modPair, getPair_setPair_same]
    · simp only [waits, Bool.false_and]
    · intro hf
      have := congrArg Pair.st hf
      rw [show Pair.fresh.st = .idle from rfl] at this
      simp [hs] at this
  · rfl

theorem notePeak_cases (s : State) : notePeak s = s ∨ notePeak s = valPut (callNo 0x1920 4) (outstanding s) s := by
  simp only [notePeak]
  split
  · exact .inr rfl
  · exact .inl rfl

theorem notePeak_eq (s : State) : notePeak s = { s with cat := (notePeak s).cat } := by
  obtain h | h := notePeak_cases s
  · rw [h]
  · rw [h]; rfl

theorem valsBut_notePeak (s : State) : valsBut [callNo 0x1920 4] s (notePeak s) := by
  obtain h | h := notePeak_cases s
  · rw [h]
    exact ⟨fun _ _ => rfl, rfl, rfl, rfl, rfl⟩
  · rw [h]
    refine ⟨fun c hc => ?_, rfl, rfl, rfl, rfl⟩
    exact kvGet_kvSet_other (d := (0 : Nat)) (v := outstanding s + 1) (by simpa using hc)

theorem getEng_notePeak (i : Nat) : getEng (notePeak s) i = getEng s i := by rw [notePeak_eq]; rfl

theorem getPair_notePeak (i : Nat) : getPair (notePeak s) i = getPair s i := by rw [notePeak_eq]; rfl

/-- The state after a step in which engine `n` of a split pair becomes `e` and nothing leaves it. -/
def stepAlone (n : Nat) (e : Engine) (s : State) : State := notePeak (splitSteps n 1 false (setEng n e s))

theorem engineStep_eq_stepAlone (ha : alone s n) (hq : QuietIssue (issueStep (sampleInp s n q) (accessCheck s n) (getEng s n)) e)
    (hi : e.pos.ins = 0) (hr : e.exc.rfe = false) (hc : e.cmd = 0) (hst : e.st ≠ .halted) :
    engineStep n q s = stepAlone n { e with heldHeavy := false } s := by
  have hget := getEng_splitSteps_setEng (s := s) (n := n) (k := 1) (mark := false) (e := { e with heldHeavy := false }) hst
  have hcmd : applyEngCmd n (splitSteps n 1 false (setEng n { e with heldHeavy := false } s)) = _ :=
    applyEngCmd_eq_self (by rw [hget]; exact hi) (by rw [hget]; exact hr) (by rw [hget]; exact hc)
  simp only [engineStep, hq.eng, hq.outs, hq.late, hq.mark, hq.restart, hq.stalled, inReplay_eq_false ha.2, pairSplit_eq_true ha.1, stepAlone,
    noteTile, hq.heavy, hq.refused, stepsOf, hq.issued, hq.extra, List.foldl_nil, Bool.and_false, Bool.false_eq_true, if_false, if_true,
    Bool.true_or, Nat.add_zero, hcmd]

theorem getEng_stepAlone (hst : e.st ≠ .halted) : getEng (stepAlone n e s) n = e := by
  rw [stepAlone, getEng_notePeak, getEng_splitSteps_setEng hst]

theorem getPair_stepAlone (ha : alone s n) (hm : noMerge s n) :
    getPair (stepAlone n e s) (pairOf n) =
      if n % 2 = 0 then { getPair s (pairOf n) with sinceCap := (getPair s (pairOf n)).sinceCap + 1, capDue := false } else getPair s (pairOf n) := by
  rw [stepAlone, getPair_notePeak]
  exact getPair_splitSteps (s := setEng n e s) ha.1 hm

theorem stepAlone_st (ha : alone s n) (hm : noMerge s n) : (getPair (stepAlone n e s) (pairOf n)).st = .split := by
  rw [getPair_stepAlone ha hm]
  split <;> exact ha.1

theorem stepAlone_cmdDue (ha : alone s n) (hm : noMerge s n) : (getPair (stepAlone n e s) (pairOf n)).cmdDue = false := by
  rw [getPair_stepAlone ha hm]
  split <;> exact hm

theorem stepAlone_eq : stepAlone n e s =
    { s with eng := (stepAlone n e s).eng, pair := (stepAlone n e s).pair, cat := (stepAlone n e s).cat } := by
  rw [stepAlone, notePeak_eq, splitSteps_eq]
  rfl

theorem besideStep_stepAlone (ha : alone s n) (hm : noMerge s n) : besideStep n 1 s (stepAlone n e s) := by
  refine ⟨?parts, fun i hi => ?engines, fun i hi => ?pairs, ?values, getPair_stepAlone ha hm⟩
  case parts =>
    rw [stepAlone_eq]
    simp [sameBut]
  case engines =>
    rw [stepAlone, getEng_notePeak, getEng_splitSteps, getEng_setEng_other (by simpa using hi)]
  case pairs =>
    rw [stepAlone, getPair_notePeak, getPair_splitSteps_other (by simpa using hi)]
    rfl
  case values =>
    have h := valsBut_notePeak (splitSteps n 1 false (setEng n e s))
    rwa [valsBut, splitSteps_cat] at h

/-- An engine that may issue, in a pair that does not replay, is RUNNING. -/
theorem running_of_bundleNext (ha : alone s n) (hb : bundleNext s n = true) : (getEng s n).st = .running := by
  simp only [bundleNext, mayIssue, inReplay_eq_false ha.2, Bool.and_false, Bool.or_false, Bool.and_eq_true, beq_iff_eq] at hb
  obtain ⟨⟨⟨⟨⟨⟨⟨⟨⟨-, run⟩, -⟩, -⟩, -⟩, -⟩, -⟩, -⟩, -⟩, -⟩ := hb
  exact run

/-- A bundle of sums and register moves, issued by an engine of a split pair. -/
theorem exec_bundleIssue_sums {n : Fin 256} {ms : List Move} {a l : Nat} {c : Bool} (ha : alone s n) (hm : noMerge s n)
    (hu : s.svc.unloads = []) (hb : bundleNext s n = true) (hc : (getEng s n).cmd = 0) (hn : BundleNext (getEng s n) ms)
    (hpos : (getEng s n).pos = standing a l c) (hsrc : ∀ m ∈ ms, m.src < 24) (hs : OnlySums (regReads (getEng s n) ms)) :
    exec (.bundleIssue n ⟨q, 0⟩) s = .next (stepAlone n { afterSums (getEng s n) ms with heldHeavy := false } s) := by
  have run := running_of_bundleNext ha hb
  have quiet : QuietIssue (issueStep (sampleInp s n q) (accessCheck s n) (getEng s n)) (afterSums (getEng s n) ms) := by
    rw [issueStep_eq_issueBundle (by rw [hpos]; rfl) (by rw [hpos]; rfl)]
    exact issueBundle_sums hn hpos hsrc hs
  have step := engineStep_eq_stepAlone ha quiet rfl hn.rfe hc (by rw [show (afterSums (getEng s n) ms).st = .running from run]; decide)
  rw [exec_bundleIssue ha, bundleIssue, if_pos hb, issueOne, step, pairAfter_eq_self (stepAlone_st ha hm),
    mergeAfter_eq_self (stepAlone_cmdDue ha hm), unloadHalted_eq_self]
  rw [stepAlone_eq]
  exact hu

end SplitStep

/-! ### One sum or difference -/

theorem addSteps_of_no_window {e : Engine} {k : Nat} (h : e.exc.atomic = none) :
    addSteps k e = { e with ctr := { e.ctr with steps := (e.ctr.steps + k) % 2 ^ 64 } } := by
  rw [addSteps, h, Option.map_none, ← h]

section OneSum

variable (e : Engine) (v : Word)

theorem sumResults_alu0_add : sumResults e [(25, v)] = { e.res with alu0q := v + e.lat.alu0o } := rfl
theorem sumResults_alu0_sub : sumResults e [(26, v)] = { e.res with alu0q := v - e.lat.alu0o } := rfl
theorem sumResults_alu1_add : sumResults e [(30, v)] = { e.res with alu1q := v + e.lat.alu1o } := rfl
theorem sumResults_alu1_sub : sumResults e [(31, v)] = { e.res with alu1q := v - e.lat.alu1o } := rfl

end OneSum

/-- One move to a trigger of alu0 or alu1 leaves the general registers as they are. -/
theorem afterSums_trigger {e : Engine} {r d : Nat} (hd : 24 ≤ d) (h : e.exc.atomic = none) :
    afterSums e [⟨r, d⟩] = { e with
      res := sumResults e [(d, kvGet 0#32 e.g r)]
      ctr := { e.ctr with steps := (e.ctr.steps + 1) % 2 ^ 64 }
      pos := standing (e.pos.pc + 1) e.pos.pc e.pos.cntOwn } := by
  have regs : writeRegs e.g (regReads e [⟨r, d⟩]) = e.g := if_neg (show ¬ d < 24 by omega)
  rw [afterSums, addSteps_of_no_window h, regs]
  rfl

/-- Settles O56: the triggers by the branches of `unitEffect`; the bundle by what the step of an engine of a split pair keeps. -/
theorem sumsAndDifferencesNeverTrap : Obligations.SumsAndDifferencesNeverTrap := by
  unfold Obligations.SumsAndDifferencesNeverTrap
  refine ⟨fun e lat vs v precise first =>
      ⟨unitEffect_alu0_add, unitEffect_alu0_sub, unitEffect_alu1_add, unitEffect_alu1_sub, unitEffect_traps⟩,
    fun n q l r d c s ha hm hu hb hc hn hr hd hpos => ?_⟩
  have run := running_of_bundleNext ha hb
  have sums : OnlySums (regReads (getEng s n) [⟨r, d⟩]) := List.forall_mem_singleton.2 (.inr hd)
  refine ⟨_, exec_bundleIssue_sums ha hm hu hb hc hn hpos (List.forall_mem_singleton.2 hr) sums, besideStep_stepAlone ha hm, ?_⟩
  have own : (getEng s n).pos.cntOwn = c := by rw [hpos]
  rw [getEng_stepAlone (by rw [show (afterSums (getEng s n) [⟨r, d⟩]).st = .running from run]; decide),
    afterSums_trigger (by omega) hn.atomic, own]
  obtain rfl | rfl | rfl | rfl := hd
  · rw [sumResults_alu0_add]; rfl
  · rw [sumResults_alu0_sub]; rfl
  · rw [sumResults_alu1_add]; rfl
  · rw [sumResults_alu1_sub]; rfl

end Sys2Proof.Machine

/-! Proofs of the transfer units' SWAP (R291): which byte of a word each byte of a swapped word comes from, and that the data of a 64-bit
transaction is swapped word by word. -/

namespace Sys2Proof.Machine

section Swap

/-- The word whose byte `k` is `f k`, byte 0 the lowest. -/
def wordOfBytes (f : Nat → Nat) : Nat := f 0 + 256 * f 1 + 65536 * f 2 + 16777216 * f 3

/-- Byte `k` of a number, byte 0 the lowest. -/
def byteOf (v k : Nat) : Nat := v / 256 ^ k % 256

variable {m v w i j : Nat}

/-! ### Bytes of one word and of two -/

theorem div_pow_mod_eq_byteOf : v / 256 ^ i % 256 = byteOf v i := rfl

theorem byteOf_lt : byteOf v j < 256 := Nat.mod_lt _ (by decide)

theorem byteOf_wordOfBytes {f : Nat → Nat} (hf : ∀ k, f k < 256) (hj : j < 4) : byteOf (wordOfBytes f) j = f j := by
  have h0 := hf 0
  have h1 := hf 1
  have h2 := hf 2
  have h3 := hf 3
  unfold byteOf wordOfBytes
  obtain rfl | rfl | rfl | rfl : j = 0 ∨ j = 1 ∨ j = 2 ∨ j = 3 := by omega
  all_goals omega

theorem byteOf_div_pow : byteOf (v / 256 ^ i) j = byteOf v (i + j) := by
  rw [byteOf, byteOf, Nat.div_div_eq_div_mul, ← Nat.pow_add]

theorem bits_twoBytes : bits w (8 * j) 16 = byteOf w j + 256 * byteOf w (j + 1) := by
  rw [bits, Nat.pow_mul, ← byteOf_div_pow]
  exact Nat.mod_mul (a := 256) (b := 256)

/-- The low four bytes of two words are those of the first. -/
theorem byteOf_lowWord {a b : Nat} (hj : j < 4) : byteOf (a + 256 ^ 4 * b) j = byteOf a j := by
  unfold byteOf
  obtain rfl | rfl | rfl | rfl : j = 0 ∨ j = 1 ∨ j = 2 ∨ j = 3 := by omega
  all_goals omega

/-- The bytes from the fourth on of two words are those of the second. -/
theorem byteOf_highWord {a b : Nat} (ha : a < 256 ^ 4) : byteOf (a + 256 ^ 4 * b) (4 + j) = byteOf b j := by
  rw [← byteOf_div_pow, Nat.add_mul_div_left _ _ (by decide), Nat.div_eq_of_lt ha, Nat.zero_add]

/-! ### SWAP on one word -/

theorem swapWord_lt (m w : Nat) : swapWord m w < 256 ^ 4 := by
  unfold swapWord bits
  split <;> omega

/-- Under 0b01 the bytes come in the opposite order. -/
theorem swapWord_bytes : swapWord 1 w = wordOfBytes fun k => byteOf w (3 - k) := rfl

/-- Under 0b10 the halves change places. -/
theorem swapWord_halves : swapWord 2 w = wordOfBytes fun k => byteOf w ((k + 2) % 4) := by
  have high : bits w 16 16 = byteOf w 2 + 256 * byteOf w 3 := bits_twoBytes (j := 2)
  have low : bits w 0 16 = byteOf w 0 + 256 * byteOf w 1 := bits_twoBytes (j := 0)
  simp only [swapWord, wordOfBytes, high, low, Nat.reduceAdd, Nat.reduceMod]
  omega

theorem byteOf_swapWord_bytes (hj : j < 4) : byteOf (swapWord 1 w) j = byteOf w (3 - j) := by
  rw [swapWord_bytes, byteOf_wordOfBytes (fun _ => byteOf_lt) hj]

theorem byteOf_swapWord_halves (hj : j < 4) : byteOf (swapWord 2 w) j = byteOf w ((j + 2) % 4) := by
  rw [swapWord_halves, byteOf_wordOfBytes (fun _ => byteOf_lt) hj]

/-! ### SWAP on the data of a transaction -/

/-- A 32-bit transaction is swapped as one word. -/
theorem swapData_word : swapData m 4 v = swapWord m v := if_neg (by decide)

/-- A 64-bit transaction is swapped as two words, which keep their places. -/
theorem swapData_words : swapData m 8 v = swapWord m v + 256 ^ 4 * swapWord m (v / 256 ^ 4) := if_pos rfl

/-- Byte `i` of a 64-bit transaction comes out of the word that holds it, swapped on its own. -/
theorem byteOf_swapData_words (hi : i < 8) : byteOf (swapData m 8 v) i = byteOf (swapWord m (v / 256 ^ (i / 4 * 4))) (i % 4) := by
  rw [swapData_words]
  by_cases low : i < 4
  · rw [byteOf_lowWord low, Nat.div_eq_of_lt low, Nat.mod_eq_of_lt low, Nat.zero_mul, Nat.pow_zero, Nat.div_one]
  · obtain ⟨j, rfl⟩ := Nat.exists_eq_add_of_le (Nat.le_of_not_lt low)
    have word : (4 + j) / 4 * 4 = 4 := by omega
    have place : (4 + j) % 4 = j := by omega
    rw [byteOf_highWord (swapWord_lt m v), word, place]

end Swap

/-- Settles O58: the word that holds the byte is swapped on its own, and inside a word each byte has its source. -/
theorem swapActsOnEachWord : Obligations.SwapActsOnEachWord := by
  unfold Obligations.SwapActsOnEachWord
  intro v i _ hi
  have place : i % 4 < 4 := Nat.mod_lt i (by decide)
  simp only [div_pow_mod_eq_byteOf]
  refine ⟨?bytes, ?halves, fun low _ => ?word⟩
  case bytes => rw [byteOf_swapData_words hi, byteOf_swapWord_bytes place, byteOf_div_pow]
  case halves => rw [byteOf_swapData_words hi, byteOf_swapWord_halves place, byteOf_div_pow, Nat.mod_add_mod]
  case word => rw [swapData_word, swapData_word]; exact ⟨byteOf_swapWord_bytes low, byteOf_swapWord_halves low⟩

end Sys2Proof.Machine
